-- ==== Sys2Proof/Word.lean ====
section
/-!
DEFINITION. The plain types the E192 model counts and indexes with, and `Table`, a fixed number of
records named by their index (spec/00_scope.md, "Indices and identifiers", "Costs", "Time").
-/

namespace Sys2Proof

/-- One byte of a frame; sums of bytes wrap modulo 256 (R201). -/
abbrev Byte := BitVec 8

/-- The hall clock: a 32-bit count of 10 ms ticks, differences taken modulo 2^32 (R190). -/
abbrev Ticks := BitVec 32

/-- A generation number, 0–65,535, wrapping (R97). -/
abbrev Gen := BitVec 16

/-- A cost in cost units, 0–1,048,574, or INF = 1,048,575 (00_scope.md, "Costs"). -/
abbrev Cost := Nat

abbrev NodeIdx := Fin 256
abbrev SegIdx := Fin 768
abbrev ExitIdx := Fin 24
abbrev ZoneIdx := Fin 48
abbrev SignIdx := Fin 192
abbrev BeamIdx := Fin 8
abbrev LineIdx := Fin 32
abbrev PassageIdx := Fin 8
abbrev TrunkIdx := Fin 2

/-- A hazard level, 0–7. -/
abbrev Level := Fin 8

/-- A direction on a sign face, 0–7, clockwise in steps of 45°. -/
abbrev Dir := Fin 8

/-- A hall id, 0–15; 1–15 name a hall and 0 marks the boundary link inactive. -/
abbrev HallId := Fin 16

/-- A table of exactly `n` records; the index of a record is its identity (R1). -/
structure Table (α : Type) (n : Nat) where
  toList : List α
  size_eq : toList.length = n
  deriving DecidableEq, Repr

namespace Table

variable {α β : Type} {n : Nat}

/-- The record at an index. -/
def get (t : Table α n) (i : Fin n) : α :=
  t.toList.get ⟨i.val, by rw [t.size_eq]; exact i.isLt⟩

/-- The table with one record replaced. -/
def set (t : Table α n) (i : Fin n) (a : α) : Table α n :=
  ⟨t.toList.set i.val a, by rw [List.length_set]; exact t.size_eq⟩

/-- The table whose record at `i` is `f i`. -/
def ofFn (f : Fin n → α) : Table α n :=
  ⟨List.ofFn f, by simp⟩

/-- The table with the same record at every index. -/
def replicate (n : Nat) (a : α) : Table α n :=
  ⟨List.replicate n a, by simp⟩

/-- The records with their indices, in index order. -/
def entries (t : Table α n) : List (Fin n × α) :=
  (List.finRange n).zip t.toList

/-- The defined records of a table of optional records, with their indices, in index order. -/
def defined (t : Table (Option α) n) : List (Fin n × α) :=
  t.entries.filterMap fun e => e.2.map fun a => (e.1, a)

/-- Whether the record at an index is defined. -/
def has (t : Table (Option α) n) (i : Fin n) : Bool :=
  (t.get i).isSome

end Table

end Sys2Proof
end

