-- ==== Sys2Proof/Syntax.lean ====
section
/-!
DEFINITION. The commands of the E192: one constructor of `Instr` for each row of spec/opcode_table.json,
with the operands the spec gives the event (a byte, a line, a channel and its reading, the bytes or bits of
a frame as they arrived). The E192 is a block: a command is a request of the console, a frame of the panel, a
neighbour or a sign head, an edge on a pin, or the completion or expiry of work the part does itself.
-/

namespace Sys2Proof

/-- The two alarm lines (R160). -/
inductive AlarmLine where
  | a
  | b
  deriving DecidableEq, Repr

/-- A byte received on an alarm line, with whether it had a parity or framing error (R162). -/
structure AlarmByte where
  val : Byte
  err : Bool
  deriving DecidableEq, Repr

/-- A byte received on a sign trunk, with whether its stop bit was not found (R202). -/
structure TrunkByte where
  val : Byte
  framing : Bool
  deriving DecidableEq, Repr

/-- What the non-volatile memory holds once a write of the image has completed (R196, R197): what was
written, or whatever a faulty write left in it. -/
inductive WriteResult where
  | good
  | faulty (bytes : List Byte)
  deriving DecidableEq, Repr

/-- The commands of the E192. -/
inductive Instr where
  /-- COLD_RESET (R22, R197): power-on or assertion of the reset pin. -/
  | coldReset
  /-- LOAD_EVENT (R198): the test of the image and the load of the banks after a cold reset. -/
  | loadEvent
  /-- HALL_CLOCK_TICK (R190). -/
  | hallClockTick
  /-- CLOCK_WRAP (R190): the tick that wraps the count to 0. -/
  | clockWrap
  /-- TRANSFER_FIRST_CLOCK (R178): the first console clock of a transfer while READY is asserted. -/
  | transferFirstClock
  /-- LOST_TRANSFER (R181): the first console clock of a transfer while READY is deasserted. -/
  | lostTransfer
  /-- FIRST_BYTE (R178): the first byte of a transfer is complete; a length or the fetch marker. -/
  | firstByte (byte : Byte)
  /-- REQUEST_END (R179): the last counted byte; `bytes` are all the bytes the length counts. -/
  | requestEnd (bytes : List Byte)
  /-- CONSOLE_GAP_LIMIT (R178): 2 ms with no console clock in the middle of a transfer. -/
  | consoleGapLimit
  /-- FETCH_END (R182): the last byte of the held response is clocked out. -/
  | fetchEnd
  /-- READ_STATUS (R184): the completion of the request in TAKING, as for the fifteen rows after it. -/
  | readStatus
  /-- FETCH_NOTICES (R187). -/
  | fetchNotices
  /-- READ_ROUTE (R185). -/
  | readRoute
  /-- READ_EXITS (R70). -/
  | readExits
  /-- READ_ZONES (R37). -/
  | readZones
  /-- READ_SIGNS (R185). -/
  | readSigns
  /-- READ_LINES (R69). -/
  | readLines
  /-- READ_LAYOUT (R12). -/
  | readLayout
  /-- WRITE_LAYOUT (R10). -/
  | writeLayout
  /-- STAGE_FROM_ACTIVE (R13). -/
  | stageFromActive
  /-- COMMIT_LAYOUT (R15). -/
  | commitLayout
  /-- SET_ZONE_LEVEL (R32). -/
  | setZoneLevel
  /-- SET_EXIT_CLOSURE (R59). -/
  | setExitClosure
  /-- CALIBRATE_BEAM (R52). -/
  | calibrateBeam
  /-- STORE_LAYOUT (R195). -/
  | storeLayout
  /-- REINIT (R199). -/
  | reinit
  /-- ERASE_COMPLETE (R196). -/
  | eraseComplete
  /-- WRITE_COMPLETE (R196); `result` is what the memory took. -/
  | writeComplete (result : WriteResult)
  /-- VERIFY_COMPLETE (R196). -/
  | verifyComplete
  /-- RUN_START (R75). -/
  | runStart
  /-- REFRESH_INTERVAL_EXPIRY (R75). -/
  | refreshIntervalExpiry
  /-- SNAPSHOT_COMPLETE (R76). -/
  | snapshotComplete
  /-- PASS1_COMPLETE (R79). -/
  | pass1Complete
  /-- LOAD_COMPLETE (R92). -/
  | loadComplete
  /-- PASS2_COMPLETE (R94). -/
  | pass2Complete
  /-- NEXTHOP_COMPLETE (R96). -/
  | nexthopComplete
  /-- HANDOVER (R97). -/
  | handover
  /-- BEAM_SAMPLE (R41): a converter reading, 0–4095, of one channel. -/
  | beamSample (channel : BeamIdx) (reading : Fin 4096)
  /-- DISCRETE_PIN_CHANGE (R63): the pin of a discrete line takes a value. -/
  | discretePinChange (line : LineIdx) (active : Bool)
  /-- DEBOUNCE_EXPIRY (R63). -/
  | debounceExpiry (line : LineIdx)
  /-- DOOR_GRACE_EXPIRY (R64). -/
  | doorGraceExpiry
  /-- TRUNK_FRAME_END (R123): the end of the last byte of the part's frame. -/
  | trunkFrameEnd (trunk : TrunkIdx)
  /-- REPLY_COMPLETE (R123): the fifth byte received in the reply window; `bytes` are the five. -/
  | replyComplete (trunk : TrunkIdx) (bytes : List TrunkByte)
  /-- REPLY_WINDOW_EXPIRY (R123); `anyByte` says whether a byte was received in the window. -/
  | replyWindowExpiry (trunk : TrunkIdx) (anyByte : Bool)
  /-- TRUNK_OVERCURRENT (R121). -/
  | trunkOvercurrent (trunk : TrunkIdx)
  /-- HOLD_OFF_EXPIRY (R121). -/
  | holdOffExpiry (trunk : TrunkIdx)
  /-- TRUNK_RESTORED (R121): 10 ms with no overcurrent after the driver is switched on. -/
  | trunkRestored (trunk : TrunkIdx)
  /-- TRUNK_RECHECK_OVERCURRENT (R121): an overcurrent within those 10 ms. -/
  | trunkRecheckOvercurrent (trunk : TrunkIdx)
  /-- BUS_FREE (R143): ten recessive bit times; `cutOff` says that a frame being received had not
  reached its length, so that they end that frame. -/
  | busFree (cutOff : Bool)
  /-- LOST_ARBITRATION (R144). -/
  | lostArbitration
  /-- ADVERT_SENT (R145). -/
  | advertSent
  /-- ADVERT_RECEIVED (R151): the end of a received frame; `bits` are the bus levels read after the start
  condition, stuff bits among them, recessive = true. -/
  | advertReceived (bits : List Bool)
  /-- ADVERT_INTERVAL_EXPIRY (R146). -/
  | advertIntervalExpiry
  /-- PASSAGE_AGE_EXPIRY (R155). -/
  | passageAgeExpiry (passage : PassageIdx)
  /-- DUPLICATE_WATCH_EXPIRY (R152). -/
  | duplicateWatchExpiry
  /-- ALARM_FRAME_END (R162): `bytes` are the bytes received after the start byte. -/
  | alarmFrameEnd (line : AlarmLine) (bytes : List AlarmByte)
  /-- ALARM_GAP_LIMIT (R162): 5 ms without a byte inside a frame. -/
  | alarmGapLimit (line : AlarmLine)
  /-- SUPERVISION_EXPIRY (R165). -/
  | supervisionExpiry (line : AlarmLine)
  /-- ZONE_REPORT (R170): the handler completes the frame at the front of the intake, as in the next three. -/
  | zoneReport
  /-- HALL_MODE (R171). -/
  | hallMode
  /-- SUPERVISE (R172). -/
  | supervise
  /-- STATUS_REQUEST (R173). -/
  | statusRequest
  /-- EGRESS_STATUS_SENT (R173). -/
  | egressStatusSent (line : AlarmLine)
  /-- ALARM_START_BYTE (R162): a byte equal to the start byte arrives. -/
  | alarmStartByte (line : AlarmLine)
  deriving DecidableEq, Repr

end Sys2Proof
end

