-- ==== Sys2Proof/Decode.lean ====
section
/-!
DEFINITION. The words of the opcode table. No row of spec/opcode_table.json gives its command any bits (each
row's "fields" is empty and none has a "fixed"): a command of the E192 is an event on one of its lines, not a
word it decodes. So no word spells a command.
-/

namespace Sys2Proof

/-- The command a word spells by the table's bits: none, for any word, since the table gives no row bits. -/
def decodeTableWord (_nbits _w : Nat) : Option Instr := none

end Sys2Proof
end

