-- ==== Sys2Proof/Config.lean ====
section
/-!
DEFINITION. What one E192 fixes for good: the capacities, times and codes the manual gives, and the one
free value it leaves open (the order among the notices of different blocks in a commit event, R19).
-/

namespace Sys2Proof
namespace Config

/-- INF: unreachable (00_scope.md, "Costs"). -/
def inf : Cost := 1048575

/-- MAXC: the largest finite cost (00_scope.md, "Costs"). -/
def maxCost : Cost := 1048574

/-- The fixed width flow factor table F (R3): 8, 9, 11 and 14 for classes 0 to 3. -/
def widthFactor (w : Fin 4) : Nat :=
  match w.val with
  | 0 => 8
  | 1 => 9
  | 2 => 11
  | _ => 14

/-- The notice queue holds at most 64 notices (R188). -/
def noticeCapacity : Nat := 64

/-- The intake holds at most 8 frames (R161). -/
def intakeCapacity : Nat := 8

/-- Counts of errors and overruns stay at 65,535 once they reach it (R160, R151). -/
def countMax : Nat := 65535

/-- Ticks of the hall clock in one second (R190: a tick is 10 ms). -/
def second : Nat := 100

/-- The refresh interval, 1 s (R75). -/
def refreshInterval : Nat := 1 * second

/-- The Advert Interval, 1 s (R146). -/
def advertInterval : Nat := 1 * second

/-- The staleness time of a passage, 3 s (R155). -/
def stalenessTime : Nat := 3 * second

/-- The Duplicate Id Watch returns to CLEAR 3 s after the last seen time (R152). -/
def duplicateTime : Nat := 3 * second

/-- A trunk's hold-off, 2 s (R121). -/
def holdOffTime : Nat := 2 * second

/-- Warm-up of a beam channel, 10 s (R51). -/
def warmUpTime : Nat := 10 * second

/-- Debounce of an input line, 500 ms (R63). -/
def debounceTime : Nat := 50

/-- Half a second, the unit of the supervision time (R165). -/
def supervisionUnit : Nat := 50

/-- The most a route penalty can be (R93). -/
def penaltyMax : Nat := 65535

/-- The least corrected value CALIBRATE_BEAM accepts (R52). -/
def calibrateMin : Nat := 512

/-- The fetch marker of the console port (R204). -/
def fetchMarker : Byte := 0xFF

/-- The byte clocked out for a fetch that finds no response held (R204). -/
def emptyResponseByte : Byte := 0x00

/-- The byte clocked out in every other clock with nothing to send (R204). -/
def idleByte : Byte := 0xFF

/-- The start byte of an alarm line frame (R201). -/
def alarmStart : Byte := 0xA5

/-- FREE VALUE (DESIGN CHOICE, log entry 1). R19: "The order among the notices of different blocks in the
commit event is not fixed." Each block's own notices stay in index order; whose notice joins the queue
next is drawn here. No body: nothing can be proved of the value drawn. -/
opaque commitTurn : Nat → Nat

end Config
end Sys2Proof
end

