-- ==== Sys2Proof/Machine/State.lean ====
section
/-!
DEFINITION. Every piece of state the manual gives the E192, block by block as 00_scope.md's block overview
names them, as plain data; and the machine right after a cold reset. INVENTORY.md lists each field with the rule
that names it.
-/

namespace Sys2Proof
namespace Machine

/-! ## Shared codes -/

/-- What a sign head shows (00_scope.md, "Aspects"). -/
inductive Aspect where
  | dark
  | arrow (direction : Dir)
  | exitHere
  | cross
  deriving DecidableEq, Repr

/-- The modifier an aspect carries (R112). -/
inductive Modifier where
  | steady
  | pulse
  deriving DecidableEq, Repr

/-- An aspect with its modifier; two are equal when aspect, direction and modifier are. -/
structure Shown where
  aspect : Aspect
  modifier : Modifier
  deriving DecidableEq, Repr

/-- The hall mode (R161). -/
inductive HallMode where
  | standby
  | evacuate
  deriving DecidableEq, Repr

/-- The state the panel reports for a zone (R23). -/
inductive PanelState where
  | normal
  | prealarm
  | alarm
  | fault
  | isolated
  deriving DecidableEq, Repr

/-! ## The layout (chapter 1) -/

/-- A defined node record (R2); an undefined one is `none` in the node table. -/
structure NodeRec where
  zone : ZoneIdx
  weight : Fin 16
  deriving DecidableEq, Repr

/-- The directions in which a segment may be travelled (R3). -/
inductive DirRule where
  | both
  | aToB
  | bToA
  deriving DecidableEq, Repr

/-- A defined segment record (R3); length in dm. -/
structure SegRec where
  endA : NodeIdx
  endB : NodeIdx
  length : Nat
  width : Fin 4
  rule : DirRule
  zone : ZoneIdx
  deriving DecidableEq, Repr

/-- The kind of an exit (R4). -/
inductive ExitKind where
  | door
  | passage
  deriving DecidableEq, Repr

/-- A defined exit record of a layout (R4). -/
structure ExitCfg where
  node : NodeIdx
  kind : ExitKind
  doorLine : Option LineIdx
  capacity : Nat
  bias : Cost
  passage : Option PassageIdx
  deriving DecidableEq, Repr

/-- What a sign is for (R5). -/
inductive SignRole where
  | wayfinder
  | door
  deriving DecidableEq, Repr

/-- A defined sign record of a layout (R5); the face map is held in the order written. -/
structure SignCfg where
  trunk : TrunkIdx
  address : Nat
  node : NodeIdx
  role : SignRole
  enabled : Bool
  defaultAspect : Aspect
  faceMap : List (SegIdx × Dir)
  deriving DecidableEq, Repr

/-- A present passage record of a layout (R6). -/
structure PassageCfg where
  neighbour : HallId
  exit : ExitIdx
  deriving DecidableEq, Repr

/-- A beam channel configuration (R7); the decay hold is in seconds. -/
structure BeamCfg where
  enabled : Bool
  zone : ZoneIdx
  offset : Nat
  reference : Nat
  o1 : Nat
  o2 : Nat
  o3 : Nat
  l1 : Level
  l2 : Level
  l3 : Level
  rb : Nat
  decayHold : Nat
  deriving DecidableEq, Repr

/-- The source of an OUTPUT line (R8). -/
inductive OutputSource where
  | exitInUse (exit : ExitIdx)
  | exitClosed (exit : ExitIdx)
  | hallEvacuate
  | noEgressAny
  | alarmLinkLost
  deriving DecidableEq, Repr

/-- The mode of a discrete line (R8). -/
inductive LineMode where
  | inputPlain
  | inputDoor
  | output (source : OutputSource)
  deriving DecidableEq, Repr

/-- The Link Health Rule (R9, R166). -/
inductive HealthRule where
  | either
  | both
  deriving DecidableEq, Repr

/-- The hall parameter set (R9); times in seconds, `supervision` the code k. -/
structure HallParams where
  hallId : HallId
  hazard : Table Nat 8
  tImp : Nat
  gain : Nat
  margin : Nat
  tConf : Nat
  doorGrace : Nat
  prealarmLevel : Level
  alarmLevel : Level
  supervision : Fin 16
  healthRule : HealthRule
  headThreshold : Nat
  deriving DecidableEq, Repr

/-- A layout bank: seven tables and one hall parameter set (R1). -/
structure Layout where
  params : HallParams
  nodes : Table (Option NodeRec) 256
  segments : Table (Option SegRec) 768
  exits : Table (Option ExitCfg) 24
  signs : Table (Option SignCfg) 192
  passages : Table (Option PassageCfg) 8
  beams : Table BeamCfg 8
  lines : Table LineMode 32
  deriving DecidableEq, Repr

/-- The empty beam channel configuration (R7). -/
def BeamCfg.empty : BeamCfg where
  enabled := false
  zone := 0
  offset := 0
  reference := 4095
  o1 := 1
  o2 := 2
  o3 := 3
  l1 := 1
  l2 := 1
  l3 := 1
  rb := 0
  decayHold := 5

/-- The hall parameters at their defaults (R9). -/
def HallParams.default : HallParams where
  hallId := 0
  hazard := ⟨[8, 10, 14, 20, 32, 64, 128, 255], rfl⟩
  tImp := 6
  gain := 0
  margin := 6
  tConf := 5
  doorGrace := 3
  prealarmLevel := 3
  alarmLevel := 6
  supervision := 5
  healthRule := .either
  headThreshold := 32

/-- The empty bank: every record at its empty value and the parameters at their defaults (R22). -/
def Layout.empty : Layout where
  params := HallParams.default
  nodes := Table.replicate 256 none
  segments := Table.replicate 768 none
  exits := Table.replicate 24 none
  signs := Table.replicate 192 none
  passages := Table.replicate 8 none
  beams := Table.replicate 8 BeamCfg.empty
  lines := Table.replicate 32 .inputPlain

/-- The Layout Unit: the two banks (R1). -/
structure LayoutUnit where
  active : Layout
  staging : Layout
  deriving DecidableEq, Repr

/-! ## Hazard Unit (chapter 2) -/

/-- A zone record (R23). -/
structure ZoneRec where
  panelState : PanelState
  panelLevel : Level
  consoleLevel : Level
  beamLevel : Level
  effective : Level
  lastChange : Ticks
  deriving DecidableEq, Repr

/-- A zone record after cold reset (R38). -/
def ZoneRec.cold : ZoneRec where
  panelState := .normal
  panelLevel := 0
  consoleLevel := 0
  beamLevel := 0
  effective := 0
  lastChange := 0

/-! ## Beam Unit (chapter 3) -/

/-- The state of a beam channel (R50). -/
inductive BeamState where
  | warming
  | measuring
  | blocked
  | overRange
  | disabled
  deriving DecidableEq, Repr

/-- A running decay hold: its start (R40), and the target of the last sample, which R49 compares with. -/
structure DecayHold where
  start : Ticks
  lastTarget : Level
  deriving DecidableEq, Repr

/-- A beam channel record (R40). -/
structure BeamRec where
  state : BeamState
  level : Level
  history : List Nat
  working : Option Nat
  corrected : Option Nat
  decay : Option DecayHold
  warmStart : Option Ticks
  deriving DecidableEq, Repr

/-- An emptied channel record in DISABLED (R54). -/
def BeamRec.cold : BeamRec where
  state := .disabled
  level := 0
  history := []
  working := none
  corrected := none
  decay := none
  warmStart := none

/-! ## Exit Unit (chapter 4) -/

/-- A closure reason set (R56). -/
structure ReasonSet where
  console : Bool
  door : Bool
  hazard : Bool
  stale : Bool
  noLink : Bool
  deriving DecidableEq, Repr

/-- The empty reason set. -/
def ReasonSet.none : ReasonSet where
  console := false
  door := false
  hazard := false
  stale := false
  noLink := false

/-- The runtime record of an exit (R56). -/
structure ExitRec where
  reasons : ReasonSet
  usable : Bool
  base : Cost
  deriving DecidableEq, Repr

/-- The record of an exit that is not defined in ACTIVE (R56). -/
def ExitRec.undefined : ExitRec where
  reasons := ReasonSet.none
  usable := false
  base := Config.inf

/-- The Door Grace state (R64). -/
inductive DoorGrace where
  | idle
  | running (start : Ticks)
  | elapsed
  deriving DecidableEq, Repr

/-- What the Exit Unit holds of a discrete line (R67): a debounced value and, while a change is being
confirmed, a debounce start, while it is an input; a driven value while it is an output. -/
inductive LineRec where
  | input (debounced : Bool) (start : Option Ticks)
  | output (driven : Bool)
  deriving DecidableEq, Repr

/-- The Exit Unit (R56, R64, R67), with the levels on the pins of the discrete lines. -/
structure ExitUnit where
  exits : Table ExitRec 24
  grace : DoorGrace
  lines : Table LineRec 32
  pins : Table Bool 32
  deriving DecidableEq, Repr

/-! ## Route Engine (chapter 5) -/

/-- The phase of a run (R79). -/
inductive Phase where
  | snapshot
  | pass1
  | load
  | pass2
  | nexthop
  | handover
  deriving DecidableEq, Repr

/-- What a snapshot holds of an exit (R76). -/
structure SnapExit where
  usable : Bool
  base : Cost
  deriving DecidableEq, Repr

/-- The inputs one run works on (R76). -/
structure Snapshot where
  levels : Table Level 48
  exits : Table SnapExit 24
  deriving DecidableEq, Repr

/-- The working field's entry of a node (R73). -/
structure NodeWork where
  cost : Cost
  settled : Bool
  position : Option Nat
  next : Option SegIdx
  route : Option ExitIdx
  deriving DecidableEq, Repr

/-- The entry of a node as a pass begins (R85). -/
def NodeWork.fresh : NodeWork where
  cost := Config.inf
  settled := false
  position := none
  next := none
  route := none

/-- The loads and the penalty of an exit, in the working and in the published field (R73, R97). -/
structure ExitWork where
  pass1Load : Nat
  penalty : Nat
  finalLoad : Nat
  deriving DecidableEq, Repr

/-- No load and no penalty. -/
def ExitWork.zero : ExitWork where
  pass1Load := 0
  penalty := 0
  finalLoad := 0

/-- A run in flight: its phase, snapshot, frontier and working field (R73). -/
structure Run where
  phase : Phase
  snapshot : Snapshot
  frontier : List NodeIdx
  nodes : Table NodeWork 256
  exits : Table ExitWork 24
  deriving DecidableEq, Repr

/-- The Route Engine (R73); `run = none` is IDLE, where snapshot, frontier and working field are unused. -/
structure Engine where
  run : Option Run
  changePending : Bool
  refreshDue : Bool
  lastStart : Option Ticks
  generation : Gen
  deriving DecidableEq, Repr

/-! ## Aspect Unit (chapter 6) -/

/-- A node's entry of a field handed over (R97). -/
structure FieldNode where
  cost : Cost
  next : Option SegIdx
  route : Option ExitIdx
  deriving DecidableEq, Repr

/-- A field as handed over (R97). -/
structure Field where
  generation : Gen
  time : Ticks
  nodes : Table FieldNode 256
  exits : Table ExitWork 24
  deriving DecidableEq, Repr

/-- What a field was computed from (R101). -/
structure Basis where
  levels : Table Level 48
  source : Table Bool 24
  deriving DecidableEq, Repr

/-- The published field with its basis (R101). -/
structure Published where
  field : Field
  basis : Basis
  deriving DecidableEq, Repr

/-- A better aisle a sign is waiting to switch to (R101). -/
structure Candidate where
  segment : SegIdx
  start : Ticks
  deriving DecidableEq, Repr

/-- The Aspect Unit's record of a sign (R101). -/
structure SignRec where
  shown : Shown
  segment : Option SegIdx
  candidate : Option Candidate
  deriving DecidableEq, Repr

/-- DARK, with no shown segment and no candidate (R103, R118). -/
def SignRec.dark : SignRec where
  shown := ⟨.dark, .steady⟩
  segment := none
  candidate := none

/-- The Aspect Unit (R101). The egress set is held in node order; the NO_EGRESS count is its size. -/
structure AspectUnit where
  published : Option Published
  lastGeneration : Gen
  signs : Table SignRec 192
  egressSet : List NodeIdx
  deriving DecidableEq, Repr

/-! ## Sign Line Controller (chapter 7) -/

/-- The frame of an exchange (7.2): an ASPECT frame with its sequence bit, or a SET_DEFAULT frame. -/
inductive TrunkFrame where
  | aspect (shown : Shown) (seq : Bool)
  | setDefault (aspect : Aspect)
  deriving DecidableEq, Repr

/-- An exchange in flight (R120): the head it addresses and its frame, whether the reply window is open
(R123), and whether its reply is to be discarded (R20, R137). -/
structure Exchange where
  sign : SignIdx
  address : Nat
  frame : TrunkFrame
  windowOpen : Bool
  discard : Bool
  deriving DecidableEq, Repr

/-- Whether a trunk's driver is in service (R120). -/
inductive TrunkState where
  | inService
  | shutdown
  deriving DecidableEq, Repr

/-- A trunk record (R120), with whether its driver is switched on (R121). -/
structure TrunkRec where
  state : TrunkState
  driverOn : Bool
  exchange : Option Exchange
  roundRobin : Nat
  holdOff : Option Ticks
  deriving DecidableEq, Repr

/-- A trunk record after cold reset (R139). -/
def TrunkRec.cold : TrunkRec where
  state := .inService
  driverOn := true
  exchange := none
  roundRobin := 0
  holdOff := none

/-- The state of a head (R134). -/
inductive HeadState where
  | absent
  | online
  | degraded
  | lost
  deriving DecidableEq, Repr

/-- A head's supply (R202). -/
inductive Supply where
  | mains
  | battery
  | batteryLow
  deriving DecidableEq, Repr

/-- The status a head's last good reply carried, with its time (R132, R136). -/
structure HeadStatus where
  lampFault : Bool
  supply : Supply
  tamper : Bool
  time : Ticks
  deriving DecidableEq, Repr

/-- A head record (R132). Lamp, supply, tamper and status time are absent or present together (R136). -/
structure HeadRec where
  state : HeadState
  errors : Nat
  misses : Nat
  defaultPending : Bool
  seq : Bool
  lastSent : Option Shown
  status : Option HeadStatus
  deriving DecidableEq, Repr

/-- A head record after cold reset (R139). -/
def HeadRec.cold : HeadRec where
  state := .absent
  errors := 0
  misses := 0
  defaultPending := false
  seq := false
  lastSent := none
  status := none

/-- The Sign Line Controller (R120, R129, R132). -/
structure SignLine where
  trunks : Table TrunkRec 2
  queue : List SignIdx
  heads : Table HeadRec 192
  deriving DecidableEq, Repr

/-! ## Boundary Link Controller (chapter 8) -/

/-- Whether a passage's neighbour has been heard within the staleness time (R141). -/
inductive PassageState where
  | heard
  | stale
  deriving DecidableEq, Repr

/-- The runtime entry of a passage (R141). -/
structure PassageRec where
  state : PassageState
  remote : Cost
  path : Option (List HallId)
  lastHeard : Option Ticks
  lastGeneration : Option Gen
  deriving DecidableEq, Repr

/-- A passage at its reset values (R141, R157). -/
def PassageRec.cold : PassageRec where
  state := .stale
  remote := Config.inf
  path := none
  lastHeard := none
  lastGeneration := none

/-- One entry of an advert (8.4). -/
structure AdvertEntry where
  passage : PassageIdx
  cost : Cost
  path : List HallId
  deriving DecidableEq, Repr

/-- An advert (8.4). -/
structure Advert where
  sender : HallId
  generation : Gen
  entries : List AdvertEntry
  deriving DecidableEq, Repr

/-- The Duplicate Id Watch (R152). -/
inductive DupWatch where
  | clear
  | seen (last : Ticks)
  deriving DecidableEq, Repr

/-- The Boundary Link Controller (R141, R146, R151, R152). -/
structure Boundary where
  passages : Table PassageRec 8
  errors : Nat
  lastBuild : Option Ticks
  owed : Bool
  waiting : Option Advert
  inFlight : Option Advert
  watch : DupWatch
  deriving DecidableEq, Repr

/-! ## Alarm Line Interface (chapter 9) -/

/-- A line's receiver (R160). -/
inductive Receiver where
  | hunt
  | frame
  deriving DecidableEq, Repr

/-- A line's state (R160). -/
inductive LineState where
  | live
  | silent
  deriving DecidableEq, Repr

/-- The alarm link as a whole (R161). -/
inductive LinkState where
  | healthy
  | degraded
  | lost
  deriving DecidableEq, Repr

/-- An exit's entry of an EGRESS_STATUS frame (R174). -/
structure EgressExit where
  usable : Bool
  reasons : ReasonSet
  inUse : Bool
  deriving DecidableEq, Repr

/-- An EGRESS_STATUS frame (R174). -/
structure EgressStatus where
  seq : Byte
  mode : HallMode
  generation : Gen
  noEgress : Nat
  notOnline : Nat
  exits : Table EgressExit 24
  deriving DecidableEq, Repr

/-- An alarm line record (R160); `transmitter = none` is IDLE, `some` the frame being sent. -/
structure AlarmLineRec where
  receiver : Receiver
  state : LineState
  expiry : Option Ticks
  errors : Nat
  overruns : Nat
  transmitter : Option EgressStatus
  request : Option Byte
  deriving DecidableEq, Repr

/-- A line record after cold reset (R175). -/
def AlarmLineRec.cold : AlarmLineRec where
  receiver := .hunt
  state := .silent
  expiry := none
  errors := 0
  overruns := 0
  transmitter := none
  request := none

/-- What a good panel frame carries (R201). -/
inductive FrameBody where
  | zoneReport (zone : ZoneIdx) (state : PanelState)
  | hallMode (mode : HallMode)
  | supervise
  | statusRequest
  deriving DecidableEq, Repr

/-- A good frame in the intake, marked with its line (R161). -/
structure IntakeFrame where
  line : AlarmLine
  seq : Byte
  body : FrameBody
  deriving DecidableEq, Repr

/-- The frame handler (R161). -/
inductive Handler where
  | idle
  | taking
  deriving DecidableEq, Repr

/-- The Alarm Line Interface (R160, R161). -/
structure Alarm where
  lineA : AlarmLineRec
  lineB : AlarmLineRec
  intake : List IntakeFrame
  handler : Handler
  lastSeq : Option Byte
  mode : HallMode
  link : LinkState
  deriving DecidableEq, Repr

/-! ## Console Port (chapter 10) -/

/-- The port state (R177). -/
inductive PortState where
  | free
  | receiving
  | taking
  | held
  | fetching
  deriving DecidableEq, Repr

/-- A status code of a response (10.3, R204). -/
inductive Status where
  | ok
  | busy
  | mode
  | range
  | invalid
  | check
  | unknown
  | lowSignal
  deriving DecidableEq, Repr

/-- A response: a status code and a body (R204). -/
structure Response where
  status : Status
  body : List Byte
  deriving DecidableEq, Repr

/-- The six sticky flags (R186). -/
inductive Flag where
  | noticeOverflow
  | requestLost
  | responseDropped
  | checkSeen
  | alarmLinkLostSeen
  | storeFailedSeen
  deriving DecidableEq, Repr

/-- A set of sticky flags (R177). -/
structure Flags where
  noticeOverflow : Bool
  requestLost : Bool
  responseDropped : Bool
  checkSeen : Bool
  alarmLinkLostSeen : Bool
  storeFailedSeen : Bool
  deriving DecidableEq, Repr

/-- No flag. -/
def Flags.none : Flags where
  noticeOverflow := false
  requestLost := false
  responseDropped := false
  checkSeen := false
  alarmLinkLostSeen := false
  storeFailedSeen := false

/-- The notice kinds (10.5). -/
inductive NoticeKind where
  | layoutCommitted
  | zoneLevel
  | beamState
  | exitState
  | noEgress
  | egressRestored
  | signState
  | lampFault
  | trunkFault
  | trunkRestored
  | passageState
  | duplicateHallId
  | alarmLink
  | hallMode
  | noLayout
  | clockWrap
  | reinit
  | storeDone
  | storeFailed
  deriving DecidableEq, Repr

/-- A notice (R188). -/
structure Notice where
  kind : NoticeKind
  time : Ticks
  subject : Option Byte
  value : List Byte
  deriving DecidableEq, Repr

/-- The Console Port (R177). `awaiting` holds from the first clock of a transfer until its first byte is
complete; `lost` while a lost transfer is running. -/
structure Port where
  state : PortState
  ready : Bool
  awaiting : Bool
  buffer : List Byte
  response : Option Response
  lost : Bool
  flags : Flags
  snapshot : Flags
  notices : List Notice
  clock : Ticks
  deriving DecidableEq, Repr

/-- The Console Port after cold reset (R191). -/
def Port.cold : Port where
  state := .free
  ready := false
  awaiting := false
  buffer := []
  response := none
  lost := false
  flags := Flags.none
  snapshot := Flags.none
  notices := []
  clock := 0

/-! ## Layout Store (chapter 11) -/

/-- The store state (R194). -/
inductive StoreState where
  | idle
  | erasing
  | writing
  | verifying
  | invalid
  deriving DecidableEq, Repr

/-- The non-volatile image (R193). `erased` is an image erased or written in part, which is never valid;
`written` holds the bytes the memory took: a layout part and a CRC-16. -/
inductive Image where
  | erased
  | written (bytes : List Byte)
  deriving DecidableEq, Repr

/-- The Layout Store (R194); the CRC of the store copy is formed from the copy. -/
structure Store where
  state : StoreState
  copy : Option Layout
  image : Image
  deriving DecidableEq, Repr

/-! ## The machine -/

/-- The E192. `loaded` says that the load event of R198 has followed the last cold reset. `freeCount` is the
MODEL's own: the number of values drawn so far from `Config.commitTurn` (log entry 1). `pending` is the
MODEL's own: the commands waiting, first in, first out. -/
structure State where
  layout : LayoutUnit
  zones : Table ZoneRec 48
  beams : Table BeamRec 8
  exits : ExitUnit
  engine : Engine
  aspect : AspectUnit
  signLine : SignLine
  boundary : Boundary
  alarm : Alarm
  port : Port
  store : Store
  loaded : Bool
  freeCount : Nat
  pending : List Instr
  deriving DecidableEq, Repr

/-- Why the machine stops with a fault: never. The manual gives the E192 no event that stops it, so this type
has no constructor and no command of the model can answer a fault. -/
inductive Fault where
  deriving DecidableEq, Repr

/-- Why a command has no meaning. -/
inductive Refusal where
  /-- Raised by `exec` alone, for a command the model gives no meaning yet; none is left. Safe: nothing is
  claimed of what the command does. -/
  | notModelled (mnemonic : String)
  deriving DecidableEq, Repr

/-- Every block at its cold-reset values (R22, R38, R54, R71, R99, R118, R139, R157, R175, R191, R194), around
what a cold reset does not set: the image in the non-volatile memory, the levels on the pins, and the model's
own counter and queue. The debounced values between the reset and the load event are the pin values
(DESIGN CHOICE, log entry 5: R71 gives them only from the load event). -/
def State.cold (image : Image) (pins : Table Bool 32) (freeCount : Nat) (pending : List Instr) : State where
  layout := { active := Layout.empty, staging := Layout.empty }
  zones := Table.replicate 48 ZoneRec.cold
  beams := Table.replicate 8 BeamRec.cold
  exits := {
    exits := Table.replicate 24 ExitRec.undefined
    grace := .idle
    lines := Table.ofFn fun i => .input (pins.get i) none
    pins := pins }
  engine := {
    run := none
    changePending := false
    refreshDue := false
    lastStart := none
    generation := 0 }
  aspect := {
    published := none
    lastGeneration := 0
    signs := Table.replicate 192 SignRec.dark
    egressSet := [] }
  signLine := {
    trunks := Table.replicate 2 TrunkRec.cold
    queue := []
    heads := Table.replicate 192 HeadRec.cold }
  boundary := {
    passages := Table.replicate 8 PassageRec.cold
    errors := 0
    lastBuild := none
    owed := false
    waiting := none
    inFlight := none
    watch := .clear }
  alarm := {
    lineA := AlarmLineRec.cold
    lineB := AlarmLineRec.cold
    intake := []
    handler := .idle
    lastSeq := none
    mode := .standby
    link := .lost }
  port := Port.cold
  store := { state := .idle, copy := none, image := image }
  loaded := false
  freeCount := freeCount
  pending := pending

/-- The machine right after power-on: the cold-reset values, before the load event. The image as delivered is
erased, the pins inactive and the queue empty (DESIGN CHOICE, log entries 2 and 3). -/
def State.reset : State :=
  State.cold .erased (Table.replicate 32 false) 0 []

end Machine
end Sys2Proof
end

