-- ==== Sys2Proof/Machine/Flags.lean ====
section
/-!
DEFINITION. The sticky flags with the Snapshot Clearing Rule (R186, R187), the notice queue (R188, R189), and
the reason sets of the exits as sets (R56).
-/

namespace Sys2Proof
namespace Machine

/-- Whether a flag is in the set. -/
def Flags.has (fs : Flags) : Flag → Bool
  | .noticeOverflow => fs.noticeOverflow
  | .requestLost => fs.requestLost
  | .responseDropped => fs.responseDropped
  | .checkSeen => fs.checkSeen
  | .alarmLinkLostSeen => fs.alarmLinkLostSeen
  | .storeFailedSeen => fs.storeFailedSeen

/-- The set with a flag put in or taken out. -/
def Flags.put (fs : Flags) (f : Flag) (b : Bool) : Flags :=
  match f with
  | .noticeOverflow => { fs with noticeOverflow := b }
  | .requestLost => { fs with requestLost := b }
  | .responseDropped => { fs with responseDropped := b }
  | .checkSeen => { fs with checkSeen := b }
  | .alarmLinkLostSeen => { fs with alarmLinkLostSeen := b }
  | .storeFailedSeen => { fs with storeFailedSeen := b }

/-- The flags of one set that are not in another. -/
def Flags.diff (fs gs : Flags) : Flags where
  noticeOverflow := fs.noticeOverflow && !gs.noticeOverflow
  requestLost := fs.requestLost && !gs.requestLost
  responseDropped := fs.responseDropped && !gs.responseDropped
  checkSeen := fs.checkSeen && !gs.checkSeen
  alarmLinkLostSeen := fs.alarmLinkLostSeen && !gs.alarmLinkLostSeen
  storeFailedSeen := fs.storeFailedSeen && !gs.storeFailedSeen

/-- Setting a flag also takes it out of the snapshot (R186). -/
def Port.setFlag (p : Port) (f : Flag) : Port :=
  { p with flags := p.flags.put f true, snapshot := p.snapshot.put f false }

/-- Posting a notice: it joins the back of the queue, or at a full queue it is discarded and sets
NOTICE_OVERFLOW (R188, R189). -/
def Port.post (p : Port) (n : Notice) : Port :=
  if p.notices.length < Config.noticeCapacity then
    { p with notices := p.notices ++ [n] }
  else
    p.setFlag .noticeOverflow

/-- Posting several notices, in order. -/
def Port.postAll (p : Port) (ns : List Notice) : Port :=
  ns.foldl Port.post p

/-- The reason set is empty (R57). -/
def ReasonSet.isEmpty (r : ReasonSet) : Bool :=
  !(r.console || r.door || r.hazard || r.stale || r.noLink)

end Machine
end Sys2Proof
end

