-- ==== Sys2Proof/Machine/Codes.lean ====
section
/-!
DEFINITION. The codes of chapter 12 and the byte helpers the frames are built from: multi-byte fields most
significant byte first, the Sum Check (R201) and the CRC-16 of the stored image (R193).
-/

namespace Sys2Proof
namespace Machine

/-! ## Bytes -/

/-- A number as one byte (modulo 256). -/
def byte (n : Nat) : Byte := BitVec.ofNat 8 n

/-- A number as two bytes, most significant first. -/
def word16 (n : Nat) : List Byte := [byte (n / 256), byte n]

/-- A number as three bytes, most significant first. -/
def word24 (n : Nat) : List Byte := [byte (n / 65536), byte (n / 256), byte n]

/-- A hall-clock time as four bytes, most significant first. -/
def ticksBytes (t : Ticks) : List Byte :=
  [byte (t.toNat / 16777216), byte (t.toNat / 65536), byte (t.toNat / 256), byte t.toNat]

/-- A truth value as a byte: yes 1, no 0 (R204). -/
def boolByte (b : Bool) : Byte := if b then 1 else 0

/-- The number two bytes carry, most significant first. -/
def read16 (hi lo : Byte) : Nat := hi.toNat * 256 + lo.toNat

/-- The sum of some bytes modulo 256. -/
def byteSum (bs : List Byte) : Byte := bs.foldl (· + ·) 0

/-- The Sum Check byte over some bytes (R201). -/
def sumCheck (bs : List Byte) : Byte := -byteSum bs

/-- A receiver finds the check correct when covered bytes and check byte sum to 0 (R201). -/
def checkOk (bs : List Byte) : Bool := byteSum bs = 0

/-- One bit of the CRC-16 register (R193): shift left, and fold in the polynomial when a 1 leaves. -/
def crcBit (r : BitVec 16) : BitVec 16 :=
  if r.msb then (r <<< 1) ^^^ 0x1021 else r <<< 1

/-- One byte into the CRC-16 register, most significant bit first (R193). -/
def crcByte (r : BitVec 16) (b : Byte) : BitVec 16 :=
  let x := r ^^^ ((b.setWidth 16) <<< 8)
  crcBit (crcBit (crcBit (crcBit (crcBit (crcBit (crcBit (crcBit x)))))))

/-- The CRC-16 over some bytes: the register starts at all ones and the result is not inverted (R193). -/
def crc16 (bs : List Byte) : BitVec 16 := bs.foldl crcByte 0xFFFF

/-! ## Codes that appear in several frames (R200, R205) -/

def PanelState.code : PanelState → Byte
  | .normal => 0
  | .prealarm => 1
  | .alarm => 2
  | .fault => 3
  | .isolated => 4

/-- The panel state a code names (R200, R163). -/
def PanelState.ofCode (b : Byte) : Option PanelState :=
  match b.toNat with
  | 0 => some .normal
  | 1 => some .prealarm
  | 2 => some .alarm
  | 3 => some .fault
  | 4 => some .isolated
  | _ => none

def HallMode.code : HallMode → Byte
  | .standby => 0
  | .evacuate => 1

/-- The hall mode a code names (R200, R163). -/
def HallMode.ofCode (b : Byte) : Option HallMode :=
  match b.toNat with
  | 0 => some .standby
  | 1 => some .evacuate
  | _ => none

def LinkState.code : LinkState → Byte
  | .healthy => 0
  | .degraded => 1
  | .lost => 2

def BeamState.code : BeamState → Byte
  | .warming => 0
  | .measuring => 1
  | .blocked => 2
  | .overRange => 3
  | .disabled => 4

def HeadState.code : HeadState → Byte
  | .absent => 0
  | .online => 1
  | .degraded => 2
  | .lost => 3

def PassageState.code : PassageState → Byte
  | .heard => 0
  | .stale => 1

def LineState.code : LineState → Byte
  | .live => 0
  | .silent => 1

def TrunkState.code : TrunkState → Byte
  | .inService => 0
  | .shutdown => 1

def StoreState.code : StoreState → Byte
  | .idle => 0
  | .erasing => 1
  | .writing => 2
  | .verifying => 3
  | .invalid => 4

def Phase.code : Phase → Byte
  | .snapshot => 1
  | .pass1 => 2
  | .load => 3
  | .pass2 => 4
  | .nexthop => 5
  | .handover => 6

def Status.code : Status → Byte
  | .ok => 0
  | .busy => 1
  | .mode => 2
  | .range => 3
  | .invalid => 4
  | .check => 5
  | .unknown => 6
  | .lowSignal => 7

def NoticeKind.code : NoticeKind → Byte
  | .layoutCommitted => 0x01
  | .zoneLevel => 0x02
  | .beamState => 0x03
  | .exitState => 0x04
  | .noEgress => 0x05
  | .egressRestored => 0x06
  | .signState => 0x07
  | .lampFault => 0x08
  | .trunkFault => 0x09
  | .trunkRestored => 0x0A
  | .passageState => 0x0B
  | .duplicateHallId => 0x0C
  | .alarmLink => 0x0D
  | .hallMode => 0x0E
  | .noLayout => 0x0F
  | .clockWrap => 0x10
  | .reinit => 0x11
  | .storeDone => 0x12
  | .storeFailed => 0x13

/-- The reason set byte: CONSOLE 1, DOOR 2, HAZARD 4, STALE 8, NO_LINK 16 (R200). -/
def ReasonSet.code (r : ReasonSet) : Byte :=
  (if r.console then 1 else 0) + (if r.door then 2 else 0) + (if r.hazard then 4 else 0)
    + (if r.stale then 8 else 0) + (if r.noLink then 16 else 0)

/-- The sticky flags byte (R205). -/
def Flags.code (f : Flags) : Byte :=
  (if f.noticeOverflow then 1 else 0) + (if f.requestLost then 2 else 0)
    + (if f.responseDropped then 4 else 0) + (if f.checkSeen then 8 else 0)
    + (if f.alarmLinkLostSeen then 16 else 0) + (if f.storeFailedSeen then 32 else 0)

/-! ## Aspect and status bytes (R202) -/

/-- The aspect byte of an aspect, with modifier and sequence bit 0: kind in bits 7–6, direction in 5–3. -/
def Aspect.code : Aspect → Byte
  | .dark => 0x00
  | .arrow d => byte (0x40 + 8 * d.val)
  | .exitHere => 0x80
  | .cross => 0xC0

/-- The aspect byte of an aspect with its modifier (bit 2) and a sequence bit (bit 1). -/
def Shown.code (s : Shown) (seq : Bool) : Byte :=
  s.aspect.code + (if s.modifier = .pulse then 4 else 0) + (if seq then 2 else 0)

/-- The default aspect a byte carries (R205): an aspect byte with bits 2–0 zero; a direction belongs to an
arrow alone (log entry 11). -/
def Aspect.ofCode (b : Byte) : Option Aspect :=
  let n := b.toNat
  let d : Dir := ⟨n / 8 % 8, Nat.mod_lt _ (by decide)⟩
  if n % 8 ≠ 0 then none
  else
    match n / 64 with
    | 0 => if d.val = 0 then some .dark else none
    | 1 => some (.arrow d)
    | 2 => if d.val = 0 then some .exitHere else none
    | _ => if d.val = 0 then some .cross else none

def Supply.code : Supply → Nat
  | .mains => 0
  | .battery => 1
  | .batteryLow => 2

/-- The supply of a status byte's bits 6–5; 3 names none (R202). -/
def Supply.ofCode (n : Nat) : Option Supply :=
  match n with
  | 0 => some .mains
  | 1 => some .battery
  | 2 => some .batteryLow
  | _ => none

/-- The status byte of a REPLY: lamp in bit 7, supply in 6–5, tamper in 4 (R202). -/
def HeadStatus.code (h : HeadStatus) : Byte :=
  byte ((if h.lampFault then 128 else 0) + 32 * h.supply.code + (if h.tamper then 16 else 0))

/-! ## Frames the part sends -/

/-- A trunk frame's four bytes (R202). -/
def TrunkFrame.bytes (f : TrunkFrame) (address : Nat) : List Byte :=
  let body : List Byte :=
    match f with
    | .aspect s seq => [0x01, byte address, s.code seq]
    | .setDefault a => [0x02, byte address, a.code]
  body ++ [sumCheck body]

/-- Two hall ids in one byte, the first in the high half. -/
def idPair (a b : Nat) : Byte := byte (16 * a + b)

/-- A path list packed four bits an id, an odd length ending with a half byte of 0 (R203). -/
def packIds : List HallId → List Byte
  | [] => []
  | [a] => [idPair a.val 0]
  | a :: b :: rest => idPair a.val b.val :: packIds rest

/-- An entry of an advert (R203). -/
def AdvertEntry.bytes (e : AdvertEntry) : List Byte :=
  idPair e.passage.val e.path.length :: word24 e.cost ++ packIds e.path

/-- An advert's bytes, closed by its check (R203). -/
def Advert.bytes (a : Advert) : List Byte :=
  let body := idPair a.sender.val a.entries.length :: word16 a.generation.toNat
    ++ a.entries.flatMap AdvertEntry.bytes
  body ++ [sumCheck body]

/-- A byte's bits, most significant first. -/
def byteBits (b : Byte) : List Bool :=
  [b[7], b[6], b[5], b[4], b[3], b[2], b[1], b[0]]

/-- Stuff bits (R203): after five recessive bits in a row, `run` of which have just been sent, one dominant bit
goes before the next bit. -/
def stuff (run : Nat) : List Bool → List Bool
  | [] => []
  | b :: rest =>
    if run = 5 then
      false :: b :: stuff (if b then 1 else 0) rest
    else
      b :: stuff (if b then run + 1 else 0) rest

/-- The bits of an advert on the bus after its dominant start bit (R203). -/
def Advert.bits (a : Advert) : List Bool := stuff 0 (a.bytes.flatMap byteBits)

/-- An exit byte of EGRESS_STATUS: bit 7 usable, bit 6 in use, bits 4–0 reason set (R201). -/
def EgressExit.code (e : EgressExit) : Byte :=
  (if e.usable then 128 else 0) + (if e.inUse then 64 else 0) + e.reasons.code

/-- The 34 bytes of an EGRESS_STATUS frame (R201). -/
def EgressStatus.bytes (f : EgressStatus) : List Byte :=
  let body : List Byte :=
    [Config.alarmStart, f.seq, 0x81, f.mode.code] ++ word16 f.generation.toNat ++ word16 f.noEgress
      ++ [byte f.notOnline] ++ f.exits.toList.map EgressExit.code
  body ++ [sumCheck body]

/-- A response's bytes: length, status, body and Sum Check (R204). -/
def Response.bytes (r : Response) : List Byte :=
  let body := byte (r.body.length + 2) :: r.status.code :: r.body
  body ++ [sumCheck body]

/-- A notice's nine bytes (R204). -/
def Notice.bytes (n : Notice) : List Byte :=
  [n.kind.code, byte ((if n.subject.isSome then 1 else 0) + 2 * n.value.length)] ++ ticksBytes n.time
    ++ [n.subject.getD 0, n.value.getD 0 0, n.value.getD 1 0]

end Machine
end Sys2Proof
end

