-- ==== Sys2Proof/Machine/Ops.lean ====
section
/-!
DEFINITION. The operations the commands share: time, notices, the levels of a zone, the reason set of an exit, the
discrete lines, the alarm link. Each block's part of an event is an `Emit`: the state it leaves and the notices it
posts, in order; the notices join the queue at the event's end, all with the event's time.
-/

namespace Sys2Proof
namespace Machine

/-! ## Time (R190) -/

/-- Whether at least `n` ticks have passed since `start`, as the difference of two counts modulo 2^32. -/
def State.passed (s : State) (start : Ticks) (n : Nat) : Bool :=
  n ≤ (s.port.clock - start).toNat

/-- Whether the hall clock has reached a time set at most half the clock's range ahead (R165). -/
def State.reached (s : State) (t : Ticks) : Bool :=
  (s.port.clock - t).toNat < 2147483648

/-! ## Costs (R83) -/

/-- The Sum Rule: a sum of costs is exact, and INF when it exceeds MAXC; never clamped to MAXC. -/
def sumCost (a b : Cost) : Cost :=
  if a + b ≤ Config.maxCost then a + b else Config.inf

/-! ## Events and notices -/

/-- A block's part of an event: the state after it and the notices it posts, oldest first. -/
abbrev Emit := State → State × List Notice

/-- Nothing changes and nothing is posted. -/
def Emit.nothing : Emit := fun s => (s, [])

/-- One part after another. -/
def Emit.andThen (f g : Emit) : Emit := fun s =>
  let r := f s
  let q := g r.1
  (q.1, r.2 ++ q.2)

/-- A part for each member of a list, in order. -/
def Emit.each {α : Type} (l : List α) (f : α → Emit) : Emit := fun s =>
  l.foldl (fun r a => let q := f a r.1; (q.1, r.2 ++ q.2)) (s, [])

/-- A change of state that posts nothing. -/
def Emit.pure (f : State → State) : Emit := fun s => (f s, [])

/-- A notice with the event's time (R188). -/
def State.notice (s : State) (kind : NoticeKind) (subject : Option Byte) (value : List Byte) : Notice where
  kind := kind
  time := s.port.clock
  subject := subject
  value := value

/-- Notices join the queue in order (R188, R189). -/
def State.postAll (s : State) (ns : List Notice) : State :=
  { s with port := s.port.postAll ns }

/-- A whole event: the state its parts leave, with their notices posted. -/
def Emit.run (f : Emit) (s : State) : State :=
  (f s).1.postAll (f s).2

/-- Setting a sticky flag (R186). -/
def State.setFlag (s : State) (f : Flag) : State :=
  { s with port := s.port.setFlag f }

/-- The Route Engine's change pending flag is set (R74). -/
def State.setPending (s : State) : State :=
  { s with engine := { s.engine with changePending := true } }

/-- The layout in force. -/
def State.active (s : State) : Layout := s.layout.active

/-! ## Discrete lines (4.5) -/

/-- The NO_EGRESS count is the size of the egress set (R101). -/
def State.noEgressCount (s : State) : Nat := s.aspect.egressSet.length

/-- Exit `e` is defined and usable and has a final load above 0 in the published field (R68, R174). An exit that closes and opens again
before the next adoption is in use at once, by the load of the field still published, though R68 also says that an opening drives the
line active only when the next adopted field routes load to it: DEDUCED (log entry 34). -/
def State.exitInUse (s : State) (e : ExitIdx) : Bool :=
  s.active.exits.has e && (s.exits.exits.get e).usable &&
    match s.aspect.published with
    | none => false
    | some p => 0 < (p.field.exits.get e).finalLoad

/-- Whether an output source is true (R68). -/
def State.sourceTrue (s : State) : OutputSource → Bool
  | .exitInUse e => s.exitInUse e
  | .exitClosed e => s.active.exits.has e && !(s.exits.exits.get e).reasons.isEmpty
  | .hallEvacuate => s.alarm.mode = .evacuate
  | .noEgressAny => 0 < s.noEgressCount
  | .alarmLinkLost => s.alarm.link = .lost

/-- A line's record once the OUTPUT lines whose source meets `p` are driven anew. -/
def State.drivenLine (s : State) (p : OutputSource → Bool) (i : LineIdx) : LineRec :=
  match s.active.lines.get i, s.exits.lines.get i with
  | .output src, .output d => .output (if p src then s.sourceTrue src else d)
  | _, r => r

/-- The OUTPUT lines whose source meets `p` are driven anew (R68). -/
def State.drive (s : State) (p : OutputSource → Bool) : State :=
  { s with exits := { s.exits with lines := Table.ofFn (s.drivenLine p) } }

/-- The sources that name exit `e`. -/
def OutputSource.names (e : ExitIdx) : OutputSource → Bool
  | .exitInUse f => f = e
  | .exitClosed f => f = e
  | _ => false

/-- The sources that report an exit's use. -/
def OutputSource.isInUse : OutputSource → Bool
  | .exitInUse _ => true
  | _ => false

/-! ## Exits (4.1 to 4.4) -/

/-- The base source cost of exit `e` when its usable field is `usable` (R58). -/
def State.baseCost (s : State) (e : ExitIdx) (usable : Bool) : Cost :=
  if usable then
    match s.active.exits.get e with
    | none => Config.inf
    | some x =>
      match x.kind, x.passage with
      | .door, _ => x.bias
      | .passage, some p => sumCost x.bias (s.boundary.passages.get p).remote
      | .passage, none => Config.inf
  else Config.inf

/-- The record of a defined exit with a given reason set (R57, R58). -/
def State.exitRecord (s : State) (e : ExitIdx) (r : ReasonSet) : ExitRec where
  reasons := r
  usable := r.isEmpty
  base := s.baseCost e r.isEmpty

/-- The notice of a changed reason set (R57): the set and the usable field. -/
def State.exitNotice (s : State) (e : ExitIdx) (x : ExitRec) : Notice :=
  s.notice .exitState (some (byte e.val)) [x.reasons.code, boolByte x.usable]

/-- A defined exit takes a reason set. When it differs from the set held, the usable field and the base source
cost are formed anew, EXIT_STATE is posted, change pending is set and the lines that name the exit are
driven anew; otherwise nothing changes (R57). An exit that is not defined is left alone (R56). -/
def setReasons (e : ExitIdx) (r : ReasonSet) : Emit := fun s =>
  if s.active.exits.has e && r ≠ (s.exits.exits.get e).reasons then
    let x := s.exitRecord e r
    let s := { s with exits := { s.exits with exits := s.exits.exits.set e x } }
    (s.setPending.drive (OutputSource.names e), [s.exitNotice e x])
  else
    (s, [])

/-- A defined exit's base source cost is formed anew with its usable field as it stands (R58). -/
def State.reformBase (s : State) (e : ExitIdx) : State :=
  if s.active.exits.has e then
    let x := s.exits.exits.get e
    { s with exits := { s.exits with exits := s.exits.exits.set e { x with base := s.baseCost e x.usable } } }
  else s

/-- The zone of a defined exit's node (R61). -/
def Layout.exitZone (a : Layout) (e : ExitIdx) : Option ZoneIdx :=
  match a.exits.get e with
  | none => none
  | some x => (a.nodes.get x.node).map NodeRec.zone

/-- The exit holds HAZARD: its node's zone stands at or above T_imp (R61). -/
def State.hazardHolds (s : State) (e : ExitIdx) : Bool :=
  match s.active.exitZone e with
  | none => false
  | some z => s.active.params.tImp ≤ (s.zones.get z).effective.val

/-- The exit uses passage `p`: a defined PASSAGE exit whose passage number is `p` (R4, R62). -/
def Layout.exitUses (a : Layout) (p : PassageIdx) (e : ExitIdx) : Bool :=
  match a.exits.get e with
  | none => false
  | some x => x.kind = .passage && x.passage = some p

/-- The exit holds STALE: a PASSAGE exit whose passage is STALE (R62). -/
def State.staleHolds (s : State) (e : ExitIdx) : Bool :=
  match s.active.exits.get e with
  | none => false
  | some x =>
    match x.kind, x.passage with
    | .passage, some p => (s.boundary.passages.get p).state = .stale
    | _, _ => false

/-- The exit holds NO_LINK: a PASSAGE exit while the hall id in ACTIVE is 0 (R62). -/
def State.noLinkHolds (s : State) (e : ExitIdx) : Bool :=
  match s.active.exits.get e with
  | none => false
  | some x => x.kind = .passage && s.active.params.hallId = 0

/-- The exit's door line is `l` and is configured INPUT_DOOR in ACTIVE (R4, R65). -/
def Layout.doorLineOf (a : Layout) (e : ExitIdx) (l : LineIdx) : Bool :=
  match a.exits.get e with
  | none => false
  | some x => x.kind = .door && x.doorLine = some l && a.lines.get l = .inputDoor

/-- The exit holds DOOR: a DOOR exit in ELAPSED whose door line, configured INPUT_DOOR, is debounced
inactive (R65). -/
def State.doorHolds (s : State) (e : ExitIdx) : Bool :=
  match s.active.exits.get e with
  | none => false
  | some x =>
    match x.doorLine with
    | none => false
    | some l =>
      s.active.doorLineOf e l && s.exits.grace = .elapsed &&
        match s.exits.lines.get l with
        | .input debounced _ => !debounced
        | .output _ => false

/-- HAZARD of one exit is derived anew (R61). -/
def deriveHazard (e : ExitIdx) : Emit := fun s =>
  setReasons e { (s.exits.exits.get e).reasons with hazard := s.hazardHolds e } s

/-- DOOR of one exit is derived anew (R65). -/
def deriveDoor (e : ExitIdx) : Emit := fun s =>
  setReasons e { (s.exits.exits.get e).reasons with door := s.doorHolds e } s

/-- STALE of one exit is derived anew (R62). -/
def deriveStale (e : ExitIdx) : Emit := fun s =>
  setReasons e { (s.exits.exits.get e).reasons with stale := s.staleHolds e } s

/-- The exits of which something is true, in index order. -/
def exitsWhere (p : ExitIdx → Bool) : List ExitIdx := (List.finRange 24).filter p

/-! ## Zone levels (2.4) -/

/-- A zone takes new inputs and its effective level is formed anew (R29). When the level changes, the last change
time is set, ZONE_LEVEL is posted and change pending is set (R30). -/
def formZone (z : ZoneIdx) (r : ZoneRec) : Emit := fun s =>
  let old := s.zones.get z
  let eff := max r.panelLevel (max r.consoleLevel r.beamLevel)
  if eff = old.effective then
    ({ s with zones := s.zones.set z { r with effective := eff, lastChange := old.lastChange } }, [])
  else
    let s := { s with zones := s.zones.set z { r with effective := eff, lastChange := s.port.clock } }
    (s.setPending,
      [s.notice .zoneLevel (some (byte z.val)) [byte old.effective.val, byte eff.val]])

/-- A zone takes new inputs; when its effective level changes, HAZARD of the exits whose nodes lie in it is derived
anew in the same event, in exit index order, after the zone's own notice (R61). -/
def zoneEvent (z : ZoneIdx) (r : ZoneRec) : Emit := fun s =>
  let old := (s.zones.get z).effective
  let q := formZone z r s
  if (q.1.zones.get z).effective = old then q
  else
    let w := Emit.each (exitsWhere fun e => s.active.exitZone e = some z) deriveHazard q.1
    (w.1, q.2 ++ w.2)

/-- The level a channel contributes to its zone (R40). -/
def BeamRec.contribution (b : BeamRec) : Level :=
  match b.state with
  | .measuring => b.level
  | .blocked => b.level
  | .overRange => b.level
  | .warming => 0
  | .disabled => 0

/-- The beam level of a zone: the greatest contribution among the channels enabled in ACTIVE with that zone (R28). -/
def State.beamLevel (s : State) (z : ZoneIdx) : Level :=
  (List.finRange 8).foldl (fun m c =>
    let cfg := s.active.beams.get c
    if cfg.enabled && cfg.zone = z then max m (s.beams.get c).contribution else m) 0

/-- The panel level a reported state gives, from the Panel Level Map of ACTIVE and, for FAULT, the level held
before (R24, R25). -/
def State.panelLevel (s : State) (held : Level) : PanelState → Level
  | .normal => 0
  | .prealarm => s.active.params.prealarmLevel
  | .alarm => s.active.params.alarmLevel
  | .fault => held
  | .isolated => 0

/-! ## The alarm link (9.2) -/

/-- The record of an alarm line. -/
def Alarm.line (a : Alarm) : AlarmLine → AlarmLineRec
  | .a => a.lineA
  | .b => a.lineB

/-- The interface with one line's record replaced. -/
def Alarm.setLine (a : Alarm) (l : AlarmLine) (r : AlarmLineRec) : Alarm :=
  match l with
  | .a => { a with lineA := r }
  | .b => { a with lineB := r }

/-- The state with one alarm line's record replaced. -/
def State.setLine (s : State) (l : AlarmLine) (r : AlarmLineRec) : State :=
  { s with alarm := s.alarm.setLine l r }

/-- The link state of two line states under a rule (R166). -/
def linkOf (rule : HealthRule) (a b : LineState) : LinkState :=
  match a, b with
  | .live, .live => .healthy
  | .silent, .silent => .lost
  | _, _ =>
    match rule with
    | .either => .healthy
    | .both => .degraded

/-- The link state is derived anew. A change replaces it, posts ALARM_LINK and drives the ALARM_LINK_LOST outputs, and
a move to LOST sets ALARM_LINK_LOST_SEEN (R166). -/
def deriveLink : Emit := fun s =>
  let new := linkOf s.active.params.healthRule s.alarm.lineA.state s.alarm.lineB.state
  let old := s.alarm.link
  if new = old then (s, [])
  else
    let s := { s with alarm := { s.alarm with link := new } }
    let s := if new = .lost then s.setFlag .alarmLinkLostSeen else s
    (s.drive fun src => src = .alarmLinkLost,
      [s.notice .alarmLink none [old.code, new.code]])

/-- A count of errors or overruns goes up by one and stays at 65,535 (R160, R151). -/
def bump (n : Nat) : Nat := min Config.countMax (n + 1)

end Machine
end Sys2Proof
end

