-- ==== Sys2Proof/Machine/BeamOps.lean ====
section
/-!
DEFINITION. The operations of the Beam Unit (chapter 3): a sample into the history (R41), its evaluation into a state and a
target (R42 to R45), and the movement of the level (R48, R49).
-/

namespace Sys2Proof
namespace Machine

/-- The over-range limit: reference + floor(reference / 4) (R42). -/
def BeamCfg.limit (c : BeamCfg) : Nat := c.reference + c.reference / 4

/-- The received ratio: r = min(256, floor(c × 256 / reference)) (R43). -/
def BeamCfg.ratio (c : BeamCfg) (corrected : Nat) : Nat := min 256 (corrected * 256 / c.reference)

/-- The target of the bands at an obscuration (R44). -/
def BeamCfg.bandTarget (c : BeamCfg) (o : Nat) : Level :=
  if c.o3 ≤ o then c.l3
  else if c.o2 ≤ o then c.l2
  else if c.o1 ≤ o then c.l1
  else 0

/-- A reading joins the history, the oldest of four leaving first (R41). -/
def pushReading (history : List Nat) (reading : Nat) : List Nat :=
  (if 4 ≤ history.length then history.drop 1 else history) ++ [reading]

/-- The working value: the integer mean of a full history (R41). -/
def workingValue (history : List Nat) : Option Nat :=
  if history.length = 4 then some (history.sum / 4) else none

/-- What an evaluation decides (R42 to R45): OVER_RANGE or BLOCKED with the level held, or MEASURING with a target. -/
inductive BeamOutcome where
  | overRange
  | blocked
  | measuring (target : Level)
  deriving DecidableEq, Repr

/-- The evaluation of a corrected value, with the zone's effective level and the channel's own (R42 to R45). -/
def BeamCfg.evaluate (c : BeamCfg) (corrected : Nat) (zone own : Level) : BeamOutcome :=
  if c.limit < corrected then .overRange
  else
    let r := c.ratio corrected
    if r < c.rb then
      if 2 ≤ zone.val || 2 ≤ own.val then .measuring c.l3 else .blocked
    else .measuring (c.bandTarget (256 - r))

/-- A level one step lower. -/
def lower (l : Level) : Level := ⟨l.val - 1, by omega⟩

/-- The level and the decay hold after a sample with a target (R48, R49); `hold` is the decay hold in ticks. -/
def moveLevel (level target : Level) (decay : Option DecayHold) (hold : Nat) (now : Ticks) :
    Level × Option DecayHold :=
  if level < target then (target, none)
  else if target = level then (level, none)
  else
    match decay with
    | none => (level, some ⟨now, target⟩)
    | some d =>
      if d.lastTarget < target then (level, some ⟨now, target⟩)
      else if (now - d.start).toNat < hold then (level, some ⟨d.start, target⟩)
      else (lower level, if target < lower level then some ⟨now, target⟩ else none)

/-- A channel with a new sample in its history (R41). -/
def BeamRec.sampled (b : BeamRec) (c : BeamCfg) (reading : Nat) : BeamRec :=
  let history := pushReading b.history reading
  let working := workingValue history
  { b with history := history, working := working, corrected := working.map fun s => s - c.offset }

/-- A channel after an evaluation. -/
def BeamRec.evaluated (b : BeamRec) (c : BeamCfg) (now : Ticks) : BeamOutcome → BeamRec
  | .overRange => { b with state := .overRange, decay := none, warmStart := none }
  | .blocked => { b with state := .blocked, decay := none, warmStart := none }
  | .measuring target =>
    let m := moveLevel b.level target b.decay (c.decayHold * Config.second) now
    { b with state := .measuring, level := m.1, decay := m.2, warmStart := none }

/-- Whether a sample of the channel is evaluated (R41, R51): outside WARMING always; in WARMING from the first sample 10 s or
more after the warm-up start. -/
def State.evaluates (s : State) (b : BeamRec) : Bool :=
  match b.state with
  | .disabled => false
  | .warming =>
    match b.warmStart with
    | none => false
    | some t => s.passed t Config.warmUpTime
  | .measuring => true
  | .blocked => true
  | .overRange => true

/-- The record of a sampled channel after a sample (R41 to R51). A sample that finds no working value, the history not yet
full, is not evaluated (log entry 12). -/
def State.sampleBeam (s : State) (ch : BeamIdx) (reading : Nat) : BeamRec :=
  let c := s.active.beams.get ch
  let b := (s.beams.get ch).sampled c reading
  match s.evaluates b, b.corrected with
  | true, some v => b.evaluated c s.port.clock (c.evaluate v (s.zones.get c.zone).effective b.level)
  | _, _ => b

/-- BEAM_STATE with the old and new states (R50). -/
def State.beamNotice (s : State) (ch : BeamIdx) (old new : BeamState) : Notice :=
  s.notice .beamState (some (byte ch.val)) [old.code, new.code]

/-- A channel takes a record: a changed state posts BEAM_STATE, and a changed contribution has its zone's beam level formed
anew in the same event (R28, R48, R50). BEAM_STATE joins the queue before ZONE_LEVEL (log entry 13). -/
def beamEvent (ch : BeamIdx) (b : BeamRec) : Emit := fun s =>
  let old := s.beams.get ch
  let t := { s with beams := s.beams.set ch b }
  let ns := if b.state = old.state then [] else [s.beamNotice ch old.state b.state]
  if b.contribution = old.contribution then (t, ns)
  else
    let z := (s.active.beams.get ch).zone
    let r := zoneEvent z { t.zones.get z with beamLevel := t.beamLevel z } t
    (r.1, ns ++ r.2)

end Machine
end Sys2Proof
end

