-- ==== Sys2Proof/Machine/Beams.lean ====
section
/-!
DEFINITION. The meaning of the Beam Unit's event: BEAM_SAMPLE (R41 to R51).
-/

namespace Sys2Proof
namespace Machine

/-- BEAM_SAMPLE (R41): the sample of a channel that is not DISABLED joins its history and, outside WARMING or at the end of
warm-up, is evaluated. -/
def execBeamSample (channel : BeamIdx) (reading : Fin 4096) (s : State) : Host.Outcome State Fault Refusal :=
  .next (
    if (s.beams.get channel).state = .disabled then s
    else Emit.run (beamEvent channel (s.sampleBeam channel reading.val)) s)

end Machine
end Sys2Proof
end

