-- ==== Sys2Proof/Machine/Operands.lean ====
section
/-!
DEFINITION. What a command's operands say: the REPLY of a head (R202), the frame of an alarm line (R162, R163),
the advert of a neighbour (R151, R203). Each is read whole, and what the manual calls void, garbled or bad comes
out as such.
-/

namespace Sys2Proof
namespace Machine

/-! ## Head replies (R123, R202) -/

/-- How an exchange ends (R123). A good reply carries its echo and its status. -/
inductive ReplyOutcome where
  | good (echo : Byte) (lampFault : Bool) (supply : Supply) (tamper : Bool)
  | garbled
  | miss
  deriving DecidableEq, Repr

/-- The outcome a completed REPLY gives: good when no byte has a framing error, the check is correct, the kind byte is
80, the address is the address of the frame sent and the supply field is not 3; garbled otherwise (R123, R202). -/
def readReply (address : Nat) (bytes : List TrunkByte) : ReplyOutcome :=
  match bytes with
  | [k, a, e, st, c] =>
    match Supply.ofCode (st.val.toNat / 32 % 4) with
    | none => .garbled
    | some supply =>
      if !(k.framing || a.framing || e.framing || st.framing || c.framing)
          && checkOk [k.val, a.val, e.val, st.val, c.val] && k.val = 0x80 && a.val.toNat = address then
        .good e.val (st.val.toNat / 128 = 1) supply (st.val.toNat / 16 % 2 = 1)
      else .garbled
  | _ => .garbled

/-- The echo equals an aspect byte: kind, direction, modifier and sequence bit; bit 0 is not tested (R202). -/
def echoMatches (echo expected : Byte) : Bool :=
  echo.toNat / 2 = expected.toNat / 2

/-! ## Alarm line frames (R162, R163, R201) -/

/-- How the bytes after a start byte were judged. -/
inductive AlarmVerdict where
  | good (seq : Byte) (body : FrameBody)
  | void
  deriving DecidableEq, Repr

/-- The number of payload bytes of a type the panel may send (R201); any other type ends the frame as void. -/
def payloadLength (type : Byte) : Option Nat :=
  match type.toNat with
  | 1 => some 2
  | 2 => some 1
  | 3 => some 0
  | 4 => some 0
  | _ => none

/-- The payload of a frame, when each field is in range (R163). -/
def readPayload (type : Byte) (payload : List Byte) : Option FrameBody :=
  match type.toNat, payload with
  | 1, [z, st] =>
    if h : z.toNat < 48 then (PanelState.ofCode st).map (FrameBody.zoneReport ⟨z.toNat, h⟩) else none
  | 2, [m] => (HallMode.ofCode m).map FrameBody.hallMode
  | 3, [] => some .supervise
  | 4, [] => some .statusRequest
  | _, _ => none

/-- The verdict on the bytes taken since the start byte, once they end the frame: the type names no frame, or the
check byte has arrived (R162, R163). -/
def alarmVerdict (got : List Byte) : Option AlarmVerdict :=
  match got with
  | seq :: type :: rest =>
    match payloadLength type with
    | none => some .void
    | some n =>
      if rest.length < n + 1 then none
      else
        match checkOk (Config.alarmStart :: got), readPayload type (rest.take n) with
        | true, some body => some (.good seq body)
        | _, _ => some .void
  | _ => none

/-- The bytes after a start byte, taken one at a time until they end the frame: a byte with an error ends it as void.
`none` says that the bytes do not end it yet. Bytes after the end are no part of the frame. -/
def readAlarm (got : List Byte) : List AlarmByte → Option AlarmVerdict
  | [] => none
  | b :: rest =>
    if b.err then some .void
    else
      match alarmVerdict (got ++ [b.val]) with
      | some v => some v
      | none => readAlarm (got ++ [b.val]) rest

/-! ## Adverts (R151, R203) -/

/-- The bits of a frame with the stuff bits removed, as far as they can be read: a bit that reads recessive where a
stuff bit is due ends them (R203). `run` counts the recessive bits just read. -/
def unstuff (run : Nat) : List Bool → List Bool
  | [] => []
  | b :: rest =>
    if run = 5 then
      if b then [] else unstuff 0 rest
    else
      b :: unstuff (if b then run + 1 else 0) rest

/-- The number some bits spell, most significant first. -/
def bitsNat (bits : List Bool) : Nat :=
  bits.foldl (fun n b => 2 * n + (if b then 1 else 0)) 0

/-- The whole bytes some bits hold. -/
def bitsBytes : List Bool → List Byte
  | b7 :: b6 :: b5 :: b4 :: b3 :: b2 :: b1 :: b0 :: rest =>
    byte (bitsNat [b7, b6, b5, b4, b3, b2, b1, b0]) :: bitsBytes rest
  | _ => []

/-- The high half of a byte. -/
def highHalf (b : Byte) : Nat := b.toNat / 16

/-- The low half of a byte. -/
def lowHalf (b : Byte) : Nat := b.toNat % 16

/-- A four-bit number as a hall id. -/
def hallId (n : Nat) : HallId := ⟨n % 16, Nat.mod_lt _ (by decide)⟩

/-- The hall ids packed in some bytes, high half first (R203). -/
def unpackIds (bs : List Byte) : List HallId :=
  bs.flatMap fun b => [hallId (highHalf b), hallId (lowHalf b)]

/-- One entry from the front of some bytes: a passage number above 7 or a path length of 0 or above 4 is bad, and the
cost is taken from bits 19–0 alone (R203). -/
def readEntry (bs : List Byte) : Option (AdvertEntry × List Byte) :=
  match bs with
  | head :: c2 :: c1 :: c0 :: rest =>
    let len := lowHalf head
    if h : highHalf head < 8 then
      if 1 ≤ len ∧ len ≤ 4 then
        let size := (len + 1) / 2
        if rest.length < size then none
        else
          some ({ passage := ⟨highHalf head, h⟩
                  cost := c2.toNat % 16 * 65536 + c1.toNat * 256 + c0.toNat
                  path := (unpackIds (rest.take size)).take len }, rest.drop size)
      else none
    else none
  | _ => none

/-- `n` entries from the front of some bytes. -/
def readEntries : Nat → List Byte → Option (List AdvertEntry × List Byte)
  | 0, bs => some ([], bs)
  | n + 1, bs =>
    match readEntry bs with
    | none => none
    | some (e, rest) =>
      match readEntries n rest with
      | none => none
      | some (es, rest') => some (e :: es, rest')

/-- A path list is acceptable: it begins with the sender, names no hall 0 and no hall twice (R151). -/
def pathOk (sender : HallId) (path : List HallId) : Bool :=
  path.head? = some sender && !path.contains 0 && path.Nodup

/-- The passages of the entries stand in ascending order, and so none twice (R151). -/
def ascending : List PassageIdx → Bool
  | p :: q :: rest => p < q && ascending (q :: rest)
  | _ => true

/-- The advert some bytes carry, when the frame is not bad (R151, R203). The frame's end is fixed by its own content,
and bytes after its check are no part of it. -/
def readAdvertBytes (bs : List Byte) : Option Advert :=
  match bs with
  | head :: g1 :: g0 :: rest =>
    let sender := hallId (highHalf head)
    let count := lowHalf head
    if 8 < count ∨ sender = 0 then none
    else
      match readEntries count rest with
      | none => none
      | some (entries, rest') =>
        match rest' with
        | [] => none
        | check :: _ =>
          let covered := bs.take (bs.length - rest'.length)
          if checkOk (covered ++ [check]) && ascending (entries.map AdvertEntry.passage)
              && entries.all (fun e => pathOk sender e.path) then
            some { sender := sender, generation := BitVec.ofNat 16 (read16 g1 g0), entries := entries }
          else none
  | _ => none

/-- The advert the bits of a frame carry; `none` for a bad frame, one cut off among them (R143, R151). -/
def readAdvert (bits : List Bool) : Option Advert :=
  readAdvertBytes (bitsBytes (unstuff 0 bits))

end Machine
end Sys2Proof
end

