-- ==== Sys2Proof/Machine/BoundaryOps.lean ====
section
/-!
DEFINITION. The operations of the Boundary Link Controller (chapter 8): building an advert from the published field (R146 to
R150) and using the entries of one received (R152 to R155).
-/

namespace Sys2Proof
namespace Machine

/-- The controller's state is replaced. -/
def State.setBoundary (s : State) (b : Boundary) : State := { s with boundary := b }

/-- A passage's entry is replaced. -/
def State.setPassage (s : State) (p : PassageIdx) (r : PassageRec) : State :=
  s.setBoundary { s.boundary with passages := s.boundary.passages.set p r }

/-- An entry that offers no way out: INF with the own id alone (R149, R150). -/
def noWay (own : HallId) (p : PassageIdx) : AdvertEntry where
  passage := p
  cost := Config.inf
  path := [own]

/-- The path list of an onward route through passage `q`: the own id before the list stored for `q`, unless `q` is STALE,
holds no list, or the joined list would hold more than four ids (R150). -/
def onwardPath (own : HallId) (q : PassageRec) : Option (List HallId) :=
  match q.state, q.path with
  | .heard, some path => if path.length + 1 ≤ 4 then some (own :: path) else none
  | _, _ => none

/-- The entry of passage `p`, whose record names exit `e`, built from a published field (R149, R150). -/
def buildEntry (a : Layout) (passages : Table PassageRec 8) (pub : Published) (p : PassageIdx) (e : ExitIdx) :
    AdvertEntry :=
  let own := a.params.hallId
  match a.exits.get e with
  | none => noWay own p
  | some x =>
    let np := pub.field.nodes.get x.node
    if np.cost = Config.inf then noWay own p
    else
      match np.route with
      | none => noWay own p
      | some r =>
        if r = e then noWay own p
        else
          match a.exits.get r with
          | none => noWay own p
          | some y =>
            match y.kind, y.passage with
            | .door, _ => { passage := p, cost := np.cost, path := [own] }
            | .passage, none => noWay own p
            | .passage, some q =>
              match onwardPath own (passages.get q) with
              | some path => { passage := p, cost := np.cost, path := path }
              | none => noWay own p

/-- The advert of a published field: one entry for each passage record present in ACTIVE, in ascending passage number
(8.4). -/
def buildAdvert (a : Layout) (passages : Table PassageRec 8) (pub : Published) : Advert where
  sender := a.params.hallId
  generation := pub.field.generation
  entries := a.passages.defined.map fun r => buildEntry a passages pub r.1 r.2.exit

/-- An advert is built from the published field: it becomes the pending advert, in place of one not started, owed is
cleared and the last build set (R146, R147). -/
def State.build (s : State) (pub : Published) : State :=
  s.setBoundary { s.boundary with
    waiting := some (buildAdvert s.active s.boundary.passages pub)
    owed := false
    lastBuild := some s.port.clock }

/-- The Advert Interval allows a build: none was made yet, or 1 s has passed since the last (R146). -/
def State.mayBuild (s : State) : Bool :=
  match s.boundary.lastBuild with
  | none => true
  | some t => s.passed t Config.advertInterval

/-- The controller takes an adopted field (R146): nothing while the hall id is 0, else a build, or owed. -/
def State.takeField (s : State) (pub : Published) : State :=
  if s.active.params.hallId = 0 then s
  else if s.mayBuild then s.build pub
  else s.setBoundary { s.boundary with owed := true }

/-- PASSAGE_STATE with the old and new states (R155). -/
def State.passageNotice (s : State) (p : PassageIdx) (old new : PassageState) : Notice :=
  s.notice .passageState (some (byte p.val)) [old.code, new.code]

/-- A remote cost that may have changed reaches the exits that use the passage: the base source costs are formed anew
and change pending is set (R58, R154). -/
def State.remoteChanged (s : State) (p : PassageIdx) : State :=
  (exitsWhere (s.active.exitUses p)).foldl State.reformBase s.setPending

/-- A passage takes the values of a used entry (R154): INF as its remote cost when the entry's path list names this hall, else the
entry's cost; its path list, time and generation. -/
def State.usedRecord (s : State) (generation : Gen) (e : AdvertEntry) : PassageRec where
  state := .heard
  remote := if e.path.contains s.active.params.hallId then Config.inf else e.cost
  path := some e.path
  lastHeard := some s.port.clock
  lastGeneration := some generation

/-- A passage's record is replaced, and a changed remote cost reaches the exits (R154). -/
def State.takeRecord (s : State) (p : PassageIdx) (r : PassageRec) : State :=
  let t := s.setPassage p r
  if r.remote = (s.boundary.passages.get p).remote then t else t.remoteChanged p

/-- STALE of the exits that use a passage is derived anew, in index order (R62). -/
def deriveStaleOf (p : PassageIdx) : Emit := fun s =>
  Emit.each (exitsWhere (s.active.exitUses p)) deriveStale s

/-- An entry is used (R154): the passage takes its values; a STALE passage becomes HEARD, posts PASSAGE_STATE and its exit loses
STALE (R155). -/
def useEntry (generation : Gen) (e : AdvertEntry) : Emit := fun s =>
  let t := s.takeRecord e.passage (s.usedRecord generation e)
  match (s.boundary.passages.get e.passage).state with
  | .heard => (t, [])
  | .stale =>
    let r := deriveStaleOf e.passage t
    (r.1, s.passageNotice e.passage .stale .heard :: r.2)

/-- An entry is used when the hall id is not 0, its passage record is present and names the sender as neighbour; any other
is passed over (R153). -/
def takeEntry (a : Advert) (e : AdvertEntry) : Emit := fun s =>
  match s.active.passages.get e.passage with
  | none => (s, [])
  | some c =>
    if s.active.params.hallId ≠ 0 && c.neighbour = a.sender then useEntry a.generation e s else (s, [])

/-- The Duplicate Id Watch sees an advert under the own hall id (R152). -/
def seeDuplicate : Emit := fun s =>
  let t := s.setBoundary { s.boundary with watch := .seen s.port.clock }
  match s.boundary.watch with
  | .clear => (t, [s.notice .duplicateHallId none [byte s.active.params.hallId.val]])
  | .seen _ => (t, [])

/-- An advert received is taken (R152, R153): ignored whole under the own hall id, else its entries are taken in order. -/
def takeAdvert (a : Advert) : Emit := fun s =>
  if a.sender = s.active.params.hallId then seeDuplicate s
  else Emit.each a.entries (takeEntry a) s

/-- A bad frame is counted (R151). -/
def State.badFrame (s : State) : State :=
  s.setBoundary { s.boundary with errors := bump s.boundary.errors }

end Machine
end Sys2Proof
end

