-- ==== Sys2Proof/Machine/BoundaryEvents.lean ====
section
/-!
DEFINITION. The meanings of the Boundary Link Controller's events: the bus (R143 to R145), received frames (R151 to R154) and
the expiries of its intervals (R146, R152, R155).
-/

namespace Sys2Proof
namespace Machine

/-- The pending advert, when none is in flight, starts its frame (R143). -/
def Boundary.startFrame (b : Boundary) : Boundary :=
  match b.inFlight, b.waiting with
  | none, some a => { b with waiting := none, inFlight := some a }
  | _, _ => b

/-- The controller is sending: the frame on the bus is its own until it completes or loses arbitration (R144, R145). -/
def State.sending (s : State) : Bool := s.boundary.inFlight.isSome

/-- BUS_FREE (R143). Ten recessive bit times that cut a frame off end it as a bad frame, and the bus is free only ten bit times
after that end; otherwise the bus is free, and a pending advert starts (log entry 9). While the controller sends, the frame on the bus
is its own: the bus is not free and no received frame is cut off (R145, log entry 6). -/
def execBusFree (cutOff : Bool) (s : State) : Host.Outcome State Fault Refusal :=
  .next (
    if s.sending then s
    else if cutOff then s.badFrame
    else s.setBoundary s.boundary.startFrame)

/-- LOST_ARBITRATION (R144, R148): the advert in flight returns to pending unless a newer one is pending; a controller whose hall
id has become 0 holds none pending (log entry 22). -/
def execLostArbitration (s : State) : Host.Outcome State Fault Refusal :=
  .next (
    match s.boundary.inFlight with
    | none => s
    | some a =>
      s.setBoundary { s.boundary with
        inFlight := none
        waiting := if s.active.params.hallId = 0 then none else some (s.boundary.waiting.getD a) })

/-- ADVERT_SENT (R145): the advert leaves flight. -/
def execAdvertSent (s : State) : Host.Outcome State Fault Refusal :=
  .next (s.setBoundary { s.boundary with inFlight := none })

/-- ADVERT_RECEIVED (R145, R151 to R154): the frame is checked whole; a bad one is counted, a good one is taken. While the controller
sends, the frame on the bus is its own, and it takes none: a frame it stopped sending is received after LOST_ARBITRATION. -/
def execAdvertReceived (bits : List Bool) (s : State) : Host.Outcome State Fault Refusal :=
  .next (
    if s.sending then s
    else
      match readAdvert bits with
      | none => s.badFrame
      | some a => Emit.run (takeAdvert a) s)

/-- The Advert Interval has expired: 1 s has passed since the last build (R146). -/
def State.advertExpired (s : State) : Bool :=
  match s.boundary.lastBuild with
  | none => false
  | some t => s.passed t Config.advertInterval

/-- ADVERT_INTERVAL_EXPIRY (R146): an owed advert is built from the published field. -/
def execAdvertIntervalExpiry (s : State) : Host.Outcome State Fault Refusal :=
  .next (
    match s.aspect.published with
    | none => s
    | some p =>
      if s.advertExpired && s.boundary.owed && s.active.params.hallId ≠ 0 then s.build p else s)

/-- The age of a passage in HEARD has expired: 3 s have passed since it was last heard (R155). -/
def State.ageExpired (s : State) (p : PassageIdx) : Bool :=
  let r := s.boundary.passages.get p
  match r.state, r.lastHeard with
  | .heard, some t => s.passed t Config.stalenessTime
  | _, _ => false

/-- A passage becomes STALE (R155): PASSAGE_STATE is posted and the exit that uses it gains STALE. -/
def goStale (p : PassageIdx) : Emit := fun s =>
  let t := s.setPassage p { s.boundary.passages.get p with state := .stale }
  let r := deriveStaleOf p t
  (r.1, s.passageNotice p .heard .stale :: r.2)

/-- PASSAGE_AGE_EXPIRY (R155). -/
def execPassageAgeExpiry (passage : PassageIdx) (s : State) : Host.Outcome State Fault Refusal :=
  .next (if s.ageExpired passage then Emit.run (goStale passage) s else s)

/-- DUPLICATE_WATCH_EXPIRY (R152): 3 s after the last seen time the watch returns to CLEAR. -/
def execDuplicateWatchExpiry (s : State) : Host.Outcome State Fault Refusal :=
  .next (
    match s.boundary.watch with
    | .clear => s
    | .seen t => if s.passed t Config.duplicateTime then s.setBoundary { s.boundary with watch := .clear } else s)

end Machine
end Sys2Proof
end

