-- ==== Sys2Proof/Machine/Lines.lean ====
section
/-!
DEFINITION. The meanings of the Exit Unit's events: DISCRETE_PIN_CHANGE and DEBOUNCE_EXPIRY (R63), DOOR_GRACE_EXPIRY (R64).
-/

namespace Sys2Proof
namespace Machine

/-- A discrete line's record replaced. -/
def State.setLineRec (s : State) (l : LineIdx) (r : LineRec) : State :=
  { s with exits := { s.exits with lines := s.exits.lines.set l r } }

/-- The level on a pin. -/
def State.setPin (s : State) (l : LineIdx) (active : Bool) : State :=
  { s with exits := { s.exits with pins := s.exits.pins.set l active } }

/-- A line's record once its pin takes a value (R63): an input starts a debounce on a value other than its debounced one, or
goes on with the one running, and clears it on the debounced value. An output has none. -/
def LineRec.pinChange (r : LineRec) (active : Bool) (now : Ticks) : LineRec :=
  match r with
  | .output d => .output d
  | .input v start =>
    if active = v then .input v none
    else
      match start with
      | some t => .input v (some t)
      | none => .input v (some now)

/-- DISCRETE_PIN_CHANGE (R63). -/
def execDiscretePinChange (line : LineIdx) (active : Bool) (s : State) : Host.Outcome State Fault Refusal :=
  .next ((s.setPin line active).setLineRec line
    ((s.exits.lines.get line).pinChange active s.port.clock))

/-- The door derivation of the exits whose door line is `l` (R63, R65). -/
def deriveDoorsOf (l : LineIdx) : Emit := fun s =>
  Emit.each (exitsWhere fun e => s.active.doorLineOf e l) deriveDoor s

/-- DEBOUNCE_EXPIRY (R63): a pin that has held a new value for 500 ms sets the debounced value, which is handed to the door
derivation. -/
def execDebounceExpiry (line : LineIdx) (s : State) : Host.Outcome State Fault Refusal :=
  .next (
    match s.exits.lines.get line with
    | .input _ (some t) =>
      if s.passed t Config.debounceTime then
        Emit.run (deriveDoorsOf line) (s.setLineRec line (.input (s.exits.pins.get line) none))
      else s
    | .input _ none => s
    | .output _ => s)

/-- The Door Grace state replaced. -/
def State.setGrace (s : State) (g : DoorGrace) : State := { s with exits := { s.exits with grace := g } }

/-- The defined DOOR exits of a layout, in index order. -/
def Layout.doorExits (a : Layout) : List ExitIdx :=
  exitsWhere fun e =>
    match a.exits.get e with
    | none => false
    | some x => x.kind = .door

/-- The entry to ELAPSED (R64): DOOR is derived for every defined DOOR exit, in index order. -/
def enterElapsed : Emit := fun s =>
  Emit.each s.active.doorExits deriveDoor (s.setGrace .elapsed)

/-- DOOR_GRACE_EXPIRY (R64). -/
def execDoorGraceExpiry (s : State) : Host.Outcome State Fault Refusal :=
  .next (
    match s.exits.grace with
    | .running t =>
      if s.passed t (s.active.params.doorGrace * Config.second) then Emit.run enterElapsed s else s
    | .idle => s
    | .elapsed => s)

end Machine
end Sys2Proof
end

