-- ==== Sys2Proof/Machine/RouteOps.lean ====
section
/-!
DEFINITION. The computation of a run (chapter 5): segment and source costs (R80 to R84), the pass (R85 to R88), the
next-hop derivation (R89, R90), loads and penalties (R92, R93, R96) and the start of a run (R75, R76).
-/

namespace Sys2Proof
namespace Machine

/-! ## Costs (5.2) -/

/-- A segment is open at some zone levels: its zone stands below T_imp (R80). -/
def Layout.segOpen (a : Layout) (levels : Table Level 48) (g : SegRec) : Bool :=
  (levels.get g.zone).val < a.params.tImp

/-- The cost of a segment at some zone levels: C = ceil(L × F[w] × H[h] / 64) (R81). -/
def Layout.segCost (a : Layout) (levels : Table Level 48) (g : SegRec) : Cost :=
  (g.length * Config.widthFactor g.width * a.params.hazard.get (levels.get g.zone) + 63) / 64

/-- The other end of a segment incident to a node (R3). -/
def SegRec.otherEnd (g : SegRec) (n : NodeIdx) : Option NodeIdx :=
  if g.endA = n then some g.endB
  else if g.endB = n then some g.endA
  else none

/-- A segment may be travelled from a node (R82). -/
def SegRec.mayTravel (g : SegRec) (n : NodeIdx) : Bool :=
  match g.rule with
  | .both => n = g.endA || n = g.endB
  | .aToB => n = g.endA
  | .bToA => n = g.endB

/-- The source cost of an exit in a pass under some penalties; INF when it is no source (R84). -/
def Layout.sourceCost (a : Layout) (snap : Snapshot) (penalty : ExitIdx → Nat) (e : ExitIdx) : Cost :=
  if a.exits.has e && (snap.exits.get e).usable then sumCost (snap.exits.get e).base (penalty e)
  else Config.inf

/-! ## The pass (5.3) -/

/-- A pass in progress: the entries of the nodes, the frontier, and the next settlement position. -/
structure PassState where
  nodes : Table NodeWork 256
  frontier : List NodeIdx
  count : Nat

/-- The order of the frontier: by tentative cost, and among equal costs by node index (R86). -/
def frontierBefore (nodes : Table NodeWork 256) (x y : NodeIdx) : Bool :=
  (nodes.get x).cost < (nodes.get y).cost || ((nodes.get x).cost = (nodes.get y).cost && x < y)

/-- A node enters the frontier at the place its cost and index give it (R86). -/
def insertFrontier (nodes : Table NodeWork 256) (n : NodeIdx) : List NodeIdx → List NodeIdx
  | [] => [n]
  | x :: rest => if frontierBefore nodes n x then n :: x :: rest else x :: insertFrontier nodes n rest

/-- A cost is offered to a node: when it is strictly lower than the tentative cost, the node takes it and enters the
frontier or moves in it; otherwise nothing changes (R87). -/
def PassState.offer (p : PassState) (n : NodeIdx) (c : Cost) : PassState :=
  let w := p.nodes.get n
  if c < w.cost then
    let nodes := p.nodes.set n { w with cost := c }
    { p with nodes := nodes, frontier := insertFrontier nodes n (p.frontier.erase n) }
  else p

/-- The sources seed their nodes, in exit index order (R85). -/
def seed (a : Layout) (source : ExitIdx → Cost) : PassState :=
  a.exits.defined.foldl
    (fun p e => if source e.1 ≤ Config.maxCost then p.offer e.2.node (source e.1) else p)
    { nodes := Table.replicate 256 NodeWork.fresh, frontier := [], count := 0 }

/-- A settled node `m` offers its cost across one segment to the node that may travel it to `m` (R87). -/
def PassState.relax (a : Layout) (levels : Table Level 48) (m : NodeIdx) (d : Cost) (p : PassState)
    (g : SegRec) : PassState :=
  match g.otherEnd m with
  | none => p
  | some n =>
    if a.segOpen levels g && g.mayTravel n && !(p.nodes.get n).settled then
      p.offer n (sumCost d (a.segCost levels g))
    else p

/-- The first node of the frontier is settled, and offers its cost across its segments in index order (R87). -/
def PassState.settle (a : Layout) (levels : Table Level 48) (p : PassState) : PassState :=
  match p.frontier with
  | [] => p
  | m :: rest =>
    let w := p.nodes.get m
    let q : PassState :=
      { nodes := p.nodes.set m { w with settled := true, position := some p.count }
        frontier := rest
        count := p.count + 1 }
    a.segments.defined.foldl (fun q e => q.relax a levels m w.cost e.2) q

/-- A pass settles nodes until its frontier is empty (R87, R88); each node is settled at most once, so 256 rounds
are enough. -/
def passLoop (a : Layout) (levels : Table Level 48) : Nat → PassState → PassState
  | 0, p => p
  | k + 1, p => if p.frontier.isEmpty then p else passLoop a levels k (p.settle a levels)

/-- One pass from its sources (R85 to R88). -/
def runPass (a : Layout) (levels : Table Level 48) (source : ExitIdx → Cost) : PassState :=
  passLoop a levels 256 (seed a source)

/-! ## Next hops (5.4) -/

/-- A settled node joins the settlement order at its position. -/
def insertSettled (nodes : Table NodeWork 256) (n : NodeIdx) : List NodeIdx → List NodeIdx
  | [] => [n]
  | x :: rest =>
    if (nodes.get n).position.getD 0 < (nodes.get x).position.getD 0 then n :: x :: rest
    else x :: insertSettled nodes n rest

/-- The settled nodes in settlement order (R88). -/
def settlementOrder (nodes : Table NodeWork 256) : List NodeIdx :=
  ((List.finRange 256).filter fun n => (nodes.get n).settled).foldr (insertSettled nodes) []

/-- The Own-Exit Rule: the exit of node `n` that is a source whose source cost equals the node's cost (R89). -/
def Layout.ownExit (a : Layout) (source : ExitIdx → Cost) (n : NodeIdx) (d : Cost) : Option ExitIdx :=
  (a.exits.defined.find? fun e => e.2.node = n && source e.1 ≤ Config.maxCost && source e.1 = d).map Prod.fst

/-- The lowest-indexed open segment that may be travelled from `n` to an end `m` with D(m) finite and
D(m) + C(s) = D(n), with that end (R90). -/
def Layout.nextHop (a : Layout) (levels : Table Level 48) (nodes : Table NodeWork 256) (n : NodeIdx) :
    Option (SegIdx × NodeIdx) :=
  a.segments.defined.findSome? fun e =>
    match e.2.otherEnd n with
    | none => none
    | some m =>
      if a.segOpen levels e.2 && e.2.mayTravel n && (nodes.get m).cost ≤ Config.maxCost
          && sumCost (nodes.get m).cost (a.segCost levels e.2) = (nodes.get n).cost then
        some (e.1, m)
      else none

/-- The next segment and route exit of one settled node (R89, R90). -/
def deriveNode (a : Layout) (levels : Table Level 48) (source : ExitIdx → Cost) (nodes : Table NodeWork 256)
    (n : NodeIdx) : Table NodeWork 256 :=
  let w := nodes.get n
  match a.ownExit source n w.cost with
  | some e => nodes.set n { w with next := none, route := some e }
  | none =>
    match a.nextHop levels nodes n with
    | some (s, m) => nodes.set n { w with next := some s, route := (nodes.get m).route }
    | none => nodes

/-- The next-hop derivation walks the settled nodes in settlement order (R89, R90). -/
def deriveHops (a : Layout) (levels : Table Level 48) (source : ExitIdx → Cost) (nodes : Table NodeWork 256) :
    Table NodeWork 256 :=
  (settlementOrder nodes).foldl (deriveNode a levels source) nodes

/-! ## Loads and penalties (5.5) -/

/-- The load of an exit: the occupancy weight of the defined nodes routed to it (R92, R96). -/
def Layout.loadOf (a : Layout) (nodes : Table NodeWork 256) (e : ExitIdx) : Nat :=
  a.nodes.defined.foldl
    (fun sum n => if (nodes.get n.1).route = some e then sum + n.2.weight.val else sum) 0

/-- The penalty of an exit at a pass-1 load (R93); 0 for an exit that is not defined. -/
def Layout.penaltyOf (a : Layout) (e : ExitIdx) (load : Nat) : Nat :=
  match a.exits.get e with
  | none => 0
  | some x => min Config.penaltyMax ((load - x.capacity) * a.params.gain)

/-! ## Runs (5.1) -/

/-- The inputs a run starting now works on (R76). -/
def State.takeSnapshot (s : State) : Snapshot where
  levels := Table.ofFn fun z => (s.zones.get z).effective
  exits := Table.ofFn fun e => { usable := (s.exits.exits.get e).usable, base := (s.exits.exits.get e).base }

/-- A run as it starts: phase SNAPSHOT, its snapshot fixed (R75). -/
def Run.start (snap : Snapshot) : Run where
  phase := .snapshot
  snapshot := snap
  frontier := []
  nodes := Table.replicate 256 NodeWork.fresh
  exits := Table.replicate 24 ExitWork.zero

/-- The start of a run (R75): both triggers cleared, the last run start set, the snapshot fixed, RUNNING in
SNAPSHOT. -/
def State.startRun (s : State) : State :=
  { s with engine := { s.engine with
      run := some (Run.start s.takeSnapshot)
      changePending := false
      refreshDue := false
      lastStart := some s.port.clock } }

/-- A run in flight is abandoned: discarded whole, never handed over, no generation taken (R78). -/
def Engine.abandon (g : Engine) : Engine :=
  { g with run := none, refreshDue := false }

/-- The penalties a run holds. -/
def Run.penalty (r : Run) (e : ExitIdx) : Nat := (r.exits.get e).penalty

/-- The source costs of the pass that gives a run its final field: pass 2 when G is above 0, pass 1 otherwise
(R84, R94). -/
def Run.finalSource (a : Layout) (r : Run) (e : ExitIdx) : Cost :=
  if 0 < a.params.gain then a.sourceCost r.snapshot r.penalty e
  else a.sourceCost r.snapshot (fun _ => 0) e

/-- PASS1's work: pass 1 with the base source costs, then the next-hop derivation (R79). -/
def Run.doPass1 (a : Layout) (r : Run) : Run :=
  let source := a.sourceCost r.snapshot fun _ => 0
  let p := runPass a r.snapshot.levels source
  { r with
    phase := .load
    frontier := p.frontier
    nodes := deriveHops a r.snapshot.levels source p.nodes }

/-- LOAD's work: the pass-1 loads and the penalties (R92, R93). -/
def Run.doLoad (a : Layout) (r : Run) : Run :=
  { r with
    phase := if 0 < a.params.gain then .pass2 else .nexthop
    exits := Table.ofFn fun e =>
      { pass1Load := a.loadOf r.nodes e
        penalty := a.penaltyOf e (a.loadOf r.nodes e)
        finalLoad := 0 } }

/-- PASS2's work: the pass again from the start, with the penalised source costs (R94). -/
def Run.doPass2 (a : Layout) (r : Run) : Run :=
  let p := runPass a r.snapshot.levels (a.sourceCost r.snapshot r.penalty)
  { r with phase := .nexthop, frontier := p.frontier, nodes := p.nodes }

/-- NEXTHOP's work: the next-hop derivation on pass 2's costs when it ran, pass 1's result otherwise; then the final
loads (R79, R94, R96). -/
def Run.doNexthop (a : Layout) (r : Run) : Run :=
  let nodes :=
    if 0 < a.params.gain then deriveHops a r.snapshot.levels (a.sourceCost r.snapshot r.penalty) r.nodes
    else r.nodes
  { r with
    phase := .handover
    nodes := nodes
    exits := Table.ofFn fun e => { r.exits.get e with finalLoad := a.loadOf nodes e } }

/-- The field a completed run hands over (R97). -/
def Run.field (r : Run) (generation : Gen) (time : Ticks) : Field where
  generation := generation
  time := time
  nodes := Table.ofFn fun n =>
    let w := r.nodes.get n
    { cost := w.cost, next := w.next, route := w.route }
  exits := r.exits

/-- The basis that comes with it (R101). -/
def Run.basis (a : Layout) (r : Run) : Basis where
  levels := r.snapshot.levels
  source := Table.ofFn fun e => r.finalSource a e ≤ Config.maxCost

end Machine
end Sys2Proof
end

