-- ==== Sys2Proof/Machine/SignOps.lean ====
section
/-!
DEFINITION. The operations of the Sign Line Controller (chapter 7): offering a sign to the change queue, choosing and
starting the next exchange of a trunk, and ending one.
-/

namespace Sys2Proof
namespace Machine

/-- A head's record is replaced. -/
def State.setHead (s : State) (i : SignIdx) (h : HeadRec) : State :=
  { s with signLine := { s.signLine with heads := s.signLine.heads.set i h } }

/-- A trunk's record is replaced. -/
def State.setTrunk (s : State) (t : TrunkIdx) (r : TrunkRec) : State :=
  { s with signLine := { s.signLine with trunks := s.signLine.trunks.set t r } }

/-- The change queue is replaced. -/
def State.setQueue (s : State) (q : List SignIdx) : State :=
  { s with signLine := { s.signLine with queue := q } }

/-- A sign whose aspect changed is offered to the change queue (R114, R129): one in the queue keeps its place, one whose
head is LOST is not admitted, any other is appended. -/
def State.offer (s : State) (i : SignIdx) : State :=
  if i ∈ s.signLine.queue then s
  else if (s.signLine.heads.get i).state = .lost then s
  else s.setQueue (s.signLine.queue ++ [i])

/-- The signs defined on a trunk, in index order. -/
def Layout.onTrunk (a : Layout) (t : TrunkIdx) : List (SignIdx × SignCfg) :=
  a.signs.defined.filter fun e => e.2.trunk = t

/-- Of some signs, the one with the lowest address. -/
def lowestAddress : List (SignIdx × SignCfg) → Option (SignIdx × SignCfg)
  | [] => none
  | e :: rest =>
    match lowestAddress rest with
    | none => some e
    | some f => if f.2.address < e.2.address then some f else some e

/-- The oldest queue entry whose sign is defined in ACTIVE on the trunk (R127, step 1). -/
def State.queuedOn (s : State) (t : TrunkIdx) : Option (SignIdx × SignCfg) :=
  s.signLine.queue.findSome? fun i =>
    match s.active.signs.get i with
    | none => none
    | some c => if c.trunk = t then some (i, c) else none

/-- The default-pending head of the trunk that is not LOST with the lowest address (R127, step 2). -/
def State.defaultOn (s : State) (t : TrunkIdx) : Option (SignIdx × SignCfg) :=
  lowestAddress <| (s.active.onTrunk t).filter fun e =>
    let h := s.signLine.heads.get e.1
    h.defaultPending && h.state ≠ .lost

/-- The next head of the trunk in round robin: the lowest defined address above the position, or the lowest of all
(R128). -/
def State.roundRobinOn (s : State) (t : TrunkIdx) : Option (SignIdx × SignCfg) :=
  let all := s.active.onTrunk t
  let position := (s.signLine.trunks.get t).roundRobin
  match lowestAddress (all.filter fun e => position < e.2.address) with
  | some e => some e
  | none => lowestAddress all

/-- A trunk starts an exchange with a frame. -/
def State.startExchange (s : State) (t : TrunkIdx) (i : SignIdx) (c : SignCfg) (f : TrunkFrame) : State :=
  let r := s.signLine.trunks.get t
  s.setTrunk t { r with
    exchange := some { sign := i, address := c.address, frame := f, windowOpen := false, discard := false } }

/-- An ASPECT frame is built and started (R124): it carries the shown aspect, and the head's sequence bit, inverted
first when that aspect differs from the last sent one or none was sent. -/
def State.startAspect (s : State) (t : TrunkIdx) (i : SignIdx) (c : SignCfg) : State :=
  let h := s.signLine.heads.get i
  let shown := (s.aspect.signs.get i).shown
  let seq := if h.lastSent = some shown then h.seq else !h.seq
  (s.setHead i { h with seq := seq, lastSent := some shown }).startExchange t i c (.aspect shown seq)

/-- A SET_DEFAULT frame is built and started (R125). -/
def State.startDefault (s : State) (t : TrunkIdx) (i : SignIdx) (c : SignCfg) : State :=
  s.startExchange t i c (.setDefault c.defaultAspect)

/-- A trunk in service with no exchange in flight takes the first step of R127 that finds something to send; any
other trunk is left alone (R120). -/
def State.kick (s : State) (t : TrunkIdx) : State :=
  let r := s.signLine.trunks.get t
  if r.state = .inService && r.exchange.isNone then
    match s.queuedOn t with
    | some (i, c) => s.startAspect t i c
    | none =>
      match s.defaultOn t with
      | some (i, c) => s.startDefault t i c
      | none =>
        match s.roundRobinOn t with
        | some (i, c) => (s.setTrunk t { r with roundRobin := c.address }).startAspect t i c
        | none => s
  else s

/-- Both trunks start what they have to send (R120). -/
def State.kickAll (s : State) : State := (s.kick 0).kick 1

/-- The leaky error count after an exchange (R133). -/
def errorsAfter (n : Nat) (success : Bool) : Nat :=
  if success then n - 1 else min 255 (n + 4)

/-- The consecutive misses after an exchange (R134). -/
def missesAfter (n : Nat) : ReplyOutcome → Nat
  | .good _ _ _ _ => 0
  | .garbled => n
  | .miss => min 4 (n + 1)

/-- A head's state after an exchange, with its error count and misses as they then stand (R134). -/
def headStateAfter (threshold : Nat) (old : HeadState) (outcome : ReplyOutcome) (success : Bool)
    (errors misses : Nat) : HeadState :=
  match old, outcome with
  | .absent, .good _ _ _ _ => if errors < threshold then .online else .degraded
  | .lost, .good _ _ _ _ => if errors < threshold then .online else .degraded
  | .lost, _ => .lost
  | .absent, .miss => if misses = 4 then .lost else .absent
  | .absent, .garbled => .absent
  | .online, .miss => if misses = 4 then .lost else if threshold ≤ errors then .degraded else .online
  | .online, _ => if !success && threshold ≤ errors then .degraded else .online
  | .degraded, .miss => if misses = 4 then .lost else .degraded
  | .degraded, _ => if success && errors = 0 then .online else .degraded

/-- The default-pending mark after an exchange (R135). -/
def defaultPendingAfter (old : Bool) (state : HeadState) (frame : TrunkFrame) : ReplyOutcome → Bool
  | .good _ _ _ _ =>
    match frame with
    | .setDefault _ => false
    | .aspect _ _ => if state = .absent || state = .lost then true else old
  | .garbled => old
  | .miss => old

/-- The status after an exchange (R136). -/
def statusAfter (old : Option HeadStatus) (now : Ticks) : ReplyOutcome → Option HeadStatus
  | .good _ lampFault supply tamper =>
    some { lampFault := lampFault, supply := supply, tamper := tamper, time := now }
  | .garbled => old
  | .miss => old

/-- A good reply confirms the sign: its echo equals the shown aspect and the head's sequence bit (R126). -/
def State.confirms (s : State) (i : SignIdx) : ReplyOutcome → Bool
  | .good echo _ _ _ => echoMatches echo ((s.aspect.signs.get i).shown.code (s.signLine.heads.get i).seq)
  | .garbled => false
  | .miss => false

/-- The head record after an exchange. -/
def State.headAfter (s : State) (i : SignIdx) (frame : TrunkFrame) (outcome : ReplyOutcome) : HeadRec :=
  let h := s.signLine.heads.get i
  let success := s.confirms i outcome
  let errors := errorsAfter h.errors success
  let misses := missesAfter h.misses outcome
  { h with
    state := headStateAfter s.active.params.headThreshold h.state outcome success errors misses
    errors := errors
    misses := misses
    defaultPending := defaultPendingAfter h.defaultPending h.state frame outcome
    status := statusAfter h.status s.port.clock outcome }

/-- The change queue after an exchange (R130, R131); `lost` says that the head entered LOST. -/
def queueAfter (q : List SignIdx) (i : SignIdx) (outcome : ReplyOutcome) (confirms lost : Bool) : List SignIdx :=
  match outcome with
  | .good _ _ _ _ => if confirms then q.erase i else q.erase i ++ [i]
  | .garbled => if i ∈ q then q.erase i ++ [i] else q
  | .miss => if lost then q.erase i else if i ∈ q then q.erase i ++ [i] else q

/-- The lamp fault a reply reports where the lamp held before was OK or absent (R136). -/
def lampFails (old : Option HeadStatus) : ReplyOutcome → Bool
  | .good _ lampFault _ _ =>
    lampFault &&
      match old with
      | none => true
      | some h => !h.lampFault
  | .garbled => false
  | .miss => false

/-- The outcome of an exchange is applied to the head the frame addressed (R126, R130 to R136). SIGN_STATE joins the
queue before LAMP_FAULT (log entry 13). -/
def applyOutcome (i : SignIdx) (frame : TrunkFrame) (outcome : ReplyOutcome) : Emit := fun s =>
  let h := s.signLine.heads.get i
  let h' := s.headAfter i frame outcome
  let q := queueAfter s.signLine.queue i outcome (s.confirms i outcome) (h'.state = .lost && h.state ≠ .lost)
  ((s.setHead i h').setQueue q,
    (if h'.state = h.state then [] else
      [s.notice .signState (some (byte i.val)) [h.state.code, h'.state.code]])
    ++ (if lampFails h.status outcome then [s.notice .lampFault (some (byte i.val)) []] else []))

/-- An exchange ends with an outcome: it leaves flight, its outcome is applied unless its reply is to be discarded
(R20, R137), and the trunk chooses its next exchange in the same event (R123). -/
def endExchange (t : TrunkIdx) (x : Exchange) (outcome : ReplyOutcome) : Emit := fun s =>
  let s := s.setTrunk t { s.signLine.trunks.get t with exchange := none }
  let r := if x.discard then (s, []) else applyOutcome x.sign x.frame outcome s
  (r.1.kick t, r.2)

end Machine
end Sys2Proof
end

