-- ==== Sys2Proof/Machine/AspectOps.lean ====
section
/-!
DEFINITION. The operations of the Aspect Unit (chapter 6): the evaluation of one sign against a published field (R103 to
R111), the modifiers of the hall mode (R112), and the egress accounting (R115).
-/

namespace Sys2Proof
namespace Machine

/-- The modifier of ARROW and EXIT_HERE in a hall mode (R112). -/
def litModifier : HallMode → Modifier
  | .standby => .steady
  | .evacuate => .pulse

/-- Node `n` is the node of a live exit of the published field (R101, R104). -/
def Layout.liveExitAt (a : Layout) (p : Published) (n : NodeIdx) : Bool :=
  a.exits.defined.any fun e => e.2.node = n && p.basis.source.get e.1

/-- The published cost of a node. -/
def Published.cost (p : Published) (n : NodeIdx) : Cost := (p.field.nodes.get n).cost

/-- The face arrow of a segment on a sign: the direction of its pair in the face map (R106). FACE_MAP gives each
incident segment one; without one the direction is 0 (log entry 14). -/
def SignCfg.faceArrow (c : SignCfg) (v : SegIdx) : Dir :=
  match c.faceMap.find? fun q => q.1 = v with
  | some q => q.2
  | none => 0

/-- The downhill test of R108: `v` is a defined segment incident to `n`, open in the published field, travelled from
`n`, and its other end's cost is finite and strictly below D(n). -/
def Layout.downhill (a : Layout) (p : Published) (n : NodeIdx) (v : SegIdx) : Bool :=
  match a.segments.get v with
  | none => false
  | some g =>
    match g.otherEnd n with
    | none => false
    | some m =>
      a.segOpen p.basis.levels g && g.mayTravel n && p.cost m ≠ Config.inf && p.cost m < p.cost n

/-- The cost of continuing along the shown aisle (R110). -/
def Layout.viaCost (a : Layout) (p : Published) (n : NodeIdx) (v : SegIdx) : Cost :=
  match a.segments.get v with
  | none => Config.inf
  | some g =>
    match g.otherEnd n with
    | none => Config.inf
    | some m => a.segCost p.basis.levels g + p.cost m

/-- The best way beats the shown way by more than the margin (R110). -/
def Layout.qualifies (a : Layout) (p : Published) (n : NodeIdx) (v : SegIdx) : Bool :=
  p.cost n * 64 < a.viaCost p n v * (64 - a.params.margin)

/-- The confirm time in ticks: T_conf in EVACUATE and 4 × T_conf in STANDBY (R111). -/
def Layout.confirmTicks (a : Layout) : HallMode → Nat
  | .evacuate => a.params.tConf * Config.second
  | .standby => 4 * a.params.tConf * Config.second

/-- A sign showing the face arrow of a segment (R109). -/
def SignCfg.arrowFor (c : SignCfg) (mode : HallMode) (v : SegIdx) (cand : Option Candidate) : SignRec where
  shown := ⟨.arrow (c.faceArrow v), litModifier mode⟩
  segment := some v
  candidate := cand

/-- A sign showing an aspect that is no arrow. -/
def SignRec.plain (aspect : Aspect) (modifier : Modifier) : SignRec where
  shown := ⟨aspect, modifier⟩
  segment := none
  candidate := none

/-- The Confirm Window of a qualified best segment `b` while `v` is shown (R111). -/
def confirmWindow (a : Layout) (mode : HallMode) (now : Ticks) (c : SignCfg) (v b : SegIdx)
    (cand : Option Candidate) : SignRec :=
  match cand with
  | none => c.arrowFor mode v (some ⟨b, now⟩)
  | some k =>
    if k.segment = b then
      if a.confirmTicks mode ≤ (now - k.start).toNat then c.arrowFor mode b none
      else c.arrowFor mode v (some k)
    else c.arrowFor mode v (some ⟨b, now⟩)

/-- The arrow rules for a sign with best segment `b` (R107 to R111). -/
def evalArrow (a : Layout) (p : Published) (mode : HallMode) (now : Ticks) (c : SignCfg) (old : SignRec)
    (b : SegIdx) : SignRec :=
  match old.shown.aspect, old.segment with
  | .arrow _, some v =>
    if !a.downhill p c.node v then c.arrowFor mode b none
    else if v = b then c.arrowFor mode v none
    else if c.faceArrow v = c.faceArrow b then c.arrowFor mode b none
    else if !a.qualifies p c.node v then c.arrowFor mode v none
    else confirmWindow a mode now c v b old.candidate
  | _, _ => c.arrowFor mode b none

/-- The evaluation of a sign defined in ACTIVE against a published field (R103 to R111). A node with a finite cost, no next
segment and no live exit, which no field handed over has, shows CROSS (log entry 14). -/
def evalSign (a : Layout) (p : Published) (mode : HallMode) (now : Ticks) (c : SignCfg) (old : SignRec) : SignRec :=
  if !c.enabled then SignRec.dark
  else if a.liveExitAt p c.node then SignRec.plain .exitHere (litModifier mode)
  else if p.cost c.node = Config.inf then SignRec.plain .cross .steady
  else
    match (p.field.nodes.get c.node).next with
    | none => SignRec.plain .cross .steady
    | some b => evalArrow a p mode now c old b

/-- A sign's record is replaced. -/
def State.setSign (s : State) (i : SignIdx) (r : SignRec) : State :=
  { s with aspect := { s.aspect with signs := s.aspect.signs.set i r } }

/-- A sign takes a record, and is offered to the change queue when its shown aspect changes (R114). -/
def State.showSign (s : State) (i : SignIdx) (r : SignRec) : State :=
  let old := (s.aspect.signs.get i).shown
  let s := s.setSign i r
  if r.shown = old then s else s.offer i

/-- Every sign defined in ACTIVE is evaluated, in index order (R102). -/
def State.evalSigns (s : State) (p : Published) : State :=
  s.active.signs.defined.foldl
    (fun t e => t.showSign e.1
      (evalSign s.active p s.alarm.mode s.port.clock e.2 (t.aspect.signs.get e.1))) s

/-- The defined nodes of weight above 0 whose cost in a field is INF, in node order (R115). -/
def Layout.cutOff (a : Layout) (p : Published) : List NodeIdx :=
  (a.nodes.defined.filter fun n => 0 < n.2.weight.val && p.cost n.1 = Config.inf).map Prod.fst

/-- The egress set replaced (R101). -/
def State.setEgress (s : State) (new : List NodeIdx) : State :=
  { s with aspect := { s.aspect with egressSet := new } }

/-- A changed egress set replaces the one held; a changed count drives the NO_EGRESS_ANY outputs (R68, R115). -/
def State.takeEgress (s : State) (new : List NodeIdx) : State :=
  if new.length = s.noEgressCount then s.setEgress new
  else (s.setEgress new).drive fun src => src = .noEgressAny

/-- The notice of a changed egress set (R115): NO_EGRESS, with the count and the lowest node index, or EGRESS_RESTORED. -/
def State.egressNotice (s : State) (new : List NodeIdx) : Notice :=
  match new with
  | [] => s.notice .egressRestored none []
  | n :: _ => s.notice .noEgress none [byte new.length, byte n.val]

/-- The egress accounting of an adoption (R115): an equal set keeps everything, any other is taken and posted. -/
def formEgress (p : Published) : Emit := fun s =>
  let new := s.active.cutOff p
  if new = s.aspect.egressSet then (s, []) else (s.takeEgress new, [s.egressNotice new])

/-- The modifier of a lit sign follows the hall mode (R113). -/
def SignRec.recode (r : SignRec) (mode : HallMode) : SignRec :=
  match r.shown.aspect with
  | .arrow _ => { r with shown := { r.shown with modifier := litModifier mode }, candidate := none }
  | .exitHere => { r with shown := { r.shown with modifier := litModifier mode }, candidate := none }
  | .dark => { r with candidate := none }
  | .cross => { r with candidate := none }

/-- The sign shows ARROW or EXIT_HERE. -/
def SignRec.lit (r : SignRec) : Bool :=
  match r.shown.aspect with
  | .arrow _ => true
  | .exitHere => true
  | .dark => false
  | .cross => false

/-- The signs of which something is true, in index order. -/
def signsWhere (p : SignIdx → Bool) : List SignIdx := (List.finRange 192).filter p

/-- A change of hall mode re-codes the signs (R113): every candidate is cleared, every lit sign takes the new modifier
and is offered, in sign index order. -/
def State.recodeSigns (s : State) (mode : HallMode) : State :=
  let lit := signsWhere fun i => (s.aspect.signs.get i).lit
  let signs := Table.ofFn fun i => (s.aspect.signs.get i).recode mode
  lit.foldl State.offer { s with aspect := { s.aspect with signs := signs } }

end Machine
end Sys2Proof
end

