-- ==== Sys2Proof/Machine/LayoutItems.lean ====
section
/-!
DEFINITION. The items of a layout as bytes (R204): the item reference, the fields of each item in the order its table lists
them, the range checks of a write (R11), and the stored image (R193).
-/

namespace Sys2Proof
namespace Machine

/-! ## Item references -/

/-- The item a request addresses: the hall parameter set, or a record given by table and index (1.2). -/
inductive ItemRef where
  | params
  | node (i : NodeIdx)
  | segment (i : SegIdx)
  | exit (i : ExitIdx)
  | sign (i : SignIdx)
  | passage (i : PassageIdx)
  | beam (i : BeamIdx)
  | line (i : LineIdx)
  deriving DecidableEq, Repr

/-- The item a table byte and an index name; `none` when the reference is out of range (R11, R204). R204 says that the index reads 0 for
the hall parameter set; that table byte 0 with another index is out of range is DEDUCED (log entry 11). -/
def ItemRef.read (table : Nat) (index : Nat) : Option ItemRef :=
  match table with
  | 0 => if index = 0 then some .params else none
  | 1 => if h : index < 256 then some (.node ⟨index, h⟩) else none
  | 2 => if h : index < 768 then some (.segment ⟨index, h⟩) else none
  | 3 => if h : index < 24 then some (.exit ⟨index, h⟩) else none
  | 4 => if h : index < 192 then some (.sign ⟨index, h⟩) else none
  | 5 => if h : index < 8 then some (.passage ⟨index, h⟩) else none
  | 6 => if h : index < 8 then some (.beam ⟨index, h⟩) else none
  | 7 => if h : index < 32 then some (.line ⟨index, h⟩) else none
  | _ => none

/-- The bytes of an item reference (R204). -/
def ItemRef.bytes : ItemRef → List Byte
  | .params => 0 :: word16 0
  | .node i => 1 :: word16 i.val
  | .segment i => 2 :: word16 i.val
  | .exit i => 3 :: word16 i.val
  | .sign i => 4 :: word16 i.val
  | .passage i => 5 :: word16 i.val
  | .beam i => 6 :: word16 i.val
  | .line i => 7 :: word16 i.val

/-- The number of bytes an item's fields take (R204); for a sign it uses the face map count the fields carry. -/
def ItemRef.size (fields : List Byte) : ItemRef → Nat
  | .params => 19
  | .node _ => 3
  | .segment _ => 8
  | .exit _ => 8
  | .sign _ => 8 + 3 * (fields.getD 7 0).toNat
  | .passage _ => 3
  | .beam _ => 15
  | .line _ => 2

/-- The content of an item. -/
inductive Item where
  | params (r : HallParams)
  | node (i : NodeIdx) (r : Option NodeRec)
  | segment (i : SegIdx) (r : Option SegRec)
  | exit (i : ExitIdx) (r : Option ExitCfg)
  | sign (i : SignIdx) (r : Option SignCfg)
  | passage (i : PassageIdx) (r : Option PassageCfg)
  | beam (i : BeamIdx) (r : BeamCfg)
  | line (i : LineIdx) (r : LineMode)
  deriving DecidableEq, Repr

/-- A bank with one item replaced (R10). -/
def Layout.put (a : Layout) : Item → Layout
  | .params r => { a with params := r }
  | .node i r => { a with nodes := a.nodes.set i r }
  | .segment i r => { a with segments := a.segments.set i r }
  | .exit i r => { a with exits := a.exits.set i r }
  | .sign i r => { a with signs := a.signs.set i r }
  | .passage i r => { a with passages := a.passages.set i r }
  | .beam i r => { a with beams := a.beams.set i r }
  | .line i r => { a with lines := a.lines.set i r }

/-! ## Fields as bytes (R204, R205) -/

def DirRule.code : DirRule → Byte
  | .both => 0
  | .aToB => 1
  | .bToA => 2

def ExitKind.code : ExitKind → Byte
  | .door => 0
  | .passage => 1

def SignRole.code : SignRole → Byte
  | .wayfinder => 0
  | .door => 1

def HealthRule.code : HealthRule → Byte
  | .either => 0
  | .both => 1

/-- An optional index; absent reads FF (R204). -/
def optByte {n : Nat} : Option (Fin n) → Byte
  | none => 0xFF
  | some i => byte i.val

/-- The two bytes of a discrete line mode: a mode byte and an exit byte, 0 for sources without an exit (R204). -/
def LineMode.bytes : LineMode → List Byte
  | .inputPlain => [0, 0]
  | .inputDoor => [1, 0]
  | .output (.exitInUse e) => [2, byte e.val]
  | .output (.exitClosed e) => [3, byte e.val]
  | .output .hallEvacuate => [4, 0]
  | .output .noEgressAny => [5, 0]
  | .output .alarmLinkLost => [6, 0]

/-- The hall parameters in the order of R9. -/
def HallParams.bytes (p : HallParams) : List Byte :=
  byte p.hallId.val :: p.hazard.toList.map byte
    ++ [byte p.tImp, byte p.gain, byte p.margin, byte p.tConf, byte p.doorGrace, byte p.prealarmLevel.val,
      byte p.alarmLevel.val, byte p.supervision.val, p.healthRule.code, byte p.headThreshold]

/-- A node record's fields (R2); an undefined record reads back with its empty values (R12). -/
def nodeBytes : Option NodeRec → List Byte
  | none => [0, 0, 0]
  | some r => [1, byte r.zone.val, byte r.weight.val]

/-- A segment record's fields (R3). -/
def segmentBytes : Option SegRec → List Byte
  | none => [0, 0, 0] ++ word16 1 ++ [0, 0, 0]
  | some r =>
    [1, byte r.endA.val, byte r.endB.val] ++ word16 r.length ++ [byte r.width.val, r.rule.code, byte r.zone.val]

/-- An exit record's fields (R4). -/
def exitBytes : Option ExitCfg → List Byte
  | none => [0, 0, 0, 0xFF, 1] ++ word16 0 ++ [0xFF]
  | some r =>
    [1, byte r.node.val, r.kind.code, optByte r.doorLine, byte r.capacity] ++ word16 r.bias ++ [optByte r.passage]

/-- A pair of a face map: a two-byte segment and a direction byte (R204). -/
def pairBytes (q : SegIdx × Dir) : List Byte := word16 q.1.val ++ [byte q.2.val]

/-- A sign record's fields (R5). -/
def signBytes : Option SignCfg → List Byte
  | none => [0, 0, 1, 0, 0, 0, Aspect.dark.code, 0]
  | some r =>
    [1, byte r.trunk.val, byte r.address, byte r.node.val, r.role.code, boolByte r.enabled, r.defaultAspect.code,
      byte r.faceMap.length] ++ r.faceMap.flatMap pairBytes

/-- A passage record's fields (R6). -/
def passageBytes : Option PassageCfg → List Byte
  | none => [0, 1, 0]
  | some r => [1, byte r.neighbour.val, byte r.exit.val]

/-- A beam channel configuration's fields (R7). -/
def BeamCfg.bytes (c : BeamCfg) : List Byte :=
  [boolByte c.enabled, byte c.zone.val] ++ word16 c.offset ++ word16 c.reference
    ++ [byte c.o1, byte c.o2, byte c.o3, byte c.l1.val, byte c.l2.val, byte c.l3.val, byte c.rb]
    ++ word16 c.decayHold

/-- The fields of an item of a bank (R12). -/
def Layout.fields (a : Layout) : ItemRef → List Byte
  | .params => a.params.bytes
  | .node i => nodeBytes (a.nodes.get i)
  | .segment i => segmentBytes (a.segments.get i)
  | .exit i => exitBytes (a.exits.get i)
  | .sign i => signBytes (a.signs.get i)
  | .passage i => passageBytes (a.passages.get i)
  | .beam i => (a.beams.get i).bytes
  | .line i => (a.lines.get i).bytes

/-! ## Range checks (R11)

Each reader answers the record, or the position of the first field out of range, counting from 1. -/

/-- A field whose values are the indices below `n`. -/
def fieldFin (position n v : Nat) : Except Nat (Fin n) :=
  if h : v < n then .ok ⟨v, h⟩ else .error position

/-- A field whose values lie from `lo` to `hi`. -/
def fieldNat (position lo hi v : Nat) : Except Nat Nat :=
  if lo ≤ v ∧ v ≤ hi then .ok v else .error position

/-- A yes-or-no field: yes 1, no 0. -/
def fieldBool (position : Nat) (b : Byte) : Except Nat Bool :=
  match b.toNat with
  | 0 => .ok false
  | 1 => .ok true
  | _ => .error position

/-- An optional index; FF is absent. -/
def fieldOpt (position n : Nat) (b : Byte) : Except Nat (Option (Fin n)) :=
  if b = 0xFF then .ok none else (fieldFin position n b.toNat).map some

/-- A field given by its codes. -/
def fieldCode {α : Type} (position : Nat) (v : Option α) : Except Nat α :=
  match v with
  | some a => .ok a
  | none => .error position

def DirRule.ofCode (b : Byte) : Option DirRule :=
  match b.toNat with
  | 0 => some .both
  | 1 => some .aToB
  | 2 => some .bToA
  | _ => none

def ExitKind.ofCode (b : Byte) : Option ExitKind :=
  match b.toNat with
  | 0 => some .door
  | 1 => some .passage
  | _ => none

def SignRole.ofCode (b : Byte) : Option SignRole :=
  match b.toNat with
  | 0 => some .wayfinder
  | 1 => some .door
  | _ => none

def HealthRule.ofCode (b : Byte) : Option HealthRule :=
  match b.toNat with
  | 0 => some .either
  | 1 => some .both
  | _ => none

/-- A discrete line mode's two bytes, one field (R204); an exit byte belongs to a source that names an exit
(log entry 11). -/
def LineMode.ofBytes (mode exit : Byte) : Option LineMode :=
  match mode.toNat with
  | 0 => if exit = 0 then some .inputPlain else none
  | 1 => if exit = 0 then some .inputDoor else none
  | 2 => if h : exit.toNat < 24 then some (.output (.exitInUse ⟨exit.toNat, h⟩)) else none
  | 3 => if h : exit.toNat < 24 then some (.output (.exitClosed ⟨exit.toNat, h⟩)) else none
  | 4 => if exit = 0 then some (.output .hallEvacuate) else none
  | 5 => if exit = 0 then some (.output .noEgressAny) else none
  | 6 => if exit = 0 then some (.output .alarmLinkLost) else none
  | _ => none

/-- The hall parameters (R9): fields 1 to 19, the eight entries of H among them. -/
def readParams (bs : List Byte) : Except Nat HallParams :=
  match bs with
  | [id, h0, h1, h2, h3, h4, h5, h6, h7, tImp, gain, margin, tConf, grace, pre, alarm, k, rule, threshold] => do
    let hallId ← fieldFin 1 16 id.toNat
    let h0 ← fieldNat 2 8 255 h0.toNat
    let h1 ← fieldNat 3 8 255 h1.toNat
    let h2 ← fieldNat 4 8 255 h2.toNat
    let h3 ← fieldNat 5 8 255 h3.toNat
    let h4 ← fieldNat 6 8 255 h4.toNat
    let h5 ← fieldNat 7 8 255 h5.toNat
    let h6 ← fieldNat 8 8 255 h6.toNat
    let h7 ← fieldNat 9 8 255 h7.toNat
    let tImp ← fieldNat 10 1 8 tImp.toNat
    let gain ← fieldNat 11 0 255 gain.toNat
    let margin ← fieldNat 12 0 32 margin.toNat
    let tConf ← fieldNat 13 1 60 tConf.toNat
    let doorGrace ← fieldNat 14 0 10 grace.toNat
    let prealarmLevel ← fieldFin 15 8 pre.toNat
    let alarmLevel ← fieldFin 16 8 alarm.toNat
    let supervision ← fieldFin 17 16 k.toNat
    let healthRule ← fieldCode 18 (HealthRule.ofCode rule)
    let headThreshold ← fieldNat 19 8 255 threshold.toNat
    return {
      hallId := hallId
      hazard := ⟨[h0, h1, h2, h3, h4, h5, h6, h7], rfl⟩
      tImp := tImp
      gain := gain
      margin := margin
      tConf := tConf
      doorGrace := doorGrace
      prealarmLevel := prealarmLevel
      alarmLevel := alarmLevel
      supervision := supervision
      healthRule := healthRule
      headThreshold := headThreshold }
  | _ => .error 0

/-- A node record (R2). With defined at no the other fields are not checked (R11), as in the four readers after it. -/
def readNode (bs : List Byte) : Except Nat (Option NodeRec) :=
  match bs with
  | [defined, zone, weight] => do
    if ← fieldBool 1 defined then
      let zone ← fieldFin 2 48 zone.toNat
      let weight ← fieldFin 3 16 weight.toNat
      return some { zone := zone, weight := weight }
    else
      return none
  | _ => .error 0

/-- A segment record (R3). -/
def readSegment (bs : List Byte) : Except Nat (Option SegRec) :=
  match bs with
  | [defined, endA, endB, lenHi, lenLo, width, rule, zone] => do
    if ← fieldBool 1 defined then
      let endA ← fieldFin 2 256 endA.toNat
      let endB ← fieldFin 3 256 endB.toNat
      let length ← fieldNat 4 1 4095 (read16 lenHi lenLo)
      let width ← fieldFin 5 4 width.toNat
      let rule ← fieldCode 6 (DirRule.ofCode rule)
      let zone ← fieldFin 7 48 zone.toNat
      return some { endA := endA, endB := endB, length := length, width := width, rule := rule, zone := zone }
    else
      return none
  | _ => .error 0

/-- An exit record (R4). -/
def readExit (bs : List Byte) : Except Nat (Option ExitCfg) :=
  match bs with
  | [defined, node, kind, line, capacity, biasHi, biasLo, passage] => do
    if ← fieldBool 1 defined then
      let node ← fieldFin 2 256 node.toNat
      let kind ← fieldCode 3 (ExitKind.ofCode kind)
      let doorLine ← fieldOpt 4 32 line
      let capacity ← fieldNat 5 1 255 capacity.toNat
      let bias ← fieldNat 6 0 65535 (read16 biasHi biasLo)
      let passage ← fieldOpt 7 8 passage
      return some {
        node := node
        kind := kind
        doorLine := doorLine
        capacity := capacity
        bias := bias
        passage := passage }
    else
      return none
  | _ => .error 0

/-- The pairs of a face map; each is one field (R204). -/
def readPairs (position : Nat) : List Byte → Except Nat (List (SegIdx × Dir))
  | [] => .ok []
  | segHi :: segLo :: dir :: rest => do
    let segment ← fieldFin position 768 (read16 segHi segLo)
    let direction ← fieldFin position 8 dir.toNat
    let pairs ← readPairs (position + 1) rest
    return (segment, direction) :: pairs
  | _ => .error position

/-- A sign record (R5). The face map of a defined sign holds 1 to 6 pairs (R11). -/
def readSign (bs : List Byte) : Except Nat (Option SignCfg) :=
  match bs with
  | defined :: trunk :: address :: node :: role :: enabled :: aspect :: count :: pairs => do
    if ← fieldBool 1 defined then
      let trunk ← fieldFin 2 2 trunk.toNat
      let address ← fieldNat 3 1 96 address.toNat
      let node ← fieldFin 4 256 node.toNat
      let role ← fieldCode 5 (SignRole.ofCode role)
      let enabled ← fieldBool 6 enabled
      let defaultAspect ← fieldCode 7 (Aspect.ofCode aspect)
      let _ ← fieldNat 8 1 6 count.toNat
      let faceMap ← readPairs 9 pairs
      return some {
        trunk := trunk
        address := address
        node := node
        role := role
        enabled := enabled
        defaultAspect := defaultAspect
        faceMap := faceMap }
    else
      return none
  | _ => .error 0

/-- A passage record (R6). -/
def readPassage (bs : List Byte) : Except Nat (Option PassageCfg) :=
  match bs with
  | [present, neighbour, exit] => do
    if ← fieldBool 1 present then
      let _ ← fieldNat 2 1 15 neighbour.toNat
      let neighbour ← fieldFin 2 16 neighbour.toNat
      let exit ← fieldFin 3 24 exit.toNat
      return some { neighbour := neighbour, exit := exit }
    else
      return none
  | _ => .error 0

/-- A band level, 1–7 (R7). -/
def fieldBandLevel (position : Nat) (b : Byte) : Except Nat Level := do
  let _ ← fieldNat position 1 7 b.toNat
  fieldFin position 8 b.toNat

/-- A beam channel configuration (R7), checked and stored whole, enabled or not (R11). -/
def readBeam (bs : List Byte) : Except Nat BeamCfg :=
  match bs with
  | [enabled, zone, offHi, offLo, refHi, refLo, o1, o2, o3, l1, l2, l3, rb, holdHi, holdLo] => do
    let enabled ← fieldBool 1 enabled
    let zone ← fieldFin 2 48 zone.toNat
    let offset ← fieldNat 3 0 4095 (read16 offHi offLo)
    let reference ← fieldNat 4 1 4095 (read16 refHi refLo)
    let o1 ← fieldNat 5 1 255 o1.toNat
    let o2 ← fieldNat 6 1 255 o2.toNat
    let o3 ← fieldNat 7 1 255 o3.toNat
    let l1 ← fieldBandLevel 8 l1
    let l2 ← fieldBandLevel 9 l2
    let l3 ← fieldBandLevel 10 l3
    let rb ← fieldNat 11 0 64 rb.toNat
    let decayHold ← fieldNat 12 5 120 (read16 holdHi holdLo)
    return {
      enabled := enabled
      zone := zone
      offset := offset
      reference := reference
      o1 := o1
      o2 := o2
      o3 := o3
      l1 := l1
      l2 := l2
      l3 := l3
      rb := rb
      decayHold := decayHold }
  | _ => .error 0

/-- A discrete line configuration (R8). -/
def readLine (bs : List Byte) : Except Nat LineMode :=
  match bs with
  | [mode, exit] => fieldCode 1 (LineMode.ofBytes mode exit)
  | _ => .error 0

/-- An item from its reference and the bytes of its fields, or the position of the first field out of range (R11). -/
def readItem (ref : ItemRef) (fields : List Byte) : Except Nat Item :=
  match ref with
  | .params => (readParams fields).map Item.params
  | .node i => (readNode fields).map (Item.node i)
  | .segment i => (readSegment fields).map (Item.segment i)
  | .exit i => (readExit fields).map (Item.exit i)
  | .sign i => (readSign fields).map (Item.sign i)
  | .passage i => (readPassage fields).map (Item.passage i)
  | .beam i => (readBeam fields).map (Item.beam i)
  | .line i => (readLine fields).map (Item.line i)

/-! ## The stored image (R193) -/

/-- Every item of a bank, in the order of the image: the parameters, then the tables in index order. -/
def imageItems : List ItemRef :=
  .params :: (List.finRange 256).map ItemRef.node ++ (List.finRange 768).map ItemRef.segment
    ++ (List.finRange 24).map ItemRef.exit ++ (List.finRange 192).map ItemRef.sign
    ++ (List.finRange 8).map ItemRef.passage ++ (List.finRange 8).map ItemRef.beam
    ++ (List.finRange 32).map ItemRef.line

/-- The layout part of an image (R193). -/
def Layout.bytes (a : Layout) : List Byte := imageItems.flatMap a.fields

/-- An image: the layout part and its CRC-16, most significant byte first (R193). -/
def Layout.imageBytes (a : Layout) : List Byte := a.bytes ++ word16 (crc16 a.bytes).toNat

/-- The layout part of an image's bytes: all but the last two. -/
def layoutPart (bs : List Byte) : List Byte := bs.take (bs.length - 2)

/-- The CRC formed over the layout part equals the CRC the bytes hold (R193). -/
def crcValid (bs : List Byte) : Bool :=
  2 ≤ bs.length && bs.drop (bs.length - 2) = word16 (crc16 (layoutPart bs)).toNat

/-- An image is valid (R193); an erased one, or one whose write was cut off, is not. -/
def Image.valid : Image → Bool
  | .erased => false
  | .written bs => crcValid bs

/-- Items read one after another into a bank. -/
def readItems (a : Layout) : List ItemRef → List Byte → Option (Layout × List Byte)
  | [], bs => some (a, bs)
  | r :: rest, bs =>
    let size := r.size bs
    if bs.length < size then none
    else
      match readItem r (bs.take size) with
      | .error _ => none
      | .ok item => readItems (a.put item) rest (bs.drop size)

/-- The layout a layout part holds, when it is one. -/
def readLayoutPart (bs : List Byte) : Option Layout :=
  match readItems Layout.empty imageItems bs with
  | some (a, []) => some a
  | _ => none

/-- The layout of a valid image. -/
def Image.layout : Image → Option Layout
  | .erased => none
  | .written bs => if crcValid bs then readLayoutPart (layoutPart bs) else none

end Machine
end Sys2Proof
end

