-- ==== Sys2Proof/Machine/LayoutChecks.lean ====
section
/-!
DEFINITION. The twelve commit checks of a layout, in the order of R15, each answering the lowest index that fails it (R16 to
R18).
-/

namespace Sys2Proof
namespace Machine

/-- A segment is incident to a node: the node is its end A or its end B (R3). -/
def SegRec.incident (g : SegRec) (n : NodeIdx) : Bool := g.endA = n || g.endB = n

/-- The lowest index of a list of records of which something is true. -/
def firstIndex {α : Type} {n : Nat} (l : List (Fin n × α)) (p : Fin n × α → Bool) : Option Nat :=
  (l.find? p).map fun e => e.1.val

/-- SEG_ENDS (R16). -/
def Layout.segEnds (a : Layout) : Option Nat :=
  firstIndex a.segments.defined fun e =>
    e.2.endA = e.2.endB || !a.nodes.has e.2.endA || !a.nodes.has e.2.endB

/-- DEGREE (R16): a node with more than 6 incident segments. -/
def Layout.degree (a : Layout) : Option Nat :=
  firstIndex a.nodes.defined fun n =>
    6 < (a.segments.defined.filter fun e => e.2.incident n.1).length

/-- EXIT_NODE (R16). -/
def Layout.exitNode (a : Layout) : Option Nat :=
  firstIndex a.exits.defined fun e =>
    !a.nodes.has e.2.node || a.exits.defined.any fun f => f.1 < e.1 && f.2.node = e.2.node

/-- EXIT_KIND (R16). -/
def Layout.exitKind (a : Layout) : Option Nat :=
  firstIndex a.exits.defined fun e =>
    match e.2.kind with
    | .door => e.2.passage.isSome
    | .passage =>
      e.2.doorLine.isSome ||
        match e.2.passage with
        | none => true
        | some p => !a.passages.has p

/-- NO_EXIT (R16): the index field reads 0. -/
def Layout.noExit (a : Layout) : Option Nat :=
  if a.exits.defined.isEmpty then some 0 else none

/-- SIGN_ADDR (R17). -/
def Layout.signAddr (a : Layout) : Option Nat :=
  firstIndex a.signs.defined fun e =>
    a.signs.defined.any fun f =>
      f.1 < e.1 && f.2.trunk = e.2.trunk && f.2.address = e.2.address

/-- SIGN_ROLE (R17). -/
def Layout.signRole (a : Layout) : Option Nat :=
  firstIndex a.signs.defined fun e =>
    e.2.role = .door && !(a.exits.defined.any fun x => x.2.node = e.2.node)

/-- FACE_MAP (R17). -/
def Layout.faceMapCheck (a : Layout) : Option Nat :=
  firstIndex a.signs.defined fun e =>
    let named := e.2.faceMap.map Prod.fst
    (named.any fun s =>
        match a.segments.get s with
        | none => true
        | some g => !g.incident e.2.node)
      || !decide named.Nodup
      || a.segments.defined.any fun s => s.2.incident e.2.node && !named.contains s.1

/-- HAZ_TABLE (R18): the lowest entry of H, 1–7, that is lower than the one before it. -/
def Layout.hazTable (a : Layout) : Option Nat :=
  ((List.finRange 7).find? fun i => a.params.hazard.get i.succ < a.params.hazard.get i.castSucc).map
    fun i => i.val + 1

/-- BEAM_BANDS (R18). -/
def Layout.beamBands (a : Layout) : Option Nat :=
  firstIndex a.beams.entries fun e =>
    e.2.enabled && !(e.2.o1 < e.2.o2 && e.2.o2 < e.2.o3 && e.2.l1 ≤ e.2.l2 && e.2.l2 ≤ e.2.l3)

/-- PASSAGE (R18): exactly one defined PASSAGE exit names the record, it is the one the record names, and the neighbour is
another hall. -/
def Layout.passageCheck (a : Layout) : Option Nat :=
  firstIndex a.passages.defined fun r =>
    let users := a.exits.defined.filter fun e => e.2.kind = .passage && e.2.passage = some r.1
    users.length ≠ 1 || !(users.any fun e => e.1 = r.2.exit) || r.2.neighbour = a.params.hallId

/-- LINE_USE (R18). -/
def Layout.lineUse (a : Layout) : Option Nat :=
  firstIndex a.lines.entries fun l =>
    let users := (a.exits.defined.filter fun e => e.2.doorLine = some l.1).length
    2 ≤ users || (users = 1 &&
      match l.2 with
      | .output _ => true
      | .inputPlain => false
      | .inputDoor => false)

/-- The checks by their order number (R15). -/
def Layout.checks (a : Layout) : List (Nat × Option Nat) :=
  [(1, a.segEnds), (2, a.degree), (3, a.exitNode), (4, a.exitKind), (5, a.noExit), (6, a.signAddr),
    (7, a.signRole), (8, a.faceMapCheck), (9, a.hazTable), (10, a.beamBands), (11, a.passageCheck),
    (12, a.lineUse)]

/-- The first check that fails, by its order number, with the index it reports (R15). -/
def Layout.firstFailure (a : Layout) : Option (Nat × Nat) :=
  a.checks.findSome? fun c => c.2.map fun i => (c.1, i)

/-- No node, segment, exit or sign is defined in the bank (R1). -/
def Layout.isEmpty (a : Layout) : Bool :=
  a.nodes.defined.isEmpty && a.segments.defined.isEmpty && a.exits.defined.isEmpty && a.signs.defined.isEmpty

/-- What a load makes of an image (R198): its layout, when the image is valid and the layout passes every check. -/
def Image.load (m : Image) : Option Layout :=
  match m.layout with
  | none => none
  | some a =>
    match a.firstFailure with
    | none => some a
    | some _ => none

end Machine
end Sys2Proof
end

