-- ==== Sys2Proof/Machine/AdoptOps.lean ====
section
/-!
DEFINITION. What a new ACTIVE does to the blocks: the comparison of the layout before with the layout after at a commit and at
REINIT (R19 to R21, R39, R55, R72, R140, R156, R158, R176), and the first load after a cold reset (R198).
-/

namespace Sys2Proof
namespace Machine

/-! ## Block by block -/

/-- A channel enabled by the new layout starts WARMING, one disabled by it becomes DISABLED, any other is kept (R55). -/
def beamAdopt (old : Layout) (ch : BeamIdx) : Emit := fun s =>
  let b := s.beams.get ch
  match (old.beams.get ch).enabled, (s.active.beams.get ch).enabled with
  | false, true =>
    ({ s with beams := s.beams.set ch { BeamRec.cold with state := .warming, warmStart := some s.port.clock } },
      [s.beamNotice ch b.state .warming])
  | true, false =>
    ({ s with beams := s.beams.set ch BeamRec.cold }, [s.beamNotice ch b.state .disabled])
  | _, _ => (s, [])

/-- A zone in PREALARM or ALARM takes the new map value, its beam level is gathered anew and its effective level formed
(R21, R27, R39). -/
def zoneAdopt (z : ZoneIdx) : Emit := fun s =>
  let r := s.zones.get z
  let panel :=
    match r.panelState with
    | .prealarm => s.active.params.prealarmLevel
    | .alarm => s.active.params.alarmLevel
    | .normal => r.panelLevel
    | .fault => r.panelLevel
    | .isolated => r.panelLevel
  formZone z { r with panelLevel := panel, beamLevel := s.beamLevel z } s

/-- A passage takes its reset values when the hall id changed, or when its record changed in presence, neighbour or exit
(R156, R158); going from HEARD to STALE it posts PASSAGE_STATE. -/
def passageAdopt (old : Layout) (p : PassageIdx) : Emit := fun s =>
  let r := s.boundary.passages.get p
  if old.params.hallId = s.active.params.hallId && old.passages.get p = s.active.passages.get p then (s, [])
  else
    (s.setPassage p PassageRec.cold,
      match r.state with
      | .heard => [s.passageNotice p .heard .stale]
      | .stale => [])

/-- The pending advert is discarded and owed is cleared; an advert in flight completes (R21, R156, R158). -/
def State.dropAdvert (s : State) : State :=
  s.setBoundary { s.boundary with waiting := none, owed := false }

/-- A line's record under its new mode (R63, R67): a line that becomes an input takes its pin value as its debounced value,
one that stays an input keeps value and debounce. -/
def adoptLine (mode : LineMode) (pin : Bool) (r : LineRec) : LineRec :=
  match mode, r with
  | .output _, .output d => .output d
  | .output _, .input _ _ => .output false
  | .inputPlain, .input v t => .input v t
  | .inputDoor, .input v t => .input v t
  | .inputPlain, .output _ => .input pin none
  | .inputDoor, .output _ => .input pin none

/-- Every line takes its mode from ACTIVE. -/
def State.adoptLines (s : State) : State :=
  { s with exits := { s.exits with
      lines := Table.ofFn fun i => adoptLine (s.active.lines.get i) (s.exits.pins.get i) (s.exits.lines.get i) } }

/-- A running grace expires at once when the door grace of the new ACTIVE has already passed (R64). -/
def State.adoptGrace (s : State) : State :=
  match s.exits.grace with
  | .running t =>
    if s.passed t (s.active.params.doorGrace * Config.second) then
      { s with exits := { s.exits with grace := .elapsed } }
    else s
  | .idle => s
  | .elapsed => s

/-- The reasons of a defined exit derived anew against ACTIVE, with its CONSOLE reason given (R21, R61, R62, R65). -/
def State.deriveReasons (s : State) (e : ExitIdx) (console : Bool) : ReasonSet where
  console := console
  door := s.doorHolds e
  hazard := s.hazardHolds e
  stale := s.staleHolds e
  noLink := s.noLinkHolds e

/-- An exit's runtime record is replaced. -/
def State.setExit (s : State) (e : ExitIdx) (x : ExitRec) : State :=
  { s with exits := { s.exits with exits := s.exits.exits.set e x } }

/-- An exit under the new ACTIVE (R21, R57, R72): defined both before and after it keeps CONSOLE, newly defined it starts
without, no longer defined it loses all reasons. A changed reason set or defined state posts EXIT_STATE. -/
def exitAdopt (old : Layout) (e : ExitIdx) : Emit := fun s =>
  let held := s.exits.exits.get e
  if s.active.exits.has e then
    let x := s.exitRecord e (s.deriveReasons e (old.exits.has e && held.reasons.console))
    if x.reasons = held.reasons && old.exits.has e then (s.setExit e x, [])
    else ((s.setExit e x).setPending, [s.exitNotice e x])
  else if old.exits.has e then
    ((s.setExit e ExitRec.undefined).setPending, [s.exitNotice e ExitRec.undefined])
  else (s, [])

/-- The state of a kept head when the threshold changed: ONLINE at or above the new one becomes DEGRADED (R20). -/
def thresholdState (old new : Nat) (h : HeadRec) : HeadState :=
  match h.state with
  | .online => if old ≠ new && new ≤ h.errors then .degraded else .online
  | .absent => .absent
  | .degraded => .degraded
  | .lost => .lost

/-- The head of a sign index under the new ACTIVE (the table of R20). -/
def headUnder (old new : Option SignCfg) (oldThreshold newThreshold : Nat) (h : HeadRec) : HeadRec :=
  match old, new with
  | none, none => h
  | none, some _ => { HeadRec.cold with defaultPending := true }
  | some _, none => HeadRec.cold
  | some o, some n =>
    if o.trunk = n.trunk && o.address = n.address then
      { h with
        state := thresholdState oldThreshold newThreshold h
        defaultPending := h.defaultPending || o.defaultAspect ≠ n.defaultAspect }
    else { HeadRec.cold with defaultPending := true }

/-- The head of a sign index is compared and acted on (R20, R140); a changed state posts SIGN_STATE. -/
def headAdopt (old : Layout) (i : SignIdx) : Emit := fun s =>
  let h := s.signLine.heads.get i
  let h' := headUnder (old.signs.get i) (s.active.signs.get i) old.params.headThreshold
    s.active.params.headThreshold h
  (s.setHead i h',
    if h'.state = h.state then [] else [s.notice .signState (some (byte i.val)) [h.state.code, h'.state.code]])

/-- The reply of an exchange in flight is to be discarded once its sign is no longer at that trunk and address (R20). -/
def Layout.markExchange (a : Layout) (t : TrunkIdx) (x : Exchange) : Exchange :=
  match a.signs.get x.sign with
  | none => { x with discard := true }
  | some c => if c.trunk = t && c.address = x.address then x else { x with discard := true }

/-- The exchanges in flight are marked, and the entries of signs no longer defined leave the change queue (R20, R131). The entry of a sign
given another trunk or address stays at its place, as R131 has it, though the text behind R127 says that it leaves: DEDUCED (log
entry 35). -/
def State.adoptTrunks (s : State) : State :=
  { s with signLine := { s.signLine with
      trunks := Table.ofFn fun t =>
        let r := s.signLine.trunks.get t
        { r with exchange := r.exchange.map (s.active.markExchange t) }
      queue := s.signLine.queue.filter s.active.signs.has } }

/-- The Aspect Unit at a commit (R19, R117): every candidate is cleared, and a sign newly defined or no longer defined shows
DARK. -/
def State.adoptSigns (s : State) (old : Layout) : State :=
  { s with aspect := { s.aspect with
      signs := Table.ofFn fun i =>
        if old.signs.has i && s.active.signs.has i then { s.aspect.signs.get i with candidate := none }
        else SignRec.dark } }

/-- The channels under ACTIVE, in channel order (R55). -/
def adoptBeams (old : Layout) : Emit := Emit.each (List.finRange 8) (beamAdopt old)

/-- The zones under ACTIVE, in zone order (R21, R39). -/
def adoptZones : Emit := Emit.each (List.finRange 48) zoneAdopt

/-- The passages under ACTIVE, in passage order (R156, R158). -/
def adoptPassages (old : Layout) : Emit := Emit.each (List.finRange 8) (passageAdopt old)

/-- The exits under ACTIVE, in exit order (R21, R72). -/
def adoptExits (old : Layout) : Emit := Emit.each (List.finRange 24) (exitAdopt old)

/-- The heads under ACTIVE, in sign order (R20, R140). -/
def adoptHeads (old : Layout) : Emit := Emit.each (List.finRange 192) (headAdopt old)

/-- Every block but the Aspect Unit applies ACTIVE against the layout before. The notices come block by block: zones, beams,
exits, signs, passages, link. -/
def adopt (old : Layout) (s : State) : State × List (List Notice) :=
  let b := adoptBeams old s
  let z := adoptZones b.1
  let p := adoptPassages old z.1
  let k := deriveLink p.1
  let x := adoptExits old k.1.adoptLines.adoptGrace
  let h := adoptHeads old x.1
  (h.1.adoptTrunks.dropAdvert, [z.2, b.2, x.2, h.2, p.2, k.2])

/-! ## Commit (1.4) -/

/-- Lists of notices merged into one: each list keeps its order, and `turn` draws which list gives the next notice
(R19; log entry 1). `fuel` bounds the number of draws. -/
def interleave (turn : Nat → Nat) : Nat → Nat → List (List Notice) → List Notice
  | 0, _, qs => qs.flatten
  | fuel + 1, k, qs =>
    match qs.filter fun q => !q.isEmpty with
    | [] => []
    | [q] => q
    | q :: r :: rest =>
      let all := q :: r :: rest
      let i := turn k % all.length
      match all.getD i [] with
      | [] => all.flatten
      | n :: more => n :: interleave turn fuel (k + 1) (all.set i more)

/-- The abandoning of a run and the setting of change pending (R19, R78). -/
def State.restartEngine (s : State) : State :=
  { s with engine := { s.engine.abandon with changePending := true } }

/-- ACTIVE replaced in one event. -/
def State.setActive (s : State) (a : Layout) : State :=
  { s with layout := { s.layout with active := a } }

/-- An accepted commit (R19 to R21): ACTIVE becomes a copy of STAGING, the run is abandoned, the candidates cleared,
LAYOUT_COMMITTED posted ahead of the blocks' own notices, and every block adopts the new layout. -/
def State.commit (s : State) : State :=
  let old := s.active
  let t := ((s.setActive s.layout.staging).restartEngine).adoptSigns old
  let r := adopt old t
  let count := r.2.flatten.length
  let ns := s.notice .layoutCommitted none [] :: interleave (fun k => Config.commitTurn (s.freeCount + k)) count 0 r.2
  (({ r.1 with freeCount := r.1.freeCount + count }.drive fun _ => true).kickAll).postAll ns

/-! ## REINIT (11.4) -/

/-- The banks loaded from the image (R22, R198): both copies of its layout, or both empty; the store state by the same
test. -/
def State.loadBanks (s : State) : State :=
  let a := s.store.image.load.getD Layout.empty
  { s with
    layout := { active := a, staging := a }
    store := { s.store with state := if s.store.image.valid then .idle else .invalid } }

/-- The NO_LAYOUT notice of a load that leaves the banks empty (R22, R198). -/
def State.noLayoutNotice (s : State) : List Notice :=
  match s.store.image.load with
  | some _ => []
  | none => [s.notice .noLayout none []]

/-- The Aspect Unit at REINIT (R119): no field is published, every sign shows DARK, and every defined sign is offered, in
index order. -/
def State.darken (s : State) : State :=
  (signsWhere s.active.signs.has).foldl State.offer
    { s with aspect := { s.aspect with published := none, signs := Table.replicate 192 SignRec.dark } }

/-- The REINIT event, less its response (R199). Its notices join the queue in the order R199 lists. -/
def State.restart (s : State) : State :=
  let old := s.active
  let r := adopt old s.loadBanks.restartEngine
  ((r.1.darken.drive fun _ => true).kickAll).postAll
    (s.notice .reinit none [] :: s.noLayoutNotice ++ r.2.flatten)

/-! ## The load event (11.3) -/

/-- A channel as the load event leaves it (R54). -/
def State.loadBeam (s : State) (ch : BeamIdx) : BeamRec :=
  if (s.active.beams.get ch).enabled then
    { BeamRec.cold with state := .warming, warmStart := some s.port.clock }
  else BeamRec.cold

/-- A line as the load event leaves it, before the output lines are driven (R71). -/
def State.loadLine (s : State) (i : LineIdx) : LineRec :=
  match s.active.lines.get i with
  | .output _ => .output false
  | .inputPlain => .input (s.exits.pins.get i) none
  | .inputDoor => .input (s.exits.pins.get i) none

/-- An exit as the load event leaves it (R71); no EXIT_STATE is posted. -/
def State.loadExit (s : State) (e : ExitIdx) : ExitRec :=
  if s.active.exits.has e then s.exitRecord e (s.deriveReasons e false) else ExitRec.undefined

/-- A head as the load event leaves it (R139). -/
def State.loadHead (s : State) (i : SignIdx) : HeadRec :=
  { s.signLine.heads.get i with defaultPending := s.active.signs.has i }

/-- A supervision timer started with the code of ACTIVE (R165). -/
def State.supervisionFrom (s : State) : Ticks :=
  s.port.clock + BitVec.ofNat 32 (Config.supervisionUnit * (s.active.params.supervision.val + 1))

/-- Every channel as the load event leaves it (R54). -/
def State.loadBeams (s : State) : State := { s with beams := Table.ofFn s.loadBeam }

/-- Every line takes its mode from ACTIVE (R71). -/
def State.loadLines (s : State) : State := { s with exits := { s.exits with lines := Table.ofFn s.loadLine } }

/-- Every exit derives its reasons (R71). -/
def State.loadExits (s : State) : State := { s with exits := { s.exits with exits := Table.ofFn s.loadExit } }

/-- Every head of a defined sign is made default-pending (R139). -/
def State.loadHeads (s : State) : State := { s with signLine := { s.signLine with heads := Table.ofFn s.loadHead } }

/-- Both supervision timers start (R198). -/
def State.startSupervision (s : State) : State :=
  { s with alarm := { s.alarm with
      lineA := { s.alarm.lineA with expiry := some s.supervisionFrom }
      lineB := { s.alarm.lineB with expiry := some s.supervisionFrom } } }

/-- READY is asserted unless a lost transfer is running (R191), and the load event has taken place. -/
def State.openPort (s : State) : State :=
  { s with port := { s.port with ready := !s.port.lost }, loaded := true }

/-- The load event, less NO_LAYOUT (R198): the banks are loaded and every block takes up ACTIVE. -/
def State.takeUp (s : State) : State :=
  (s.loadBanks.loadBeams.loadLines.loadExits.loadHeads.startSupervision.openPort.setPending.drive fun _ => true).kickAll

end Machine
end Sys2Proof
end

