-- ==== Sys2Proof/Machine/Panel.lean ====
section
/-!
DEFINITION. The meanings of the Alarm Line Interface's events: the receivers (R162 to R164), supervision (R165), the frame
handler (R168 to R173) and the transmitters (R173, R174).
-/

namespace Sys2Proof
namespace Machine

/-! ## Receivers and supervision -/

/-- ALARM_START_BYTE (R162, R175): in HUNT a start byte begins a frame; bytes before the load event are not taken. -/
def execAlarmStartByte (line : AlarmLine) (s : State) : Host.Outcome State Fault Refusal :=
  .next (
    let r := s.alarm.line line
    if s.loaded && r.receiver = .hunt then s.setLine line { r with receiver := .frame } else s)

/-- A void frame ends: the receiver returns to HUNT and the error is counted (R162, R163). -/
def AlarmLineRec.void (r : AlarmLineRec) : AlarmLineRec :=
  { r with receiver := .hunt, errors := bump r.errors }

/-- A good frame restarts the line's supervision timer, and the line is LIVE (R164, R165). The link state is derived anew when
the line state changed (R166). -/
def hearLine (line : AlarmLine) : Emit := fun s =>
  let r := s.alarm.line line
  let t := s.setLine line { r with receiver := .hunt, state := .live, expiry := some s.supervisionFrom }
  if r.state = .live then (t, []) else deriveLink t

/-- A good frame is offered to the intake (R164, R168). -/
def State.offerFrame (s : State) (f : IntakeFrame) : State :=
  if s.alarm.intake.length < Config.intakeCapacity then
    { s with alarm := { s.alarm with intake := s.alarm.intake ++ [f], handler := .taking } }
  else
    let r := s.alarm.line f.line
    s.setLine f.line { r with overruns := bump r.overruns }

/-- The end of a good frame (R164). -/
def takeGood (line : AlarmLine) (seq : Byte) (body : FrameBody) : Emit := fun s =>
  let r := hearLine line s
  (r.1.offerFrame { line := line, seq := seq, body := body }, r.2)

/-- ALARM_FRAME_END (R162 to R164): the bytes after the start byte are judged good or void. Bytes that do not end a frame
leave it going on. -/
def execAlarmFrameEnd (line : AlarmLine) (bytes : List AlarmByte) (s : State) :
    Host.Outcome State Fault Refusal :=
  .next (
    let r := s.alarm.line line
    if r.receiver = .frame then
      match readAlarm [] bytes with
      | none => s
      | some .void => s.setLine line r.void
      | some (.good seq body) => Emit.run (takeGood line seq body) s
    else s)

/-- ALARM_GAP_LIMIT (R162, R163): the frame is cut off and void. -/
def execAlarmGapLimit (line : AlarmLine) (s : State) : Host.Outcome State Fault Refusal :=
  .next (
    let r := s.alarm.line line
    if r.receiver = .frame then s.setLine line r.void else s)

/-- The supervision timer of a line has run (R165). -/
def State.supervisionOver (s : State) (line : AlarmLine) : Bool :=
  match (s.alarm.line line).expiry with
  | none => false
  | some t => s.reached t

/-- A line's supervision timer stops, and the line is SILENT (R165); the link state is derived anew when the line state changed
(R166). -/
def loseLine (line : AlarmLine) : Emit := fun s =>
  let r := s.alarm.line line
  let t := s.setLine line { r with state := .silent, expiry := none }
  if r.state = .silent then (t, []) else deriveLink t

/-- SUPERVISION_EXPIRY (R165). -/
def execSupervisionExpiry (line : AlarmLine) (s : State) : Host.Outcome State Fault Refusal :=
  .next (if s.supervisionOver line then Emit.run (loseLine line) s else s)

/-! ## The frame handler (9.3) -/

/-- The frame being taken (R168). -/
def State.taken (s : State) : Option IntakeFrame :=
  match s.alarm.handler with
  | .idle => none
  | .taking => s.alarm.intake.head?

/-- The frame taken leaves the intake; the handler goes on with the next, or is IDLE (R168). -/
def State.dropFrame (s : State) : State :=
  let rest := s.alarm.intake.drop 1
  { s with alarm := { s.alarm with
      intake := rest
      handler := if rest.isEmpty then .idle else .taking } }

/-- A frame is a duplicate: its sequence is the last accepted one (R169). -/
def State.isDuplicate (s : State) (seq : Byte) : Bool := s.alarm.lastSeq = some seq

/-- The last accepted sequence replaced (R169). -/
def State.accept (s : State) (seq : Byte) : State := { s with alarm := { s.alarm with lastSeq := some seq } }

/-- A zone takes a panel report (R24 to R26). -/
def takeReport (z : ZoneIdx) (st : PanelState) : Emit := fun s =>
  let r := s.zones.get z
  zoneEvent z { r with panelState := st, panelLevel := s.panelLevel r.panelLevel st } s

/-- ZONE_REPORT (R169, R170, R24): the completion of a ZONE_REPORT frame. -/
def execZoneReport (s : State) : Host.Outcome State Fault Refusal :=
  .next (
    match s.taken with
    | some { line := _, seq := seq, body := .zoneReport z st } =>
      if s.isDuplicate seq then s.dropFrame
      else (Emit.run (takeReport z st) (s.accept seq)).dropFrame
    | _ => s)

/-- The Door Grace on entry to EVACUATE (R64): ELAPSED at once with a door grace of 0, else RUNNING from now. -/
def startGrace : Emit := fun s =>
  if s.active.params.doorGrace = 0 then enterElapsed s
  else (s.setGrace (.running s.port.clock), [])

/-- The Door Grace on return to STANDBY (R66): IDLE, and DOOR is removed from every exit. -/
def endGrace : Emit := fun s =>
  Emit.each (List.finRange 24) (fun e t => setReasons e { (t.exits.exits.get e).reasons with door := false } t)
    (s.setGrace .idle)

/-- The Door Grace at a change of hall mode (R64, R66). -/
def moveGrace : HallMode → Emit
  | .evacuate => startGrace
  | .standby => endGrace

/-- The hall mode replaced (R171). -/
def State.setMode (s : State) (mode : HallMode) : State := { s with alarm := { s.alarm with mode := mode } }

/-- The hall mode changes (R171): HALL_MODE is posted ahead of the exits' notices, the Door Grace moves, the HALL_EVACUATE
outputs are driven and the signs re-coded. -/
def changeMode (mode : HallMode) : Emit := fun s =>
  let r := moveGrace mode (s.setMode mode)
  ((r.1.drive fun src => src = .hallEvacuate).recodeSigns mode,
    s.notice .hallMode none [s.alarm.mode.code, mode.code] :: r.2)

/-- HALL_MODE (R169, R171): the completion of a HALL_MODE frame. A trunk left idle starts what the re-coding gave it to send
(R120). -/
def execHallMode (s : State) : Host.Outcome State Fault Refusal :=
  .next (
    match s.taken with
    | some { line := _, seq := seq, body := .hallMode mode } =>
      if s.isDuplicate seq then s.dropFrame
      else if mode = s.alarm.mode then (s.accept seq).dropFrame
      else (Emit.run (changeMode mode) (s.accept seq)).kickAll.dropFrame
    | _ => s)

/-- SUPERVISE (R172): the completion of a SUPERVISE frame. -/
def execSupervise (s : State) : Host.Outcome State Fault Refusal :=
  .next (
    match s.taken with
    | some { line := _, seq := _, body := .supervise } => s.dropFrame
    | _ => s)

/-! ## Egress status (9.4) -/

/-- The number of signs defined in ACTIVE whose head is not ONLINE (R138). -/
def State.notOnline (s : State) : Nat :=
  (s.active.signs.defined.filter fun e => (s.signLine.heads.get e.1).state ≠ .online).length

/-- What EGRESS_STATUS carries of an exit (R174). -/
def State.egressExit (s : State) (e : ExitIdx) : EgressExit where
  usable := (s.exits.exits.get e).usable
  reasons := (s.exits.exits.get e).reasons
  inUse := s.exitInUse e

/-- An EGRESS_STATUS frame built now (R174). -/
def State.egressStatus (s : State) (seq : Byte) : EgressStatus where
  seq := seq
  mode := s.alarm.mode
  generation := s.aspect.lastGeneration
  noEgress := s.noEgressCount
  notOnline := s.notOnline
  exits := Table.ofFn s.egressExit

/-- A request's sequence reaches a line's transmitter (R173): an IDLE one builds and sends, a SENDING one takes it as its pending
request. -/
def State.request (s : State) (line : AlarmLine) (seq : Byte) : State :=
  let r := s.alarm.line line
  match r.transmitter with
  | none => s.setLine line { r with transmitter := some (s.egressStatus seq) }
  | some _ => s.setLine line { r with request := some seq }

/-- STATUS_REQUEST (R173): the completion of a STATUS_REQUEST frame. -/
def execStatusRequest (s : State) : Host.Outcome State Fault Refusal :=
  .next (
    match s.taken with
    | some { line := line, seq := seq, body := .statusRequest } => (s.request line seq).dropFrame
    | _ => s)

/-- EGRESS_STATUS_SENT (R173): a pending request is answered with a new frame, else the transmitter is IDLE. -/
def execEgressStatusSent (line : AlarmLine) (s : State) : Host.Outcome State Fault Refusal :=
  .next (
    let r := s.alarm.line line
    match r.transmitter, r.request with
    | none, _ => s
    | some _, none => s.setLine line { r with transmitter := none }
    | some _, some seq => s.setLine line { r with transmitter := some (s.egressStatus seq), request := none })

end Machine
end Sys2Proof
end

