-- ==== Sys2Proof/Machine/ConsoleOps.lean ====
section
/-!
DEFINITION. The operations of the Console Port (chapter 10): the completion of a request (R180) and the bodies of the
responses (R184, R185, R204, R205).
-/

namespace Sys2Proof
namespace Machine

/-! ## Requests and their completion (R179, R180) -/

/-- The port's state is replaced. -/
def State.setPort (s : State) (p : Port) : State := { s with port := p }

/-- A response is held: the port enters HELD, the request buffer is given up, and READY is asserted unless a lost transfer is
running (R180, R181). -/
def Port.hold (p : Port) (r : Response) : Port :=
  { p with state := .held, ready := !p.lost, buffer := [], response := some r }

/-- The completion's response. -/
def State.respond (s : State) (status : Status) (body : List Byte) : State :=
  s.setPort (s.port.hold { status := status, body := body })

/-- A request code names a request of the catalogue (R204). -/
def inCatalogue (code : Byte) : Bool := 1 ≤ code.toNat && code.toNat ≤ 16

/-- A request in TAKING is taken by the command of its code (R180). A code that names no request is answered UNKNOWN; a body of
the wrong length is refused with RANGE and `badLength`; otherwise the request acts. The command of another code, or a command
outside TAKING, is no event of the port and changes nothing (log entry 6). -/
def State.serve (s : State) (code : Byte) (lengthOk : List Byte → Bool) (badLength : List Byte)
    (act : List Byte → State) : State :=
  if s.port.state = .taking then
    match s.port.buffer with
    | _ :: c :: rest =>
      if !inCatalogue c then s.respond .unknown []
      else if c = code then
        if lengthOk rest.dropLast then act rest.dropLast else s.respond .range badLength
      else s
    | _ => s
  else s

/-- A body of exactly `n` bytes. -/
def bodyOf (n : Nat) (body : List Byte) : Bool := body.length = n

/-- The `i`th byte of a body as a number. -/
def arg (body : List Byte) (i : Nat) : Nat := (body.getD i 0).toNat

/-! ## Response bodies (R205) -/

/-- The Route Engine state code: IDLE 0, else the phase's (R205). -/
def Engine.code (g : Engine) : Byte :=
  match g.run with
  | none => 0
  | some r => r.phase.code

/-- READ_STATUS's 13 bytes, with the new snapshot (R184). -/
def State.statusBody (s : State) : List Byte :=
  [s.alarm.mode.code] ++ word16 s.aspect.lastGeneration.toNat
    ++ [boolByte s.aspect.published.isSome, s.alarm.link.code, s.store.state.code, byte s.port.notices.length,
      s.engine.code]
    ++ ticksBytes s.port.clock ++ [s.port.flags.code]

/-- FETCH_NOTICES's body: the count, the notices oldest first, the count left (R187, R204). -/
def noticesBody (taken : List Notice) (left : Nat) : List Byte :=
  byte taken.length :: taken.flatMap Notice.bytes ++ [byte left]

/-- A next segment as two bytes, FFFF when absent. -/
def segmentCode : Option SegIdx → List Byte
  | none => [0xFF, 0xFF]
  | some v => word16 v.val

/-- The six bytes of a node in READ_ROUTE (R116, R205). -/
def routeEntry (pub : Option Published) (n : Nat) : List Byte :=
  match pub with
  | none => word24 Config.inf ++ [0xFF, 0xFF, 0xFF]
  | some p =>
    if h : n < 256 then
      let f := p.field.nodes.get ⟨n, h⟩
      word24 f.cost ++ segmentCode f.next ++ [optByte f.route]
    else []

/-- READ_ROUTE's body (R116, R185). -/
def State.routeBody (s : State) (first count : Nat) : List Byte :=
  let time :=
    match s.aspect.published with
    | none => 0
    | some p => p.field.time
  word16 s.aspect.lastGeneration.toNat ++ ticksBytes time ++ [boolByte s.aspect.published.isSome]
    ++ (List.range count).flatMap fun k => routeEntry s.aspect.published (first + k)

/-- The exit byte: bit 7 usable, bit 6 defined, bits 4–0 reason set (R205). -/
def State.exitCode (s : State) (e : ExitIdx) : Byte :=
  let x := s.exits.exits.get e
  (if x.usable then 128 else 0) + (if s.active.exits.has e then 64 else 0) + x.reasons.code

/-- The loads and penalty READ_EXITS gives for an exit (R70): those of the published field, 0 while none is published, and 0 for an
exit that ACTIVE does not define, whatever the field of a layout before a commit holds for it. R70 names the loads of an undefined exit;
that its penalty reads 0 with them is DEDUCED (log entry 33). -/
def State.publishedExit (s : State) (e : ExitIdx) : ExitWork :=
  if s.active.exits.has e then
    match s.aspect.published with
    | none => ExitWork.zero
    | some p => p.field.exits.get e
  else ExitWork.zero

/-- The ten bytes of an exit in READ_EXITS (R70, R205). -/
def State.exitEntry (s : State) (e : ExitIdx) : List Byte :=
  let w := s.publishedExit e
  s.exitCode e :: word24 (s.exits.exits.get e).base ++ word16 w.pass1Load ++ word16 w.penalty ++ word16 w.finalLoad

/-- The nine bytes of a zone in READ_ZONES (R37, R205). -/
def ZoneRec.bytes (z : ZoneRec) : List Byte :=
  [z.panelState.code, byte z.panelLevel.val, byte z.consoleLevel.val, byte z.beamLevel.val, byte z.effective.val]
    ++ ticksBytes z.lastChange

/-- The thirteen bytes of a sign in READ_SIGNS (R116, R138, R205). -/
def State.signEntry (s : State) (i : SignIdx) : List Byte :=
  let r := s.aspect.signs.get i
  let h := s.signLine.heads.get i
  let lastSent :=
    match h.lastSent with
    | none => 0xFF
    | some a => a.code h.seq
  let status :=
    match h.status with
    | none => 0
    | some st => st.code + 8
  let time :=
    match h.status with
    | none => 0
    | some st => st.time
  [r.shown.code false] ++ segmentCode r.segment ++ [h.state.code, byte h.errors, byte h.misses,
    (if h.defaultPending then 2 else 0) + (if i ∈ s.signLine.queue then 1 else 0), lastSent, status]
    ++ ticksBytes time

/-- The three bytes of a discrete line in READ_LINES (R69, R205). -/
def State.lineEntry (s : State) (i : LineIdx) : List Byte :=
  (s.active.lines.get i).bytes ++
    match s.exits.lines.get i with
    | .input debounced _ => [boolByte debounced]
    | .output driven => [boolByte driven]

/-- The five bytes of an alarm line in READ_LINES (R205). -/
def AlarmLineRec.bytes (r : AlarmLineRec) : List Byte :=
  r.state.code :: word16 r.errors ++ word16 r.overruns

/-- A path list as three bytes: a length byte and the ids packed as in an advert entry (R205). -/
def pathBytes (path : Option (List HallId)) : List Byte :=
  let ids := path.getD []
  byte ids.length :: (packIds ids ++ [0, 0]).take 2

/-- The fourteen bytes of a passage in READ_LINES (R159, R205). Of a passage whose record is not present, the neighbour reads 0 and R_p
reads as the entry holds it, INF by R141: which fields R205's "0 where absent or unused" reaches is DEDUCED (log entry 27). -/
def State.passageEntry (s : State) (p : PassageIdx) : List Byte :=
  let r := s.boundary.passages.get p
  let neighbour :=
    match s.active.passages.get p with
    | none => 0
    | some c => byte c.neighbour.val
  [(if s.active.passages.has p then 128 else 0) + (if r.lastHeard.isSome then 64 else 0) + r.state.code, neighbour]
    ++ word24 r.remote ++ pathBytes r.path ++ ticksBytes (r.lastHeard.getD 0)
    ++ word16 (r.lastGeneration.getD 0).toNat

/-- READ_LINES's 222 bytes (R69, R159, R205). -/
def State.linesBody (s : State) : List Byte :=
  (List.finRange 32).flatMap s.lineEntry ++ s.alarm.lineA.bytes ++ s.alarm.lineB.bytes
    ++ s.signLine.trunks.toList.map (fun t => t.state.code)
    ++ (List.finRange 8).flatMap s.passageEntry ++ word16 s.boundary.errors

/-- The records of a table from `first`, `count` of them, each as bytes. -/
def rangeBytes (n : Nat) (first count : Nat) (f : Fin n → List Byte) : List Byte :=
  ((List.finRange n).filter fun i => first ≤ i.val && i.val < first + count).flatMap f

/-- What the part clocks out after a fetch marker, before idle bytes: the held response from its length to its check, or the
empty-response byte (R182, R204). -/
def Port.fetchOut (p : Port) : List Byte :=
  match p.response with
  | some r => r.bytes
  | none => [Config.emptyResponseByte]

/-- The byte the part clocks out in byte `k` of the clocks the port gets in its present state (R178, R181, R182, R204). In FETCHING, which
begins behind the fetch marker, that is what the fetch carries and idle bytes after it. Every other state has nothing to send and clocks
out the idle byte: while a first byte is awaited, during a request, in a lost transfer, and in the trailing clocks after a response,
whose last byte ended FETCHING. -/
def Port.clocksOut (p : Port) (k : Nat) : Byte :=
  match p.state with
  | .fetching => p.fetchOut.getD k Config.idleByte
  | .free => Config.idleByte
  | .receiving => Config.idleByte
  | .taking => Config.idleByte
  | .held => Config.idleByte

end Machine
end Sys2Proof
end

