-- ==== Sys2Proof/Machine/Reads.lean ====
section
/-!
DEFINITION. The meanings of the requests that read: READ_STATUS (R184), FETCH_NOTICES (R187), READ_ROUTE and READ_SIGNS (R185),
READ_EXITS (R70), READ_ZONES (R37), READ_LINES (R69) and READ_LAYOUT (R12).
-/

namespace Sys2Proof
namespace Machine

/-- A range of records lies in its table: the first index is in it, the count is from 1 to a most, and the range ends in it
(R37, R185). -/
def rangeOk (size most first count : Nat) : Bool :=
  first < size && 1 ≤ count && count ≤ most && first + count ≤ size

/-- READ_STATUS (R184): the snapshot becomes the set of flags that are set, and the summary is returned. -/
def execReadStatus (s : State) : Host.Outcome State Fault Refusal :=
  .next (s.serve 0x01 (bodyOf 0) [] fun _ =>
    (s.setPort { s.port with snapshot := s.port.flags }).respond .ok s.statusBody)

/-- The notices a fetch of `n` takes, with the snapshot's flags cleared and the snapshot emptied (R187). -/
def Port.fetch (p : Port) (n : Nat) : Port :=
  { p with notices := p.notices.drop n, flags := p.flags.diff p.snapshot, snapshot := Flags.none }

/-- FETCH_NOTICES (R187): up to `n` oldest notices are returned and removed. -/
def execFetchNotices (s : State) : Host.Outcome State Fault Refusal :=
  .next (s.serve 0x02 (bodyOf 1) [] fun body =>
    let n := arg body 0
    if 1 ≤ n ∧ n ≤ 8 then
      (s.setPort (s.port.fetch n)).respond .ok
        (noticesBody (s.port.notices.take n) (s.port.notices.length - n))
    else s.respond .range [])

/-- READ_ROUTE (R185, R116). -/
def execReadRoute (s : State) : Host.Outcome State Fault Refusal :=
  .next (s.serve 0x03 (bodyOf 2) [] fun body =>
    if rangeOk 256 32 (arg body 0) (arg body 1) then s.respond .ok (s.routeBody (arg body 0) (arg body 1))
    else s.respond .range [])

/-- READ_EXITS (R70). -/
def execReadExits (s : State) : Host.Outcome State Fault Refusal :=
  .next (s.serve 0x04 (bodyOf 0) [] fun _ => s.respond .ok ((List.finRange 24).flatMap s.exitEntry))

/-- READ_ZONES (R37). -/
def execReadZones (s : State) : Host.Outcome State Fault Refusal :=
  .next (s.serve 0x05 (bodyOf 2) [] fun body =>
    if rangeOk 48 24 (arg body 0) (arg body 1) then
      s.respond .ok (rangeBytes 48 (arg body 0) (arg body 1) fun z => (s.zones.get z).bytes)
    else s.respond .range [])

/-- READ_SIGNS (R185, R116, R138). -/
def execReadSigns (s : State) : Host.Outcome State Fault Refusal :=
  .next (s.serve 0x06 (bodyOf 2) [] fun body =>
    if rangeOk 192 16 (arg body 0) (arg body 1) then
      s.respond .ok (rangeBytes 192 (arg body 0) (arg body 1) s.signEntry)
    else s.respond .range [])

/-- READ_LINES (R69, R159). -/
def execReadLines (s : State) : Host.Outcome State Fault Refusal :=
  .next (s.serve 0x07 (bodyOf 0) [] fun _ => s.respond .ok s.linesBody)

/-- The bank a bank byte names: ACTIVE 0 and STAGING 1 (R204). -/
def State.bank (s : State) (b : Nat) : Option Layout :=
  match b with
  | 0 => some s.layout.active
  | 1 => some s.layout.staging
  | _ => none

/-- READ_LAYOUT (R12): the bank byte and the item reference come back before the item's fields. -/
def execReadLayout (s : State) : Host.Outcome State Fault Refusal :=
  .next (s.serve 0x08 (bodyOf 4) [] fun body =>
    match s.bank (arg body 0), ItemRef.read (arg body 1) (arg body 2 * 256 + arg body 3) with
    | some a, some ref => s.respond .ok (byte (arg body 0) :: ref.bytes ++ a.fields ref)
    | _, _ => s.respond .range [])

end Machine
end Sys2Proof
end

