-- ==== Sys2Proof/Machine/Reset.lean ====
section
/-!
DEFINITION. The meanings of the reset and clock commands: COLD_RESET (R22, R197), LOAD_EVENT (R198), HALL_CLOCK_TICK and
CLOCK_WRAP (R190).
-/

namespace Sys2Proof
namespace Machine

/-- What the memory holds after a cold reset: a store cut off in ERASING or WRITING leaves an image that is not valid, any
other reset leaves the image as it is (R197). -/
def Store.imageAfterReset (r : Store) : Image :=
  match r.state with
  | .erasing => .erased
  | .writing => .erased
  | .idle => r.image
  | .verifying => r.image
  | .invalid => r.image

/-- COLD_RESET (R22, R191, R194, R197 and each block's reset rule): every block takes its cold-reset values. -/
def execColdReset (s : State) : Host.Outcome State Fault Refusal :=
  .next (State.cold s.store.imageAfterReset s.exits.pins s.freeCount s.pending)

/-- LOAD_EVENT (R198): the banks are loaded and every block takes up ACTIVE; NO_LAYOUT is the one notice. It follows a cold
reset once (log entry 6). -/
def execLoadEvent (s : State) : Host.Outcome State Fault Refusal :=
  .next (if s.loaded then s else s.takeUp.postAll s.noLayoutNotice)

/-- A notice with its time at 0 (R190); kind, subject and value stay. -/
def Notice.atZero (n : Notice) : Notice := { n with time := 0 }

/-- CLOCK_WRAP's notice (R190). -/
def Notice.clockWrap : Notice where
  kind := .clockWrap
  time := 0
  subject := none
  value := []

/-- The clock advances by one; at the wrap to 0 the times of the queued notices become 0 and CLOCK_WRAP is posted with
time 0 (R190). -/
def Port.tick (p : Port) : Port :=
  let q := { p with clock := p.clock + 1 }
  if q.clock = 0 then
    Port.post { q with notices := q.notices.map Notice.atZero } Notice.clockWrap
  else q

/-- HALL_CLOCK_TICK (R190). The tick that wraps the count is also CLOCK_WRAP's (log entry 7). -/
def execHallClockTick (s : State) : Host.Outcome State Fault Refusal :=
  .next { s with port := s.port.tick }

/-- CLOCK_WRAP (R190): the tick that takes the count from 4,294,967,295 to 0. At any other count it is no event of the clock
(log entries 6 and 7). -/
def execClockWrap (s : State) : Host.Outcome State Fault Refusal :=
  .next (if s.port.clock + 1 = 0 then { s with port := s.port.tick } else s)

end Machine
end Sys2Proof
end

