-- ==== Sys2Proof/Machine/Route.lean ====
section
/-!
DEFINITION. The meanings of the Route Engine's events: the starts of a run (R75), the completions of its phases (R79) and the
handover with the adoption it brings (R97, R98, R102).
-/

namespace Sys2Proof
namespace Machine

/-- The engine's state replaced. -/
def State.setEngine (s : State) (g : Engine) : State := { s with engine := g }

/-- The phase of the run in flight (R73). -/
def Engine.phase (g : Engine) : Option Phase := g.run.map Run.phase

/-- RUN_START (R75): in IDLE with change pending set, a run starts. -/
def execRunStart (s : State) : Host.Outcome State Fault Refusal :=
  .next (if s.engine.run.isNone && s.engine.changePending then s.startRun else s)

/-- The refresh interval has expired: 1 s has passed since the last run start (R75). -/
def State.refreshExpired (s : State) : Bool :=
  match s.engine.lastStart with
  | none => false
  | some t => s.passed t Config.refreshInterval

/-- REFRESH_INTERVAL_EXPIRY (R75, R77): in IDLE a run starts, while RUNNING refresh due is set. -/
def execRefreshIntervalExpiry (s : State) : Host.Outcome State Fault Refusal :=
  .next (
    if s.refreshExpired then
      match s.engine.run with
      | none => s.startRun
      | some _ => s.setEngine { s.engine with refreshDue := true }
    else s)

/-- The run in flight does the work of its phase, when it stands in it. -/
def State.advanceRun (s : State) (phase : Phase) (work : Layout → Run → Run) : State :=
  match s.engine.run with
  | none => s
  | some r => if r.phase = phase then s.setEngine { s.engine with run := some (work s.active r) } else s

/-- SNAPSHOT's work is the copying of values fixed at the start (R76). -/
def Run.doSnapshot (_ : Layout) (r : Run) : Run := { r with phase := .pass1 }

/-- SNAPSHOT_COMPLETE (R76, R79). -/
def execSnapshotComplete (s : State) : Host.Outcome State Fault Refusal :=
  .next (s.advanceRun .snapshot Run.doSnapshot)

/-- PASS1_COMPLETE (R79, R85 to R90). -/
def execPass1Complete (s : State) : Host.Outcome State Fault Refusal :=
  .next (s.advanceRun .pass1 Run.doPass1)

/-- LOAD_COMPLETE (R79, R92, R93). -/
def execLoadComplete (s : State) : Host.Outcome State Fault Refusal :=
  .next (s.advanceRun .load Run.doLoad)

/-- PASS2_COMPLETE (R79, R94). -/
def execPass2Complete (s : State) : Host.Outcome State Fault Refusal :=
  .next (s.advanceRun .pass2 Run.doPass2)

/-- NEXTHOP_COMPLETE (R79, R96). -/
def execNexthopComplete (s : State) : Host.Outcome State Fault Refusal :=
  .next (s.advanceRun .nexthop Run.doNexthop)

/-- What the Aspect Unit is handed (R97, R101): the field, of the generation the counter advances to, with its basis. -/
def State.handedOver (s : State) (r : Run) : Published where
  field := r.field (s.engine.generation + 1) s.port.clock
  basis := r.basis s.active

/-- The adoption of a field (R102): the field replaced whole, every sign evaluated, the egress accounting formed, the EXIT_IN_USE
outputs driven and the field taken for the next advert. -/
def adoptField (p : Published) : Emit := fun s =>
  let t := { s with aspect := { s.aspect with published := some p, lastGeneration := p.field.generation } }
  let r := formEgress p (t.evalSigns p)
  ((r.1.drive OutputSource.isInUse).takeField p, r.2)

/-- The engine after a handover (R77): the next run starts at once when either mark is set, else the engine is IDLE. -/
def State.nextRun (s : State) : State :=
  if s.engine.changePending || s.engine.refreshDue then s.startRun
  else s.setEngine { s.engine with run := none }

/-- HANDOVER (R77, R97, R98, R102). A trunk left idle starts what the adoption gave it to send (R120). -/
def execHandover (s : State) : Host.Outcome State Fault Refusal :=
  .next (
    match s.engine.run with
    | none => s
    | some r =>
      if r.phase = .handover then
        let t := s.setEngine { s.engine with generation := s.engine.generation + 1 }
        let q := adoptField (s.handedOver r) t
        q.1.nextRun.kickAll.postAll q.2
      else s)

end Machine
end Sys2Proof
end

