-- ==== Sys2Proof/Machine/StoreEvents.lean ====
section
/-!
DEFINITION. The meanings of the completions of a store's phases (R196): ERASE_COMPLETE, WRITE_COMPLETE and VERIFY_COMPLETE.
-/

namespace Sys2Proof
namespace Machine

/-- The store's record replaced. -/
def State.setStore (s : State) (r : Store) : State := { s with store := r }

/-- ERASE_COMPLETE (R196): WRITING begins. -/
def execEraseComplete (s : State) : Host.Outcome State Fault Refusal :=
  .next (if s.store.state = .erasing then s.setStore { s.store with state := .writing } else s)

/-- The image a completed write leaves (R196, R197): the copy's bytes, or what the memory took. -/
def imageWritten (copy : Layout) : WriteResult → Image
  | .good => .written copy.imageBytes
  | .faulty bytes => .written bytes

/-- WRITE_COMPLETE (R196): VERIFYING begins. -/
def execWriteComplete (result : WriteResult) (s : State) : Host.Outcome State Fault Refusal :=
  .next (
    match s.store.state, s.store.copy with
    | .writing, some copy => s.setStore { s.store with state := .verifying, image := imageWritten copy result }
    | _, _ => s)

/-- VERIFY_COMPLETE (R196): the copy is released, and the comparison gives the store state, the notice and the flag. -/
def execVerifyComplete (s : State) : Host.Outcome State Fault Refusal :=
  .next (
    match s.store.state, s.store.copy with
    | .verifying, some copy =>
      if s.store.image = .written copy.imageBytes then
        (s.setStore { s.store with state := .idle, copy := none }).postAll [s.notice .storeDone none []]
      else
        ((s.setStore { s.store with state := .invalid, copy := none }).setFlag .storeFailedSeen).postAll
          [s.notice .storeFailed none []]
    | _, _ => s)

end Machine
end Sys2Proof
end

