-- ==== Sys2Proof/Machine/Transfers.lean ====
section
/-!
DEFINITION. The meanings of the transfer events of the Console Port (R177 to R183): the clocks and bytes of a request or a
fetch, lost transfers and the gap limit.
-/

namespace Sys2Proof
namespace Machine

/-- The port may begin a transfer once its present one has ended: after the load event, in FREE or HELD, with no lost transfer
running (R177). -/
def State.readyAfterLost (s : State) : Bool :=
  s.loaded && (s.port.state = .free || s.port.state = .held)

/-- A request is refused with CHECK (R179): CHECK_SEEN is set and a CHECK response with an empty body is held. -/
def Port.refuseCheck (p : Port) : Port :=
  (p.setFlag .checkSeen).hold { status := .check, body := [] }

/-- TRANSFER_FIRST_CLOCK (R178): READY is deasserted and the port waits for the first byte. -/
def execTransferFirstClock (s : State) : Host.Outcome State Fault Refusal :=
  .next (if s.port.ready then s.setPort { s.port with ready := false, awaiting := true } else s)

/-- LOST_TRANSFER (R181): a first clock while READY is deasserted that belongs to no transfer in progress. -/
def execLostTransfer (s : State) : Host.Outcome State Fault Refusal :=
  .next (
    if s.port.ready || s.port.awaiting || s.port.state = .receiving || s.port.state = .fetching then s
    else s.setPort { s.port.setFlag .requestLost with lost := true })

/-- A request's first byte, its length, is complete: the port enters RECEIVING, and a held response is released unfetched
with RESPONSE_DROPPED set (R178, R183). -/
def Port.beginRequest (p : Port) (length : Byte) : Port :=
  let q := if p.response.isSome then p.setFlag .responseDropped else p
  { q with state := .receiving, awaiting := false, buffer := [length], response := none }

/-- FIRST_BYTE (R178, R182, R183): the fetch marker begins a fetch, any other byte is a length and begins a request. -/
def execFirstByte (byte : Byte) (s : State) : Host.Outcome State Fault Refusal :=
  .next (
    if s.port.awaiting then
      if byte = Config.fetchMarker then s.setPort { s.port with state := .fetching, awaiting := false }
      else s.setPort (s.port.beginRequest byte)
    else s)

/-- The bytes of a whole request pass the tests of R179: a length of 2 or more, and a correct check. -/
def requestOk (request : List Byte) : Bool :=
  2 ≤ (request.headD 0).toNat && checkOk request

/-- REQUEST_END (R179): `bytes` are all the bytes the length counts. A request of length 0 ends with none (log entry 8). -/
def execRequestEnd (bytes : List Byte) (s : State) : Host.Outcome State Fault Refusal :=
  .next (
    if s.port.state = .receiving && bytes.length = (s.port.buffer.headD 0).toNat then
      let request := s.port.buffer ++ bytes
      if requestOk request then s.setPort { s.port with state := .taking, buffer := request }
      else s.setPort s.port.refuseCheck
    else s)

/-- A fetch cut off at the gap limit (R182): a held response stays held, an empty fetch ends; READY is asserted. -/
def Port.endFetch (p : Port) : Port :=
  { p with state := if p.response.isSome then .held else .free, ready := true }

/-- CONSOLE_GAP_LIMIT (R178, R179, R181, R182): the pause that ends the transfer running. -/
def execConsoleGapLimit (s : State) : Host.Outcome State Fault Refusal :=
  .next (
    if s.port.lost then s.setPort { s.port with lost := false, ready := s.readyAfterLost }
    else if s.port.awaiting then s.setPort { s.port with awaiting := false, ready := true }
    else
      match s.port.state with
      | .receiving => s.setPort s.port.refuseCheck
      | .fetching => s.setPort s.port.endFetch
      | .free => s
      | .taking => s
      | .held => s)

/-- FETCH_END (R182): the last byte of the held response is clocked out; it is released and the port is FREE. -/
def execFetchEnd (s : State) : Host.Outcome State Fault Refusal :=
  .next (
    if s.port.state = .fetching && s.port.response.isSome then
      s.setPort { s.port with state := .free, ready := true, response := none }
    else s)

end Machine
end Sys2Proof
end

