-- ==== Sys2Proof/Machine/Trunks.lean ====
section
/-!
DEFINITION. The meanings of the Sign Line Controller's events: the end of a frame, replies and reply windows (R123), and the
overcurrent events of a trunk (R121).
-/

namespace Sys2Proof
namespace Machine

/-- The record of a trunk. -/
def State.trunk (s : State) (t : TrunkIdx) : TrunkRec := s.signLine.trunks.get t

/-- The exchange of a trunk whose reply window is open. -/
def State.openExchange (s : State) (t : TrunkIdx) : Option Exchange :=
  match (s.trunk t).exchange with
  | none => none
  | some x => if x.windowOpen then some x else none

/-- TRUNK_FRAME_END (R123): the reply window of the exchange in flight opens. -/
def execTrunkFrameEnd (trunk : TrunkIdx) (s : State) : Host.Outcome State Fault Refusal :=
  .next (
    match (s.trunk trunk).exchange with
    | none => s
    | some x => s.setTrunk trunk { s.trunk trunk with exchange := some { x with windowOpen := true } })

/-- REPLY_COMPLETE (R123): the five bytes of a REPLY end the exchange, as a good reply or a garbled one. -/
def execReplyComplete (trunk : TrunkIdx) (bytes : List TrunkByte) (s : State) :
    Host.Outcome State Fault Refusal :=
  .next (
    match s.openExchange trunk with
    | none => s
    | some x =>
      if bytes.length = 5 then Emit.run (endExchange trunk x (readReply x.address bytes)) s else s)

/-- REPLY_WINDOW_EXPIRY (R123): the exchange ends as a garbled reply when a byte was received, and as a miss when none was. -/
def execReplyWindowExpiry (trunk : TrunkIdx) (anyByte : Bool) (s : State) : Host.Outcome State Fault Refusal :=
  .next (
    match s.openExchange trunk with
    | none => s
    | some x => Emit.run (endExchange trunk x (if anyByte then .garbled else .miss)) s)

/-- TRUNK_FAULT or TRUNK_RESTORED, with the trunk as subject (R121). -/
def State.trunkNotice (s : State) (kind : NoticeKind) (t : TrunkIdx) : Notice :=
  s.notice kind (some (byte t.val)) []

/-- A trunk as an overcurrent leaves it: SHUTDOWN, its driver off, the exchange abandoned and the hold-off begun (R121). -/
def TrunkRec.shut (r : TrunkRec) (now : Ticks) : TrunkRec :=
  { r with state := .shutdown, driverOn := false, exchange := none, holdOff := some now }

/-- TRUNK_OVERCURRENT (R121): an overcurrent on a trunk in service. -/
def execTrunkOvercurrent (trunk : TrunkIdx) (s : State) : Host.Outcome State Fault Refusal :=
  .next (
    if (s.trunk trunk).state = .inService then
      (s.setTrunk trunk ((s.trunk trunk).shut s.port.clock)).postAll [s.trunkNotice .trunkFault trunk]
    else s)

/-- The hold-off of a trunk in SHUTDOWN with its driver off has run (R121). -/
def State.holdOffPassed (s : State) (t : TrunkIdx) : Bool :=
  match (s.trunk t).holdOff with
  | none => false
  | some start => s.passed start Config.holdOffTime

/-- HOLD_OFF_EXPIRY (R121): the driver is switched on again. -/
def execHoldOffExpiry (trunk : TrunkIdx) (s : State) : Host.Outcome State Fault Refusal :=
  .next (
    if (s.trunk trunk).state = .shutdown && !(s.trunk trunk).driverOn && s.holdOffPassed trunk then
      s.setTrunk trunk { s.trunk trunk with driverOn := true }
    else s)

/-- The trunk is in the 10 ms check: in SHUTDOWN with its driver on (R121). -/
def TrunkRec.checking (r : TrunkRec) : Bool := r.state = .shutdown && r.driverOn

/-- TRUNK_RESTORED (R121): the check has passed; the trunk returns to service and starts its next exchange. -/
def execTrunkRestored (trunk : TrunkIdx) (s : State) : Host.Outcome State Fault Refusal :=
  .next (
    if (s.trunk trunk).checking then
      let t := s.setTrunk trunk { s.trunk trunk with state := .inService, holdOff := none }
      (t.kick trunk).postAll [s.trunkNotice .trunkRestored trunk]
    else s)

/-- TRUNK_RECHECK_OVERCURRENT (R121): an overcurrent within the check switches the driver off and restarts the hold-off; it posts
nothing. -/
def execTrunkRecheckOvercurrent (trunk : TrunkIdx) (s : State) : Host.Outcome State Fault Refusal :=
  .next (
    if (s.trunk trunk).checking then s.setTrunk trunk ((s.trunk trunk).shut s.port.clock) else s)

end Machine
end Sys2Proof
end

