-- ==== Sys2Proof/Machine/Writes.lean ====
section
/-!
DEFINITION. The meanings of the requests that act: WRITE_LAYOUT (R10, R11), STAGE_FROM_ACTIVE (R13), COMMIT_LAYOUT (R15 to
R21), SET_ZONE_LEVEL (R32), SET_EXIT_CLOSURE (R59), CALIBRATE_BEAM (R52), STORE_LAYOUT (R195) and REINIT (R199).
-/

namespace Sys2Proof
namespace Machine

/-- STAGING replaced. -/
def State.setStaging (s : State) (a : Layout) : State :=
  { s with layout := { s.layout with staging := a } }

/-- A store is in progress (R194). -/
def StoreState.inProgress : StoreState → Bool
  | .erasing => true
  | .writing => true
  | .verifying => true
  | .idle => false
  | .invalid => false

/-- The item a WRITE_LAYOUT body names; its reference is the first three bytes (R204). -/
def writeRef (body : List Byte) : Option ItemRef :=
  ItemRef.read (arg body 0) (arg body 1 * 256 + arg body 2)

/-- A WRITE_LAYOUT body has the length its item takes: the reference and the item's fields (R180, R204). -/
def writeLengthOk (body : List Byte) : Bool :=
  match writeRef body with
  | none => false
  | some ref => body.length = 3 + ref.size (body.drop 3)

/-- WRITE_LAYOUT (R10, R11): one item of STAGING is replaced whole, or the position of the first field out of range is
reported, 0 for the reference or the length. -/
def execWriteLayout (s : State) : Host.Outcome State Fault Refusal :=
  .next (s.serve 0x09 writeLengthOk [0] fun body =>
    match writeRef body with
    | none => s.respond .range [0]
    | some ref =>
      match readItem ref (body.drop 3) with
      | .error position => s.respond .range [byte position]
      | .ok item => (s.setStaging (s.layout.staging.put item)).respond .ok [])

/-- STAGE_FROM_ACTIVE (R13). -/
def execStageFromActive (s : State) : Host.Outcome State Fault Refusal :=
  .next (s.serve 0x0A (bodyOf 0) [] fun _ => (s.setStaging s.layout.active).respond .ok [])

/-- COMMIT_LAYOUT (R15): the mode, the store, then the checks on STAGING in their order. -/
def execCommitLayout (s : State) : Host.Outcome State Fault Refusal :=
  .next (s.serve 0x0B (bodyOf 0) [] fun _ =>
    if s.alarm.mode = .evacuate then s.respond .mode []
    else if s.store.state.inProgress then s.respond .busy []
    else
      match s.layout.staging.firstFailure with
      | some (order, index) => s.respond .invalid (byte order :: word16 index)
      | none => s.commit.respond .ok [])

/-- A zone takes a console level (R29, R32). -/
def State.takeConsoleLevel (s : State) (z : ZoneIdx) (l : Level) : State :=
  Emit.run (zoneEvent z { s.zones.get z with consoleLevel := l }) s

/-- SET_ZONE_LEVEL (R32, R33). -/
def execSetZoneLevel (s : State) : Host.Outcome State Fault Refusal :=
  .next (s.serve 0x0C (bodyOf 2) [] fun body =>
    if hz : arg body 0 < 48 then
      if hl : arg body 1 < 8 then
        let z : ZoneIdx := ⟨arg body 0, hz⟩
        let l : Level := ⟨arg body 1, hl⟩
        if s.alarm.mode = .evacuate && l < (s.zones.get z).consoleLevel then s.respond .mode []
        else
          let t := s.takeConsoleLevel z l
          let r := t.zones.get z
          t.respond .ok [byte r.consoleLevel.val, byte r.effective.val]
      else s.respond .range []
    else s.respond .range [])

/-- An exit gains or loses CONSOLE (R57, R59). -/
def State.takeClosure (s : State) (e : ExitIdx) (closed : Bool) : State :=
  Emit.run (setReasons e { (s.exits.exits.get e).reasons with console := closed }) s

/-- SET_EXIT_CLOSURE (R59, R60): action 0 opens and action 1 closes. -/
def execSetExitClosure (s : State) : Host.Outcome State Fault Refusal :=
  .next (s.serve 0x0D (bodyOf 2) [] fun body =>
    if he : arg body 0 < 24 then
      let e : ExitIdx := ⟨arg body 0, he⟩
      if arg body 1 ≤ 1 && s.active.exits.has e then
        if arg body 1 = 1 && s.alarm.mode = .evacuate then s.respond .mode []
        else
          let t := s.takeClosure e (arg body 1 = 1)
          t.respond .ok [t.exitCode e]
      else s.respond .range []
    else s.respond .range [])

/-- A bank with a channel's reference replaced (R14). -/
def Layout.setReference (a : Layout) (ch : BeamIdx) (c : Nat) : Layout :=
  { a with beams := a.beams.set ch { a.beams.get ch with reference := c } }

/-- Both banks take a channel's new reference (R14, R53). -/
def State.setReference (s : State) (ch : BeamIdx) (c : Nat) : State :=
  { s with layout := {
      active := s.layout.active.setReference ch c
      staging := s.layout.staging.setReference ch c } }

/-- CALIBRATE_BEAM (R52, R53): the c tested is the corrected value of the channel's last sample (log entry 20). -/
def execCalibrateBeam (s : State) : Host.Outcome State Fault Refusal :=
  .next (s.serve 0x0E (bodyOf 1) [] fun body =>
    if h : arg body 0 < 8 then
      let ch : BeamIdx := ⟨arg body 0, h⟩
      let cfg := s.active.beams.get ch
      if !cfg.enabled then s.respond .range []
      else if s.alarm.mode = .evacuate then s.respond .mode []
      else if (s.zones.get cfg.zone).effective ≠ 0 then s.respond .mode []
      else
        match (s.beams.get ch).corrected with
        | none => s.respond .lowSignal (word16 0)
        | some c =>
          if c < Config.calibrateMin then s.respond .lowSignal (word16 c)
          else (s.setReference ch c).respond .ok (word16 c)
    else s.respond .range [])

/-- An accepted STORE_LAYOUT (R195, R196): the copy is fixed and ERASING begins, the old image gone from its first moment. -/
def State.startStore (s : State) : State :=
  { s with store := { state := .erasing, copy := some s.active, image := .erased } }

/-- STORE_LAYOUT (R195). -/
def execStoreLayout (s : State) : Host.Outcome State Fault Refusal :=
  .next (s.serve 0x0F (bodyOf 0) [] fun _ =>
    if s.alarm.mode = .evacuate then s.respond .mode []
    else if s.store.state.inProgress then s.respond .busy []
    else if s.active.isEmpty then s.respond .range []
    else s.startStore.respond .ok [])

/-- REINIT (R199): the body tells whether a layout was loaded, and the store state after the test. -/
def execReinit (s : State) : Host.Outcome State Fault Refusal :=
  .next (s.serve 0x10 (bodyOf 0) [] fun _ =>
    if s.store.state.inProgress then s.respond .busy []
    else
      let t := s.restart
      t.respond .ok [boolByte s.store.image.load.isSome, t.store.state.code])

end Machine
end Sys2Proof
end

