-- ==== Sys2Proof/Machine/Dispatch.lean ====
section
/-!
DEFINITION. Which meaning each command has: one arm for each constructor of `Instr`.
-/

namespace Sys2Proof
namespace Machine

def exec (i : Instr) (s : State) : Host.Outcome State Fault Refusal :=
  match i with
  | .coldReset => Sys2Proof.Machine.execColdReset s
  | .loadEvent => Sys2Proof.Machine.execLoadEvent s
  | .hallClockTick => Sys2Proof.Machine.execHallClockTick s
  | .clockWrap => Sys2Proof.Machine.execClockWrap s
  | .transferFirstClock => Sys2Proof.Machine.execTransferFirstClock s
  | .lostTransfer => Sys2Proof.Machine.execLostTransfer s
  | .firstByte byte => Sys2Proof.Machine.execFirstByte byte s
  | .requestEnd bytes => Sys2Proof.Machine.execRequestEnd bytes s
  | .consoleGapLimit => Sys2Proof.Machine.execConsoleGapLimit s
  | .fetchEnd => Sys2Proof.Machine.execFetchEnd s
  | .readStatus => Sys2Proof.Machine.execReadStatus s
  | .fetchNotices => Sys2Proof.Machine.execFetchNotices s
  | .readRoute => Sys2Proof.Machine.execReadRoute s
  | .readExits => Sys2Proof.Machine.execReadExits s
  | .readZones => Sys2Proof.Machine.execReadZones s
  | .readSigns => Sys2Proof.Machine.execReadSigns s
  | .readLines => Sys2Proof.Machine.execReadLines s
  | .readLayout => Sys2Proof.Machine.execReadLayout s
  | .writeLayout => Sys2Proof.Machine.execWriteLayout s
  | .stageFromActive => Sys2Proof.Machine.execStageFromActive s
  | .commitLayout => Sys2Proof.Machine.execCommitLayout s
  | .setZoneLevel => Sys2Proof.Machine.execSetZoneLevel s
  | .setExitClosure => Sys2Proof.Machine.execSetExitClosure s
  | .calibrateBeam => Sys2Proof.Machine.execCalibrateBeam s
  | .storeLayout => Sys2Proof.Machine.execStoreLayout s
  | .reinit => Sys2Proof.Machine.execReinit s
  | .eraseComplete => Sys2Proof.Machine.execEraseComplete s
  | .writeComplete result => Sys2Proof.Machine.execWriteComplete result s
  | .verifyComplete => Sys2Proof.Machine.execVerifyComplete s
  | .runStart => Sys2Proof.Machine.execRunStart s
  | .refreshIntervalExpiry => Sys2Proof.Machine.execRefreshIntervalExpiry s
  | .snapshotComplete => Sys2Proof.Machine.execSnapshotComplete s
  | .pass1Complete => Sys2Proof.Machine.execPass1Complete s
  | .loadComplete => Sys2Proof.Machine.execLoadComplete s
  | .pass2Complete => Sys2Proof.Machine.execPass2Complete s
  | .nexthopComplete => Sys2Proof.Machine.execNexthopComplete s
  | .handover => Sys2Proof.Machine.execHandover s
  | .beamSample channel reading => Sys2Proof.Machine.execBeamSample channel reading s
  | .discretePinChange line active => Sys2Proof.Machine.execDiscretePinChange line active s
  | .debounceExpiry line => Sys2Proof.Machine.execDebounceExpiry line s
  | .doorGraceExpiry => Sys2Proof.Machine.execDoorGraceExpiry s
  | .trunkFrameEnd trunk => Sys2Proof.Machine.execTrunkFrameEnd trunk s
  | .replyComplete trunk bytes => Sys2Proof.Machine.execReplyComplete trunk bytes s
  | .replyWindowExpiry trunk anyByte => Sys2Proof.Machine.execReplyWindowExpiry trunk anyByte s
  | .trunkOvercurrent trunk => Sys2Proof.Machine.execTrunkOvercurrent trunk s
  | .holdOffExpiry trunk => Sys2Proof.Machine.execHoldOffExpiry trunk s
  | .trunkRestored trunk => Sys2Proof.Machine.execTrunkRestored trunk s
  | .trunkRecheckOvercurrent trunk => Sys2Proof.Machine.execTrunkRecheckOvercurrent trunk s
  | .busFree cutOff => Sys2Proof.Machine.execBusFree cutOff s
  | .lostArbitration => Sys2Proof.Machine.execLostArbitration s
  | .advertSent => Sys2Proof.Machine.execAdvertSent s
  | .advertReceived bits => Sys2Proof.Machine.execAdvertReceived bits s
  | .advertIntervalExpiry => Sys2Proof.Machine.execAdvertIntervalExpiry s
  | .passageAgeExpiry passage => Sys2Proof.Machine.execPassageAgeExpiry passage s
  | .duplicateWatchExpiry => Sys2Proof.Machine.execDuplicateWatchExpiry s
  | .alarmFrameEnd line bytes => Sys2Proof.Machine.execAlarmFrameEnd line bytes s
  | .alarmGapLimit line => Sys2Proof.Machine.execAlarmGapLimit line s
  | .supervisionExpiry line => Sys2Proof.Machine.execSupervisionExpiry line s
  | .zoneReport => Sys2Proof.Machine.execZoneReport s
  | .hallMode => Sys2Proof.Machine.execHallMode s
  | .supervise => Sys2Proof.Machine.execSupervise s
  | .statusRequest => Sys2Proof.Machine.execStatusRequest s
  | .egressStatusSent line => Sys2Proof.Machine.execEgressStatusSent line s
  | .alarmStartByte line => Sys2Proof.Machine.execAlarmStartByte line s

end Machine
end Sys2Proof
end

