-- ==== Sys2Proof/Machine/Step.lean ====
section
/-!
DEFINITION. One step of the E192: the command at the front of the queue is taken. The E192 fetches nothing and has no program;
its commands come from its lines.
-/

namespace Sys2Proof
namespace Machine

/-- The state with the waiting commands replaced. -/
def State.withPending (s : State) (queue : List Instr) : State := { s with pending := queue }

/-- The command at the front of the queue acts, with the rest of the queue left waiting. On an empty queue the E192 idles
(DESIGN CHOICE, log entry 4): its clock and its timers move only with their own commands. -/
def step (s : State) : Host.Outcome State Fault Refusal :=
  match s.pending with
  | [] => .next s
  | c :: rest => exec c (s.withPending rest)

/-- The command a word spells, put at the front of the queue. No row of the table has bits, so no word spells one and the state
is unchanged (log entry 10). -/
def State.withFetchWord (s : State) (nbits w : Nat) : State :=
  match decodeTableWord nbits w with
  | none => s
  | some c => s.withPending (c :: s.pending)

end Machine
end Sys2Proof
end

