-- ==== Sys2Proof/Safety.lean ====
section
/-!
DEFINITION. What claims about the E192 are stated in: how a request waits to be taken, and the laws of each block that the manual
states of every moment. Each law is a property of one state; Certificates/ states that every step keeps it.
-/

namespace Sys2Proof
namespace Machine

/-! ## Requests -/

/-- A request of the code and body waits in TAKING (R179): its length byte, code, body and check byte are in the request
buffer. -/
def State.asks (s : State) (code : Byte) (body : List Byte) : Prop :=
  s.port.state = .taking ∧ ∃ length check, s.port.buffer = length :: code :: (body ++ [check])

/-- The port once a request is answered (R180, R181): the response is held, the buffer given up, and READY asserted unless a lost
transfer is running. -/
def Port.answered (p : Port) (status : Status) (body : List Byte) : Port :=
  { p with
    state := .held
    ready := !p.lost
    buffer := []
    response := some { status := status, body := body } }

/-- The state once a request is answered, with nothing else changed. -/
def State.answered (s : State) (status : Status) (body : List Byte) : State :=
  { s with port := s.port.answered status body }

/-- The sixteen requests of the console, each the completion of a request in TAKING (R180, R204). -/
def requests : List Instr :=
  [.readStatus, .fetchNotices, .readRoute, .readExits, .readZones, .readSigns, .readLines, .readLayout, .writeLayout,
    .stageFromActive, .commitLayout, .setZoneLevel, .setExitClosure, .calibrateBeam, .storeLayout, .reinit]

/-! ## Layouts -/

/-- The item of a bank that a reference names (1.2). -/
def Layout.item (a : Layout) : ItemRef → Item
  | .params => .params a.params
  | .node i => .node i (a.nodes.get i)
  | .segment i => .segment i (a.segments.get i)
  | .exit i => .exit i (a.exits.get i)
  | .sign i => .sign i (a.signs.get i)
  | .passage i => .passage i (a.passages.get i)
  | .beam i => .beam i (a.beams.get i)
  | .line i => .line i (a.lines.get i)

/-- Every item of a bank is one WRITE_LAYOUT takes (R11): its fields have the length its table gives, pass every range check, and
are read as the item itself. -/
def Layout.InRange (a : Layout) : Prop :=
  ∀ ref, (a.fields ref).length = ref.size (a.fields ref) ∧ readItem ref (a.fields ref) = .ok (a.item ref)

/-! ## Costs and loads -/

/-- The cost of travelling from a node along a segment in a pass: the other end's cost and the segment's, when the segment is open
and may be travelled from the node (R80 to R83); `none` when it offers nothing. -/
def Layout.wayCost (a : Layout) (levels : Table Level 48) (nodes : Table NodeWork 256) (n : NodeIdx) (g : SegRec) : Option Cost :=
  match g.otherEnd n with
  | none => none
  | some m =>
    if a.segOpen levels g && g.mayTravel n then some (sumCost (nodes.get m).cost (a.segCost levels g)) else none

/-- The total occupancy weight of the defined nodes whose cost is finite in a field (R92, R96). -/
def Layout.reachedWeight (a : Layout) (nodes : Table NodeWork 256) : Nat :=
  ((a.nodes.defined.filter fun n => (nodes.get n.1).cost ≤ Config.maxCost).map fun n => n.2.weight.val).sum

/-! ## The sign line -/

/-- Sign `i` is defined in ACTIVE, with record `c`, on trunk `t`. -/
def State.signOn (s : State) (t : TrunkIdx) (i : SignIdx) (c : SignCfg) : Prop :=
  s.active.signs.get i = some c ∧ c.trunk = t

/-- Step 1 of R127: the oldest entry of the change queue whose sign is defined on the trunk. -/
def State.oldestOn (s : State) (t : TrunkIdx) (i : SignIdx) (c : SignCfg) : Prop :=
  s.signOn t i c ∧ ∃ older newer, s.signLine.queue = older ++ i :: newer ∧ ∀ j ∈ older, ∀ d, ¬ s.signOn t j d

/-- Step 2 of R127 looks among these: the default-pending heads of the trunk that are not LOST. -/
def State.owesDefault (s : State) (t : TrunkIdx) (i : SignIdx) (c : SignCfg) : Prop :=
  s.signOn t i c ∧ (s.signLine.heads.get i).defaultPending = true ∧ (s.signLine.heads.get i).state ≠ .lost

/-- Of the signs of which something is true, the one whose address stands below every other's. -/
def hasLowestAddress (among : SignIdx → SignCfg → Prop) (i : SignIdx) (c : SignCfg) : Prop :=
  among i c ∧ ∀ j d, among j d → j ≠ i → c.address < d.address

/-- Step 3 of R127 (R128): the lowest address of the trunk above its round-robin position, or the lowest of all when none stands
above it. -/
def State.polledNext (s : State) (t : TrunkIdx) (i : SignIdx) (c : SignCfg) : Prop :=
  hasLowestAddress (fun j d => s.signOn t j d ∧ (s.signLine.trunks.get t).roundRobin < d.address) i c
  ∨ (∀ j d, s.signOn t j d → d.address ≤ (s.signLine.trunks.get t).roundRobin) ∧ hasLowestAddress (s.signOn t) i c

/-- The trunk's record with a frame to a sign's head on its way. -/
def TrunkRec.carrying (r : TrunkRec) (i : SignIdx) (c : SignCfg) (f : TrunkFrame) : TrunkRec :=
  { r with exchange := some { sign := i, address := c.address, frame := f, windowOpen := false, discard := false } }

/-- A head's sequence bit once an ASPECT frame with an aspect is built (R124): inverted when that aspect differs from the last sent one
or none was sent, kept when it is the same. -/
def HeadRec.seqFor (h : HeadRec) (shown : Shown) : Bool :=
  match h.lastSent with
  | none => !h.seq
  | some last => if shown = last then h.seq else !h.seq

/-- An ASPECT frame is on its way to a sign's head (R124): it carries the shown aspect and the head's sequence bit, and the head's record
takes both; the trunk's round robin stands at `position`. -/
def State.sendsAspect (s : State) (t : TrunkIdx) (i : SignIdx) (c : SignCfg) (position : Nat) : State :=
  let h := s.signLine.heads.get i
  let shown := (s.aspect.signs.get i).shown
  { s with signLine := { s.signLine with
      heads := s.signLine.heads.set i { h with seq := h.seqFor shown, lastSent := some shown }
      trunks := s.signLine.trunks.set t
        ({ s.signLine.trunks.get t with roundRobin := position }.carrying i c (.aspect shown (h.seqFor shown))) } }

/-- A SET_DEFAULT frame is on its way to a sign's head (R125): it carries the default aspect of ACTIVE and touches no head record. -/
def State.sendsDefault (s : State) (t : TrunkIdx) (i : SignIdx) (c : SignCfg) : State :=
  { s with signLine := { s.signLine with
      trunks := s.signLine.trunks.set t ((s.signLine.trunks.get t).carrying i c (.setDefault c.defaultAspect)) } }

/-- What a trunk does where it may start an exchange (R120, R124, R125, R127, R128): one that is in SHUTDOWN or carries an exchange starts
nothing; any other takes the first of the three steps that finds something to send, and rests when its trunk has no sign. Only its own
record changes, and the sequence bit and last sent aspect of the head it sends to. -/
structure TrunkStarts (s : State) (t : TrunkIdx) (u : State) : Prop where
  busy : (s.signLine.trunks.get t).state = .shutdown ∨ (s.signLine.trunks.get t).exchange.isSome = true → u = s
  queued : (s.signLine.trunks.get t).state = .inService → (s.signLine.trunks.get t).exchange = none →
    ∀ i c, s.oldestOn t i c → u = s.sendsAspect t i c (s.signLine.trunks.get t).roundRobin
  owed : (s.signLine.trunks.get t).state = .inService → (s.signLine.trunks.get t).exchange = none →
    (∀ j ∈ s.signLine.queue, ∀ d, ¬ s.signOn t j d) →
    ∀ i c, hasLowestAddress (s.owesDefault t) i c → u = s.sendsDefault t i c
  polled : (s.signLine.trunks.get t).state = .inService → (s.signLine.trunks.get t).exchange = none →
    (∀ j ∈ s.signLine.queue, ∀ d, ¬ s.signOn t j d) → (∀ j d, ¬ s.owesDefault t j d) →
    ∀ i c, s.polledNext t i c → u = s.sendsAspect t i c c.address
  resting : (∀ j d, ¬ s.signOn t j d) → u = s
  frame : u = { s with signLine := { s.signLine with trunks := u.signLine.trunks, heads := u.signLine.heads } }
  otherTrunk : ∀ v, v ≠ t → u.signLine.trunks.get v = s.signLine.trunks.get v
  otherHeads : ∀ i, (∀ x, (u.signLine.trunks.get t).exchange = some x → x.sign ≠ i) →
    u.signLine.heads.get i = s.signLine.heads.get i
  head : ∀ i, u.signLine.heads.get i =
    { s.signLine.heads.get i with
      seq := (u.signLine.heads.get i).seq, lastSent := (u.signLine.heads.get i).lastSent }

/-! ## Signs -/

/-- A sign record that shows the face arrow of a segment with the modifier of a hall mode (R109, R112). -/
def SignCfg.shows (c : SignCfg) (mode : HallMode) (v : SegIdx) (candidate : Option Candidate) : SignRec where
  shown := { aspect := .arrow (c.faceArrow v), modifier := if mode = .evacuate then .pulse else .steady }
  segment := some v
  candidate := candidate

/-- The downhill test of R108: the segment is defined, leads from the node to another end, is open at the basis levels, may be travelled
from the node, and its other end's published cost is finite and strictly below the node's. -/
def Layout.leadsDown (a : Layout) (p : Published) (n : NodeIdx) (v : SegIdx) : Prop :=
  ∃ g m, a.segments.get v = some g ∧ g.otherEnd n = some m ∧ (p.basis.levels.get g.zone).val < a.params.tImp
    ∧ g.mayTravel n = true ∧ (p.field.nodes.get m).cost ≠ Config.inf
    ∧ (p.field.nodes.get m).cost < (p.field.nodes.get n).cost

/-- The best way beats going on along a segment by more than the switch margin (R110). -/
def Layout.beats (a : Layout) (p : Published) (n : NodeIdx) (v : SegIdx) : Prop :=
  ∃ g m, a.segments.get v = some g ∧ g.otherEnd n = some m
    ∧ (p.field.nodes.get n).cost * 64 < (a.segCost p.basis.levels g + (p.field.nodes.get m).cost) * (64 - a.params.margin)

/-- A node is the node of a live exit of the published field (R101). -/
def Layout.atLiveExit (a : Layout) (p : Published) (n : NodeIdx) : Prop :=
  ∃ e x, a.exits.get e = some x ∧ x.node = n ∧ p.basis.source.get e = true

/-- The confirm time in ticks (R111). -/
def Layout.confirmTime (a : Layout) (mode : HallMode) : Nat :=
  if mode = .evacuate then 100 * a.params.tConf else 400 * a.params.tConf

/-- How a sign that shows the arrow of segment `v`, and whose best segment is `b`, is evaluated to `new` (R108 to R111). -/
structure ArrowRule (a : Layout) (p : Published) (mode : HallMode) (now : Ticks) (c : SignCfg) (v b : SegIdx)
    (candidate : Option Candidate) (new : SignRec) : Prop where
  forced : ¬ a.leadsDown p c.node v → new = c.shows mode b none
  same : a.leadsDown p c.node v → v = b → new = c.shows mode v none
  invisible : a.leadsDown p c.node v → v ≠ b → c.faceArrow v = c.faceArrow b → new = c.shows mode b none
  held : a.leadsDown p c.node v → v ≠ b → c.faceArrow v ≠ c.faceArrow b → ¬ a.beats p c.node v → new = c.shows mode v none
  waits : a.leadsDown p c.node v → v ≠ b → c.faceArrow v ≠ c.faceArrow b → a.beats p c.node v →
    (∀ k, candidate = some k → k.segment ≠ b) → new = c.shows mode v (some { segment := b, start := now })
  waiting : a.leadsDown p c.node v → v ≠ b → c.faceArrow v ≠ c.faceArrow b → a.beats p c.node v →
    ∀ k, candidate = some k → k.segment = b → (now - k.start).toNat < a.confirmTime mode → new = c.shows mode v (some k)
  confirmed : a.leadsDown p c.node v → v ≠ b → c.faceArrow v ≠ c.faceArrow b → a.beats p c.node v →
    ∀ k, candidate = some k → k.segment = b → a.confirmTime mode ≤ (now - k.start).toNat → new = c.shows mode b none

/-- How a sign defined in ACTIVE is evaluated to `new` at an adoption (R103 to R107, R112): DARK when it is not enabled; EXIT_HERE at the
node of a live exit; CROSS at a node at INF; else an arrow, the best segment's at once where it showed none, and by R108 to R111 where
it did. -/
structure SignRule (a : Layout) (p : Published) (mode : HallMode) (now : Ticks) (c : SignCfg) (old new : SignRec) : Prop where
  disabled : c.enabled = false → new = SignRec.dark
  atExit : c.enabled = true → a.atLiveExit p c.node → new =
    { shown := { aspect := .exitHere, modifier := if mode = .evacuate then .pulse else .steady }, segment := none, candidate := none }
  cutOff : c.enabled = true → ¬ a.atLiveExit p c.node → (p.field.nodes.get c.node).cost = Config.inf → new =
    { shown := { aspect := .cross, modifier := .steady }, segment := none, candidate := none }
  fresh : c.enabled = true → ¬ a.atLiveExit p c.node → (p.field.nodes.get c.node).cost ≠ Config.inf →
    ∀ b, (p.field.nodes.get c.node).next = some b → (∀ d, old.shown.aspect ≠ .arrow d) → new = c.shows mode b none
  arrow : c.enabled = true → ¬ a.atLiveExit p c.node → (p.field.nodes.get c.node).cost ≠ Config.inf →
    ∀ b, (p.field.nodes.get c.node).next = some b → ∀ d v, old.shown.aspect = .arrow d → old.segment = some v →
      ArrowRule a p mode now c v b old.candidate new

/-! ## Adverts -/

/-- How the entry of passage `p`, whose record names the defined exit `e` with configuration `x`, is built from a published field
(R149, R150): INF with the own id alone at a node at INF, where the route leads back through the passage, or where the passage it
leads on through is STALE, has no list or has one that would grow past four ids; else the node's cost, with the own id before the
list of the passage it leads on through, or alone where it ends at a door. -/
structure EntryRule (a : Layout) (passages : Table PassageRec 8) (pub : Published) (p : PassageIdx) (e : ExitIdx) (x : ExitCfg)
    (entry : AdvertEntry) : Prop where
  passage : entry.passage = p
  unreached : (pub.field.nodes.get x.node).cost = Config.inf → entry.cost = Config.inf ∧ entry.path = [a.params.hallId]
  split : (pub.field.nodes.get x.node).route = some e → entry.cost = Config.inf ∧ entry.path = [a.params.hallId]
  door : (pub.field.nodes.get x.node).cost ≠ Config.inf → ∀ r y, (pub.field.nodes.get x.node).route = some r → r ≠ e →
    a.exits.get r = some y → y.kind = .door →
    entry.cost = (pub.field.nodes.get x.node).cost ∧ entry.path = [a.params.hallId]
  onward : (pub.field.nodes.get x.node).cost ≠ Config.inf → ∀ r y q path, (pub.field.nodes.get x.node).route = some r → r ≠ e →
    a.exits.get r = some y → y.kind = .passage → y.passage = some q →
    (passages.get q).state = .heard → (passages.get q).path = some path → path.length ≤ 3 →
    entry.cost = (pub.field.nodes.get x.node).cost ∧ entry.path = a.params.hallId :: path
  limit : ∀ r y q, (pub.field.nodes.get x.node).route = some r → r ≠ e →
    a.exits.get r = some y → y.kind = .passage → y.passage = some q →
    ((passages.get q).state = .stale ∨ (passages.get q).path = none ∨ ∃ path, (passages.get q).path = some path ∧ 3 < path.length) →
    entry.cost = Config.inf ∧ entry.path = [a.params.hallId]

/-! ## Exits, lines and notices -/

/-- Exit `e` is defined, and `new` gives it another reason set than the one it holds (R57). -/
def State.moves (s : State) (new : ExitIdx → ReasonSet) (e : ExitIdx) : Bool :=
  s.active.exits.has e && decide (new e ≠ (s.exits.exits.get e).reasons)

/-- The EXIT_STATE notices of the exits that move, in exit index order (R57, R61). -/
def State.exitNotices (s : State) (new : ExitIdx → ReasonSet) : List Notice :=
  ((List.finRange 24).filter (s.moves new)).map fun e =>
    s.notice .exitState (some (byte e.val)) [(new e).code, if (new e).isEmpty then 1 else 0]

/-- An event from `s` to `t` posts `ns`, in order: they stand at the end of the queue, where it has room for all of them (R188,
R189). -/
def Posts (s t : State) (ns : List Notice) : Prop :=
  s.port.notices.length + ns.length ≤ 64 → t.port.notices = s.port.notices ++ ns

/-- From `s` to `t` the OUTPUT lines whose source is `driven` show their source as it stands in `t`, and every other line's record stays
as it was, an input's among them (R63, R67, R68). -/
structure LinesFollow (s t : State) (driven : OutputSource → Prop) : Prop where
  shown : ∀ l src d, s.active.lines.get l = .output src → s.exits.lines.get l = .output d → driven src →
    t.exits.lines.get l = .output (t.sourceTrue src)
  held : ∀ l src, s.active.lines.get l = .output src → ¬ driven src → t.exits.lines.get l = s.exits.lines.get l
  inputs : ∀ l v start, s.exits.lines.get l = .input v start → t.exits.lines.get l = .input v start
  unnamed : ∀ l, (∀ src, s.active.lines.get l ≠ .output src) → t.exits.lines.get l = s.exits.lines.get l

/-- From `s` to `t` every defined exit takes the reason set `new` gives it: one whose set changes has its usable field and base source
cost formed anew, sets change pending and drives the lines that name it; any other exit keeps its record (R56 to R58, R68). The lines
whose source is `also` are driven anew besides. An EXIT_IN_USE line follows its condition at once (log entry 34). -/
structure ExitsFollow (s t : State) (new : ExitIdx → ReasonSet) (also : OutputSource → Prop) : Prop where
  exits : ∀ e, t.exits.exits.get e =
    if s.moves new e = true then
      { reasons := new e, usable := (new e).isEmpty, base := t.baseCost e (new e).isEmpty }
    else s.exits.exits.get e
  lines : LinesFollow s t fun src => also src ∨ ∃ e, s.moves new e = true ∧ OutputSource.names e src = true
  pending : t.engine.changePending = true ↔ s.engine.changePending = true ∨ ∃ e, s.moves new e = true

/-- The reason sets once a zone's effective level is formed: HAZARD alone, of the exits whose nodes lie in the zone (R61). -/
def State.hazardAt (s : State) (z : ZoneIdx) (level : Level) (e : ExitIdx) : ReasonSet :=
  if s.active.exitZone e = some z then
    { (s.exits.exits.get e).reasons with hazard := decide (s.active.params.tImp ≤ level.val) }
  else (s.exits.exits.get e).reasons

/-- From `s` to `t` zone `z` takes the inputs of `r`, and `level` is the greatest of the three (R29, R30, R61): an effective level that
stays leaves the exits, the lines, change pending and the time alone; one that changes is stamped, sets change pending, posts
ZONE_LEVEL and, behind it, moves HAZARD of the exits in the zone. `before` are the notices the event posts ahead of these. -/
structure ZoneTakes (s t : State) (z : ZoneIdx) (r : ZoneRec) (level : Level) (before : List Notice) : Prop where
  greatest : level = max r.panelLevel (max r.consoleLevel r.beamLevel)
  zones : t.zones = s.zones.set z
    { r with
      effective := level
      lastChange := if level = (s.zones.get z).effective then (s.zones.get z).lastChange else s.port.clock }
  kept : level = (s.zones.get z).effective → t.exits = s.exits ∧ t.engine = s.engine ∧ Posts s t before
  changed : level ≠ (s.zones.get z).effective →
    ExitsFollow { s with engine := { s.engine with changePending := true } } t (s.hazardAt z level) (fun _ => False)
    ∧ Posts s t (before
      ++ s.notice .zoneLevel (some (byte z.val)) [byte (s.zones.get z).effective.val, byte level.val]
      :: s.exitNotices (s.hazardAt z level))

/-! ## Received frames -/

/-- The bytes of an alarm line, each received with no parity or framing error. -/
def cleanBytes (bytes : List Byte) : List AlarmByte := bytes.map fun b => { val := b, err := false }

/-- The type and payload bytes of a panel frame (the table of R201). -/
def FrameBody.wire : FrameBody → List Byte
  | .zoneReport z st => [1, byte z.val, st.code]
  | .hallMode m => [2, m.code]
  | .supervise => [3]
  | .statusRequest => [4]

/-- A type the panel may send, with the number of payload bytes it fixes (R201). -/
inductive PanelType : Byte → Nat → Prop where
  | zoneReport : PanelType 1 2
  | hallMode : PanelType 2 1
  | supervise : PanelType 3 0
  | statusRequest : PanelType 4 0

/-- Bytes behind a start byte that do not end their frame: the type has not arrived, or the check byte has not (R162). -/
def FrameGoesOn (got : List Byte) : Prop :=
  got.length < 2 ∨ ∃ seq type rest n, got = seq :: type :: rest ∧ PanelType type n ∧ rest.length < n + 1

/-- The bytes behind a start byte carry a good frame (R163, R201): its bytes stand first, without error, with a correct check. Bytes
behind its check are no part of it (log entry 17). -/
def GoodFrame (bytes : List AlarmByte) (seq : Byte) (body : FrameBody) : Prop :=
  ∃ check rest, bytes = cleanBytes (seq :: body.wire ++ [check]) ++ rest
    ∧ (0xA5 :: seq :: body.wire ++ [check]).sum = 0

/-- The bytes behind a start byte end their frame as void (R162, R163): a byte with an error while it goes on, a type that names no
panel frame, a wrong check, or a field of the payload out of range. -/
inductive VoidFrame (bytes : List AlarmByte) : Prop where
  | error (before : List Byte) (b : AlarmByte) (rest : List AlarmByte) : bytes = cleanBytes before ++ b :: rest →
      b.err = true → FrameGoesOn before → VoidFrame bytes
  | type (seq type : Byte) (rest : List AlarmByte) : bytes = cleanBytes [seq, type] ++ rest →
      (∀ n, ¬ PanelType type n) → VoidFrame bytes
  | check (seq type check : Byte) (payload : List Byte) (rest : List AlarmByte) : PanelType type payload.length →
      bytes = cleanBytes (seq :: type :: payload ++ [check]) ++ rest →
      (0xA5 :: seq :: type :: payload ++ [check]).sum ≠ 0 → VoidFrame bytes
  | range (seq type check : Byte) (payload : List Byte) (rest : List AlarmByte) : PanelType type payload.length →
      bytes = cleanBytes (seq :: type :: payload ++ [check]) ++ rest →
      (∀ body : FrameBody, body.wire ≠ type :: payload) → VoidFrame bytes

/-- Five bytes received in a reply window are a good reply (R123, R202): no framing error, the kind byte 80, the address of the frame
sent, a supply field that names one, and a correct check. The bits that should read 0 are not tested. -/
def GoodReply (address : Nat) (bytes : List TrunkByte) (echo : Byte) (lampFault : Bool) (supply : Supply) (tamper : Bool) : Prop :=
  ∃ a status check : Byte,
    bytes = [0x80, a, echo, status, check].map (fun b => { val := b, framing := false })
    ∧ a.toNat = address
    ∧ ([0x80, a, echo, status, check] : List Byte).sum = 0
    ∧ (lampFault = true ↔ 128 ≤ status.toNat)
    ∧ status.toNat / 32 % 4 = supply.code
    ∧ (tamper = true ↔ status.toNat / 16 % 2 = 1)

/-- Some bytes spell an entry of an advert (R203): passage and path length, the cost in bits 19–0, the path four bits an id. Bits 23–20
of the cost and the padding half byte may hold anything. -/
def AdvertEntry.SpeltBy (e : AdvertEntry) (bytes : List Byte) : Prop :=
  ∃ (high : Nat) (pad : HallId), high < 16
    ∧ bytes = byte (16 * e.passage.val + e.path.length) :: byte (16 * high + e.cost / 65536) :: byte (e.cost / 256) :: byte e.cost
      :: packIds (if e.path.length % 2 = 1 then e.path ++ [pad] else e.path)

/-- Some bytes spell an advert (R203): sender and entry count, generation, the entries, and a correct check. -/
def Advert.SpeltBy (a : Advert) (frame : List Byte) : Prop :=
  ∃ (parts : List (List Byte)) (check : Byte), List.Forall₂ AdvertEntry.SpeltBy a.entries parts
    ∧ frame = byte (16 * a.sender.val + a.entries.length) :: word16 a.generation.toNat ++ parts.flatten ++ [check]
    ∧ frame.sum = 0

/-- The bits of a frame on the bus carry the advert `a`, and none of R151's faults: the frame is whole with its stuff bits, its check is
correct, and sender, entry count, passages and path lists are as R151 has them. Bits behind its check are no part of it (log
entry 17). -/
structure GoodAdvert (bits : List Bool) (a : Advert) : Prop where
  whole : ∃ frame rest, bits = stuff 0 (frame.flatMap byteBits) ++ rest ∧ a.SpeltBy frame
  sender : a.sender ≠ 0
  count : a.entries.length ≤ 8
  passages : (a.entries.map AdvertEntry.passage).Pairwise (· < ·)
  cost : ∀ e ∈ a.entries, e.cost ≤ Config.inf
  paths : ∀ e ∈ a.entries, 1 ≤ e.path.length ∧ e.path.length ≤ 4
  ids : ∀ e ∈ a.entries, 0 ∉ e.path ∧ e.path.Nodup
  first : ∀ e ∈ a.entries, e.path.head? = some a.sender

/-! ## Commit checks -/

/-- A defined PASSAGE exit names passage `p`. -/
def Layout.namesPassage (a : Layout) (p : PassageIdx) (e : ExitIdx) : Prop :=
  ∃ x, a.exits.get e = some x ∧ x.kind = .passage ∧ x.passage = some p

/-- Line `l` is the door line of the defined exit `e`. -/
def Layout.namesLine (a : Layout) (l : LineIdx) (e : ExitIdx) : Prop :=
  ∃ x, a.exits.get e = some x ∧ x.doorLine = some l

/-- A layout fails the commit check of an order number (R15) at an index of its table (R16 to R18). -/
inductive Layout.Fails (a : Layout) : Nat → Nat → Prop where
  | segEnds (i : SegIdx) (g : SegRec) : a.segments.get i = some g →
      g.endA = g.endB ∨ a.nodes.get g.endA = none ∨ a.nodes.get g.endB = none → a.Fails 1 i.val
  | degree (i : NodeIdx) (n : NodeRec) (l : List SegIdx) : a.nodes.get i = some n → l.Nodup → 6 < l.length →
      (∀ j ∈ l, ∃ g, a.segments.get j = some g ∧ g.incident i = true) → a.Fails 2 i.val
  | exitNode (i : ExitIdx) (x : ExitCfg) : a.exits.get i = some x →
      (a.nodes.get x.node = none ∨ ∃ j y, j < i ∧ a.exits.get j = some y ∧ y.node = x.node) → a.Fails 3 i.val
  | exitKind (i : ExitIdx) (x : ExitCfg) : a.exits.get i = some x →
      (x.kind = .door ∧ x.passage.isSome = true
        ∨ x.kind = .passage ∧ (x.doorLine.isSome = true ∨ ∀ p, x.passage = some p → a.passages.get p = none)) → a.Fails 4 i.val
  | noExit : (∀ e, a.exits.get e = none) → a.Fails 5 0
  | signAddr (i : SignIdx) (c : SignCfg) : a.signs.get i = some c →
      (∃ j d, j < i ∧ a.signs.get j = some d ∧ d.trunk = c.trunk ∧ d.address = c.address) → a.Fails 6 i.val
  | signRole (i : SignIdx) (c : SignCfg) : a.signs.get i = some c → c.role = .door →
      (∀ e x, a.exits.get e = some x → x.node ≠ c.node) → a.Fails 7 i.val
  | faceMap (i : SignIdx) (c : SignCfg) : a.signs.get i = some c →
      ((∃ v d, (v, d) ∈ c.faceMap ∧ ∀ g, a.segments.get v = some g → g.incident c.node = false)
        ∨ ¬ (c.faceMap.map Prod.fst).Nodup
        ∨ ∃ v g, a.segments.get v = some g ∧ g.incident c.node = true ∧ ∀ d, (v, d) ∉ c.faceMap) → a.Fails 8 i.val
  | hazTable (i : Fin 7) : a.params.hazard.get i.succ < a.params.hazard.get i.castSucc → a.Fails 9 (i.val + 1)
  | beamBands (i : BeamIdx) : (a.beams.get i).enabled = true →
      ¬ ((a.beams.get i).o1 < (a.beams.get i).o2 ∧ (a.beams.get i).o2 < (a.beams.get i).o3
        ∧ (a.beams.get i).l1 ≤ (a.beams.get i).l2 ∧ (a.beams.get i).l2 ≤ (a.beams.get i).l3) → a.Fails 10 i.val
  | passage (i : PassageIdx) (r : PassageCfg) : a.passages.get i = some r →
      ((∀ e, ¬ a.namesPassage i e) ∨ (∃ e f, e ≠ f ∧ a.namesPassage i e ∧ a.namesPassage i f)
        ∨ ¬ a.namesPassage i r.exit ∨ r.neighbour = a.params.hallId) → a.Fails 11 i.val
  | lineUse (i : LineIdx) :
      ((∃ e src, a.namesLine i e ∧ a.lines.get i = .output src) ∨ ∃ e f, e ≠ f ∧ a.namesLine i e ∧ a.namesLine i f) →
      a.Fails 12 i.val

/-! ## A new ACTIVE -/

/-- What the zones hold in `t` once a commit or REINIT from `s` has put a new ACTIVE in force (R21, R39): the panel state and the console
level are kept, the panel level of a zone in PREALARM or ALARM is the new map value, the beam level is gathered anew, and a changed
effective level is stamped. -/
structure ZonesAdopt (s t : State) : Prop where
  kept : ∀ z, (t.zones.get z).panelState = (s.zones.get z).panelState
    ∧ (t.zones.get z).consoleLevel = (s.zones.get z).consoleLevel
  panel : ∀ z, (t.zones.get z).panelLevel =
    if (s.zones.get z).panelState = .prealarm then t.active.params.prealarmLevel
    else if (s.zones.get z).panelState = .alarm then t.active.params.alarmLevel
    else (s.zones.get z).panelLevel
  beam : ∀ z, (t.zones.get z).beamLevel = t.beamLevel z
  effective : ∀ z, (t.zones.get z).effective =
    max (t.zones.get z).panelLevel (max (t.zones.get z).consoleLevel (t.zones.get z).beamLevel)
  time : ∀ z, (t.zones.get z).lastChange =
    if (t.zones.get z).effective = (s.zones.get z).effective then (s.zones.get z).lastChange else s.port.clock

/-- What the exits and lines hold in `t` once a commit or REINIT from `s` has put a new ACTIVE in force (R21, R64, R67, R72): each exit
defined now has its reasons derived against the zones, passages and lines of `t`, with CONSOLE kept where it was defined before; each line
has its new mode, an output driven from its source, an input that was an output at its pin value; and a running grace that has already
run by the new door grace is ELAPSED. -/
structure ExitsAdopt (s t : State) : Prop where
  defined : ∀ e, t.active.exits.has e = true →
    (t.exits.exits.get e).reasons =
      { console := s.active.exits.has e && (s.exits.exits.get e).reasons.console
        door := t.doorHolds e, hazard := t.hazardHolds e, stale := t.staleHolds e, noLink := t.noLinkHolds e }
    ∧ (t.exits.exits.get e).usable = (t.exits.exits.get e).reasons.isEmpty
    ∧ (t.exits.exits.get e).base = t.baseCost e (t.exits.exits.get e).usable
  removed : ∀ e, s.active.exits.has e = true → t.active.exits.has e = false → t.exits.exits.get e = ExitRec.undefined
  absent : ∀ e, s.active.exits.has e = false → t.active.exits.has e = false → t.exits.exits.get e = s.exits.exits.get e
  outputs : ∀ l src, t.active.lines.get l = .output src → t.exits.lines.get l = .output (t.sourceTrue src)
  inputs : ∀ l, (∀ src, t.active.lines.get l ≠ .output src) → t.exits.lines.get l =
    match s.exits.lines.get l with
    | .input v start => .input v start
    | .output _ => .input (s.exits.pins.get l) none
  elapsed : ∀ start, s.exits.grace = .running start → t.exits.grace =
    if 100 * t.active.params.doorGrace ≤ (s.port.clock - start).toNat then .elapsed else .running start
  grace : (∀ start, s.exits.grace ≠ .running start) → t.exits.grace = s.exits.grace

/-- A sign index keeps its head from one layout to another: it is defined in both, at one trunk and address (R20). -/
def Layout.keepsHead (old new : Layout) (i : SignIdx) (c d : SignCfg) : Prop :=
  old.signs.get i = some c ∧ new.signs.get i = some d ∧ c.trunk = d.trunk ∧ c.address = d.address

/-- What the sign line holds in `t` once a commit or REINIT from `s` has put a new ACTIVE in force (R20, R135, R140): a kept head keeps its
counts and status, with the mark set by a changed default and ONLINE lost to a changed threshold; a new head, and one no longer defined,
takes the values of a cold reset, the first default-pending; an exchange whose sign is no longer there has its reply discarded; and the
trunks, from these records and the queue of `t`, start what R127 chooses. -/
structure HeadsAdopt (s t : State) : Prop where
  kept : ∀ i c d, s.active.keepsHead t.active i c d → ∀ h g, h = s.signLine.heads.get i → g = t.signLine.heads.get i →
    g.errors = h.errors ∧ g.misses = h.misses ∧ g.status = h.status
    ∧ g.defaultPending = (h.defaultPending || decide (c.defaultAspect ≠ d.defaultAspect))
    ∧ g.state = if h.state = .online ∧ s.active.params.headThreshold ≠ t.active.params.headThreshold
        ∧ t.active.params.headThreshold ≤ h.errors then .degraded else h.state
  fresh : ∀ i d, t.active.signs.get i = some d → (∀ c, ¬ s.active.keepsHead t.active i c d) →
    ∀ g, g = t.signLine.heads.get i →
    g.state = .absent ∧ g.errors = 0 ∧ g.misses = 0 ∧ g.status = none ∧ g.defaultPending = true
  removed : ∀ i, s.active.signs.has i = true → t.active.signs.has i = false → t.signLine.heads.get i = HeadRec.cold
  absent : ∀ i, s.active.signs.has i = false → t.active.signs.has i = false → t.signLine.heads.get i = s.signLine.heads.get i
  flight : ∀ k x, (s.signLine.trunks.get k).exchange = some x →
    (t.signLine.trunks.get k).exchange = some x ∧ (∃ c, t.active.signs.get x.sign = some c ∧ c.trunk = k ∧ c.address = x.address)
    ∨ (t.signLine.trunks.get k).exchange = some { x with discard := true }
      ∧ ¬ ∃ c, t.active.signs.get x.sign = some c ∧ c.trunk = k ∧ c.address = x.address
  started : t.signLine = ({ t with signLine := {
    trunks := Table.ofFn fun k =>
      { s.signLine.trunks.get k with exchange := (s.signLine.trunks.get k).exchange.map (t.active.markExchange k) }
    queue := t.signLine.queue
    heads := Table.ofFn fun i => headUnder (s.active.signs.get i) (t.active.signs.get i)
      s.active.params.headThreshold t.active.params.headThreshold (s.signLine.heads.get i) } }.kickAll).signLine

/-! ## The laws of the blocks -/

/-- The Console Port at every moment: the notice queue holds at most 64 notices in time order, none from the future (R188); a
flag in the snapshot is a flag that is set (R186); READY is asserted exactly as R177 says; a response is held in HELD and
perhaps in FETCHING; the buffer holds what its state calls for. -/
structure PortLaw (s : State) : Prop where
  room : s.port.notices.length ≤ 64
  order : s.port.notices.Pairwise fun a b => a.time ≤ b.time
  past : ∀ n ∈ s.port.notices, n.time ≤ s.port.clock
  snapshot : ∀ f, s.port.snapshot.has f = true → s.port.flags.has f = true
  ready : s.port.ready = true ↔
    s.loaded = true ∧ (s.port.state = .free ∨ s.port.state = .held) ∧ s.port.awaiting = false ∧ s.port.lost = false
  awaiting : s.port.awaiting = true →
    s.loaded = true ∧ (s.port.state = .free ∨ s.port.state = .held) ∧ s.port.lost = false
  clocked : s.port.state = .receiving ∨ s.port.state = .fetching → s.port.lost = false
  unloaded : s.loaded = false → s.port.state = .free
  held : s.port.state = .held → s.port.response.isSome = true
  unheld : s.port.state = .free ∨ s.port.state = .receiving ∨ s.port.state = .taking → s.port.response = none
  receiving : s.port.state = .receiving → ∃ n : Byte, n ≠ 0xFF ∧ s.port.buffer = [n]
  taking : s.port.state = .taking →
    checkOk s.port.buffer = true ∧ 2 ≤ (s.port.buffer.headD 0).toNat ∧ (s.port.buffer.headD 0).toNat ≤ 254
      ∧ s.port.buffer.length = (s.port.buffer.headD 0).toNat + 1
  empty : s.port.state = .free ∨ s.port.state = .held ∨ s.port.state = .fetching → s.port.buffer = []

/-- The Hazard Unit at every moment: each zone's effective level is the greatest of its three inputs (R29). -/
def ZoneLaw (s : State) : Prop :=
  ∀ z, (s.zones.get z).effective =
    max (s.zones.get z).panelLevel (max (s.zones.get z).consoleLevel (s.zones.get z).beamLevel)

/-- The beam levels at every moment: each zone holds the greatest level contributed by the channels that ACTIVE enables and
configures for it, 0 when there is none (R28). -/
def BeamLevelLaw (s : State) : Prop := ∀ z, (s.zones.get z).beamLevel = s.beamLevel z

/-- The Beam Unit at every moment (R40, R41, R50, R51): a channel is DISABLED exactly while ACTIVE does not enable it, its
history holds at most four readings and its working value is their mean, its corrected value is at most that, a warm-up start is
held in WARMING alone, and the level and the decay hold are as its state allows. -/
structure BeamLaw (s : State) : Prop where
  disabled : ∀ c, (s.active.beams.get c).enabled = false ↔ (s.beams.get c).state = .disabled
  emptied : ∀ c, (s.beams.get c).state = .disabled → s.beams.get c = BeamRec.cold
  history : ∀ c, (s.beams.get c).history.length ≤ 4
  readings : ∀ c, ∀ r ∈ (s.beams.get c).history, r ≤ 4095
  working : ∀ c, (s.beams.get c).working =
    if (s.beams.get c).history.length = 4 then some ((s.beams.get c).history.sum / 4) else none
  corrected : ∀ c, (s.beams.get c).corrected.isSome = (s.beams.get c).working.isSome
  least : ∀ c v w, (s.beams.get c).corrected = some v → (s.beams.get c).working = some w → v ≤ w
  warmStart : ∀ c, (s.beams.get c).warmStart.isSome = true ↔ (s.beams.get c).state = .warming
  warming : ∀ c, (s.beams.get c).state = .warming → (s.beams.get c).level = 0
  blocked : ∀ c, (s.beams.get c).state = .blocked → (s.beams.get c).level.val ≤ 1
  decay : ∀ c, (s.beams.get c).decay.isSome = true → (s.beams.get c).state = .measuring

/-- The lines and the Door Grace at every moment: a line's record is an output's exactly while ACTIVE makes it an OUTPUT (R67),
an input whose debounced value is not its pin value is being debounced (R63), and the Door Grace is IDLE exactly in STANDBY
(R64). -/
structure LineLaw (s : State) : Prop where
  mode : ∀ l, (∃ d, s.exits.lines.get l = .output d) ↔ ∃ src, s.active.lines.get l = .output src
  debounce : ∀ l v start, s.exits.lines.get l = .input v start → (start.isSome = true ↔ s.exits.pins.get l ≠ v)
  grace : s.exits.grace = .idle ↔ s.alarm.mode = .standby

/-- The outputs at every moment: a line that ACTIVE makes an OUTPUT is driven active exactly while its source is true (R68). -/
def OutputLaw (s : State) : Prop :=
  ∀ l src d, s.active.lines.get l = .output src → s.exits.lines.get l = .output d → d = s.sourceTrue src

/-- The Exit Unit at every moment: a defined exit is usable exactly while its reason set is empty (R57), its base source cost
is the one R58 forms, and each derived reason stands exactly while its condition holds (R61, R62, R65); an exit that is not
defined has the record R56 gives it. -/
structure ExitLaw (s : State) : Prop where
  undefined : ∀ e, s.active.exits.get e = none → s.exits.exits.get e = ExitRec.undefined
  usable : ∀ e, s.active.exits.has e = true →
    (s.exits.exits.get e).usable = (s.exits.exits.get e).reasons.isEmpty
  base : ∀ e, s.active.exits.has e = true →
    (s.exits.exits.get e).base = s.baseCost e (s.exits.exits.get e).usable
  hazard : ∀ e, s.active.exits.has e = true → (s.exits.exits.get e).reasons.hazard = s.hazardHolds e
  stale : ∀ e, s.active.exits.has e = true → (s.exits.exits.get e).reasons.stale = s.staleHolds e
  noLink : ∀ e, s.active.exits.has e = true → (s.exits.exits.get e).reasons.noLink = s.noLinkHolds e
  door : ∀ e, s.active.exits.has e = true → (s.exits.exits.get e).reasons.door = s.doorHolds e

/-- The Aspect Unit at every moment: a shown segment is held exactly while an arrow is shown, a candidate only then (R101), and
the modifier of every aspect follows the hall mode (R112). -/
structure SignLaw (s : State) : Prop where
  segment : ∀ i, (s.aspect.signs.get i).segment.isSome = true ↔
    ∃ d, (s.aspect.signs.get i).shown.aspect = .arrow d
  candidate : ∀ i, (s.aspect.signs.get i).candidate.isSome = true →
    ∃ d, (s.aspect.signs.get i).shown.aspect = .arrow d
  modifier : ∀ i, (s.aspect.signs.get i).shown.modifier =
    match (s.aspect.signs.get i).shown.aspect with
    | .arrow _ => litModifier s.alarm.mode
    | .exitHere => litModifier s.alarm.mode
    | .cross => .steady
    | .dark => .steady

/-- The change queue and the heads at every moment: no sign is queued twice (R129), a LOST head's sign is not queued (R129,
R131), and the counts stay in their ranges (R132, R133, R134). -/
structure HeadLaw (s : State) : Prop where
  once : s.signLine.queue.Nodup
  lost : ∀ i, (s.signLine.heads.get i).state = .lost → i ∉ s.signLine.queue
  errors : ∀ i, (s.signLine.heads.get i).errors ≤ 255
  misses : ∀ i, (s.signLine.heads.get i).misses ≤ 4
  silent : ∀ i, (s.signLine.heads.get i).state = .lost ↔ (s.signLine.heads.get i).misses = 4

/-- The trunks at every moment (R120, R121): a hold-off start is held in SHUTDOWN alone, a trunk in SHUTDOWN carries no exchange,
and the driver of a trunk in service is on. -/
structure TrunkLaw (s : State) : Prop where
  holdOff : ∀ t, (s.signLine.trunks.get t).holdOff.isSome = true ↔ (s.signLine.trunks.get t).state = .shutdown
  silent : ∀ t, (s.signLine.trunks.get t).state = .shutdown → (s.signLine.trunks.get t).exchange = none
  driven : ∀ t, (s.signLine.trunks.get t).state = .inService → (s.signLine.trunks.get t).driverOn = true

/-- The Boundary Link Controller at every moment: a passage without a record in ACTIVE, or any passage under hall id 0, holds its
reset values (R141, R148); a path list that names this hall leaves the remote cost INF (R154); a passage that was never heard
is STALE; with hall id 0 nothing is pending or owed (R148); the error count stays in its range (R151). -/
structure PassageLaw (s : State) : Prop where
  absent : ∀ p, s.active.passages.get p = none → s.boundary.passages.get p = PassageRec.cold
  inactive : s.active.params.hallId = 0 → ∀ p, s.boundary.passages.get p = PassageRec.cold
  loop : ∀ p path, (s.boundary.passages.get p).path = some path → s.active.params.hallId ∈ path →
    (s.boundary.passages.get p).remote = Config.inf
  neighbour : ∀ p c path, s.active.passages.get p = some c → (s.boundary.passages.get p).path = some path →
    path.head? = some c.neighbour ∧ path.length ≤ 4
  range : ∀ p, (s.boundary.passages.get p).remote ≤ Config.inf
  heard : ∀ p, (s.boundary.passages.get p).state = .heard → (s.boundary.passages.get p).lastHeard.isSome = true
  pending : s.active.params.hallId = 0 → s.boundary.waiting = none ∧ s.boundary.owed = false
  errors : s.boundary.errors ≤ 65535

/-- The Alarm Line Interface at every moment: the intake holds at most eight frames and the handler is TAKING exactly while it
holds one (R161, R168), a LIVE line's supervision timer runs (R165), the link state is the one R166 derives, a request waits
only for a transmitter that is SENDING (R173), and the counts stay in their ranges (R160). -/
structure AlarmLaw (s : State) : Prop where
  intake : s.alarm.intake.length ≤ 8
  handler : s.alarm.handler = .taking ↔ s.alarm.intake ≠ []
  timer : ∀ l, (s.alarm.line l).state = .live → (s.alarm.line l).expiry.isSome = true
  link : s.alarm.link = linkOf s.active.params.healthRule s.alarm.lineA.state s.alarm.lineB.state
  request : ∀ l, (s.alarm.line l).request.isSome = true → (s.alarm.line l).transmitter.isSome = true
  errors : ∀ l, (s.alarm.line l).errors ≤ 65535
  overruns : ∀ l, (s.alarm.line l).overruns ≤ 65535

/-- The engine and the field at every moment: the last generation adopted is the engine's counter, and a published field carries
it (R97, R101); a run in flight has a start time, and so has a refresh that is due (R73, R75). -/
structure FieldLaw (s : State) : Prop where
  generation : s.aspect.lastGeneration = s.engine.generation
  published : ∀ p, s.aspect.published = some p → p.field.generation = s.aspect.lastGeneration
  started : s.engine.run.isSome = true → s.engine.lastStart.isSome = true
  refresh : s.engine.refreshDue = true → s.engine.run.isSome = true

/-- The store at every moment (R194): a copy is held exactly while a store is in progress, and while one erases or writes the
image is not valid (R196, R197). -/
structure StoreLaw (s : State) : Prop where
  copy : s.store.copy.isSome = true ↔ s.store.state.inProgress = true
  erased : s.store.state = .erasing ∨ s.store.state = .writing → s.store.image = .erased

/-- The banks and the store copy at every moment: every item stays in the ranges its table gives (R10, R11). -/
structure LayoutLaw (s : State) : Prop where
  active : s.layout.active.InRange
  staging : s.layout.staging.InRange
  copy : ∀ a, s.store.copy = some a → a.InRange

/-- Between a cold reset and the load event (R198): both banks are empty and every block but the port, the clock, the pins, the
trunk drivers, the duplicate-id watch and the boundary link's error count is as the reset left it. -/
structure AwaitingLoad (s : State) : Prop where
  banks : s.layout = { active := Layout.empty, staging := Layout.empty }
  zones : s.zones = Table.replicate 48 ZoneRec.cold
  beams : s.beams = Table.replicate 8 BeamRec.cold
  exits : s.exits.exits = Table.replicate 24 ExitRec.undefined
  grace : s.exits.grace = .idle
  engine : s.engine =
    { run := none, changePending := false, refreshDue := false, lastStart := none, generation := 0 }
  aspect : s.aspect =
    { published := none, lastGeneration := 0, signs := Table.replicate 192 SignRec.dark, egressSet := [] }
  queue : s.signLine.queue = []
  heads : s.signLine.heads = Table.replicate 192 HeadRec.cold
  exchanges : ∀ t, (s.signLine.trunks.get t).exchange = none
  passages : s.boundary.passages = Table.replicate 8 PassageRec.cold
  adverts : s.boundary.lastBuild = none ∧ s.boundary.owed = false ∧ s.boundary.waiting = none
    ∧ s.boundary.inFlight = none
  alarm : s.alarm =
    { lineA := AlarmLineRec.cold, lineB := AlarmLineRec.cold, intake := [], handler := .idle, lastSeq := none
      mode := .standby, link := .lost }
  store : s.store.state = .idle ∧ s.store.copy = none
  port : s.port.state = .free ∧ s.port.ready = false ∧ s.port.awaiting = false

end Machine
end Sys2Proof
end

