-- ==== Sys2Proof/Certificates/Slice0/Obligations.lean ====
section
/-!
DEFINITION. The statements about the E192 that are to be proved: what a step does, what each command does and leaves alone, what the
computations of a run give, what the frames carry, and the laws every step keeps. Each docstring names the rules it formalises.
-/

open Sys2Proof Sys2Proof.Machine

/-! ## The machine -/

/-- A step takes the command at the front of the queue and runs it on the rest; with no command waiting the part idles (the model's
choice, log entry 4). -/
def Obligations.StepTakesFrontCommand : Prop :=
  (∀ (c : Instr) (rest : List Instr) (s : State), step (s.withPending (c :: rest)) = exec c (s.withPending rest))
  ∧ ∀ s : State, s.pending = [] → step s = .next s

/-- Every command completes in every state, and leaves the commands that wait behind it as they are. That a command whose event cannot take
place changes nothing, and that none stops the part, is the model's choice (log entries 6 and 28). -/
def Obligations.EveryCommandCompletes : Prop :=
  ∀ (c : Instr) (s : State), ∃ t, exec c s = .next t ∧ t.pending = s.pending

/-- The values a cold reset leaves, block by block (R22, R38, R54, R71, R99, R118, R139, R157, R175, R191, R194), and what COLD_RESET
keeps: the pins, the image unless a store was erasing or writing it (R197), and the model's own counter and queue. That the pins are
kept and the debounced values are the pin values until the load event is the model's choice (log entries 3 and 5). -/
def Obligations.ResetValues : Prop :=
  State.reset.layout = { active := Layout.empty, staging := Layout.empty }
  ∧ Layout.empty.fields .params = [0, 8, 10, 14, 20, 32, 64, 128, 255, 6, 0, 6, 5, 3, 3, 6, 5, 0, 32]
  ∧ (∀ z, State.reset.zones.get z =
      { panelState := .normal, panelLevel := 0, consoleLevel := 0, beamLevel := 0, effective := 0, lastChange := 0 })
  ∧ (∀ c, State.reset.beams.get c =
      { state := .disabled, level := 0, history := [], working := none, corrected := none, decay := none, warmStart := none })
  ∧ (∀ e, State.reset.exits.exits.get e = { reasons := ReasonSet.none, usable := false, base := Config.inf })
  ∧ State.reset.exits.grace = .idle
  ∧ State.reset.engine =
      { run := none, changePending := false, refreshDue := false, lastStart := none, generation := 0 }
  ∧ State.reset.aspect.published = none ∧ State.reset.aspect.lastGeneration = 0 ∧ State.reset.aspect.egressSet = []
  ∧ (∀ i, State.reset.aspect.signs.get i = { shown := ⟨.dark, .steady⟩, segment := none, candidate := none })
  ∧ (∀ t, State.reset.signLine.trunks.get t =
      { state := .inService, driverOn := true, exchange := none, roundRobin := 0, holdOff := none })
  ∧ State.reset.signLine.queue = []
  ∧ (∀ i, State.reset.signLine.heads.get i =
      { state := .absent, errors := 0, misses := 0, defaultPending := false, seq := false, lastSent := none, status := none })
  ∧ (∀ p, State.reset.boundary.passages.get p =
      { state := .stale, remote := Config.inf, path := none, lastHeard := none, lastGeneration := none })
  ∧ State.reset.boundary.errors = 0 ∧ State.reset.boundary.lastBuild = none ∧ State.reset.boundary.owed = false
  ∧ State.reset.boundary.waiting = none ∧ State.reset.boundary.inFlight = none ∧ State.reset.boundary.watch = .clear
  ∧ (∀ l, State.reset.alarm.line l =
      { receiver := .hunt, state := .silent, expiry := none, errors := 0, overruns := 0, transmitter := none, request := none })
  ∧ State.reset.alarm.intake = [] ∧ State.reset.alarm.handler = .idle ∧ State.reset.alarm.lastSeq = none
  ∧ State.reset.alarm.mode = .standby ∧ State.reset.alarm.link = .lost
  ∧ State.reset.port =
      { state := .free, ready := false, awaiting := false, buffer := [], response := none, lost := false
        flags := Flags.none, snapshot := Flags.none, notices := [], clock := 0 }
  ∧ State.reset.store.state = .idle ∧ State.reset.store.copy = none ∧ State.reset.loaded = false
  ∧ ∀ s : State, exec .coldReset s = .next { State.reset with
      exits := { State.reset.exits with
        pins := s.exits.pins
        lines := Table.ofFn fun l => .input (s.exits.pins.get l) none }
      store := { State.reset.store with
        image := if s.store.state = .erasing ∨ s.store.state = .writing then .erased else s.store.image }
      freeCount := s.freeCount
      pending := s.pending }

/-- LOAD_EVENT after a cold reset (R198, R54, R71, R139): the banks take the image's layout or stay empty with NO_LAYOUT posted, every
block takes up ACTIVE, both supervision timers run, change pending is set, READY is asserted unless a lost transfer is running, and each
trunk starts the frame that R127 chooses (TrunksShutAndReturn says which). -/
def Obligations.LoadEventTakesUpTheImage : Prop :=
  ∀ s : State, s.loaded = false → ∃ t, exec .loadEvent s = .next t
    ∧ t.layout = { active := s.store.image.load.getD Layout.empty, staging := s.store.image.load.getD Layout.empty }
    ∧ t.store = { s.store with state := if s.store.image.valid then .idle else .invalid }
    ∧ t.loaded = true
    ∧ t.port = (match s.store.image.load with
        | some _ => { s.port with ready := !s.port.lost }
        | none => { s.port with ready := !s.port.lost }.post
            { kind := .noLayout, time := s.port.clock, subject := none, value := [] })
    ∧ (∀ c, t.beams.get c =
        if (t.active.beams.get c).enabled then
          { BeamRec.cold with state := .warming, warmStart := some s.port.clock }
        else BeamRec.cold)
    ∧ (∀ l, t.exits.lines.get l =
        match t.active.lines.get l with
        | .output src => .output (t.sourceTrue src)
        | .inputPlain => .input (s.exits.pins.get l) none
        | .inputDoor => .input (s.exits.pins.get l) none)
    ∧ (∀ e, t.exits.exits.get e =
        if t.active.exits.has e then
          let reasons : ReasonSet :=
            { console := false, door := t.doorHolds e, hazard := t.hazardHolds e, stale := t.staleHolds e
              noLink := t.noLinkHolds e }
          { reasons := reasons, usable := reasons.isEmpty, base := t.baseCost e reasons.isEmpty }
        else { reasons := ReasonSet.none, usable := false, base := Config.inf })
    ∧ (∀ i, (t.signLine.heads.get i).defaultPending = t.active.signs.has i)
    ∧ t.signLine = ({ t with signLine := { s.signLine with
        heads := Table.ofFn fun i => { s.signLine.heads.get i with defaultPending := t.active.signs.has i } } }.kickAll).signLine
    ∧ (∀ l, t.alarm.line l = { s.alarm.line l with
        expiry := some (s.port.clock + BitVec.ofNat 32 (50 * (t.active.params.supervision.val + 1))) })
    ∧ t = { s with
        layout := t.layout, store := t.store, loaded := t.loaded, port := t.port, beams := t.beams
        exits := { s.exits with exits := t.exits.exits, lines := t.exits.lines }
        engine := { s.engine with changePending := true }
        signLine := { s.signLine with trunks := t.signLine.trunks, heads := t.signLine.heads }
        alarm := { s.alarm with lineA := t.alarm.lineA, lineB := t.alarm.lineB } }

/-- The hall clock (R190): a tick adds 1; the tick that takes the count from 4,294,967,295 to 0 sets the times of the queued notices
to 0 and posts CLOCK_WRAP, or sets NOTICE_OVERFLOW at a full queue. CLOCK_WRAP names that same tick (the model's choice, log entry 7). -/
def Obligations.ClockTicks : Prop :=
  (∀ s : State, s.port.clock ≠ 0xFFFFFFFF →
    exec .hallClockTick s = .next { s with port := { s.port with clock := s.port.clock + 1 } })
  ∧ (∀ s : State, s.port.clock = 0xFFFFFFFF → s.port.notices.length < 64 →
    exec .hallClockTick s = exec .clockWrap s
    ∧ exec .clockWrap s = .next { s with port := { s.port with
        clock := 0
        notices := s.port.notices.map (fun n => { n with time := 0 })
          ++ [{ kind := .clockWrap, time := 0, subject := none, value := [] }] } })
  ∧ ∀ s : State, s.port.clock = 0xFFFFFFFF → 64 ≤ s.port.notices.length →
    exec .hallClockTick s = exec .clockWrap s
    ∧ exec .clockWrap s = .next { s with port := { s.port with
        clock := 0
        notices := s.port.notices.map (fun n => { n with time := 0 })
        flags := { s.port.flags with noticeOverflow := true }
        snapshot := { s.port.snapshot with noticeOverflow := false } } }

/-! ## The console port -/

/-- The first clocks and the first byte of a transfer (R178, R181, R182, R183). -/
def Obligations.TransfersBegin : Prop :=
  (∀ s : State, s.port.ready = true →
    exec .transferFirstClock s = .next { s with port := { s.port with ready := false, awaiting := true } })
  ∧ (∀ s : State, s.port.ready = false → s.port.awaiting = false → s.port.state ≠ .receiving → s.port.state ≠ .fetching →
    exec .lostTransfer s = .next { s with port := { s.port with
      lost := true
      flags := { s.port.flags with requestLost := true }
      snapshot := { s.port.snapshot with requestLost := false } } })
  ∧ (∀ s : State, s.port.awaiting = true →
    exec (.firstByte 0xFF) s = .next { s with port := { s.port with state := .fetching, awaiting := false } })
  ∧ (∀ (s : State) (n : Byte), s.port.awaiting = true → n ≠ 0xFF → s.port.response = none →
    exec (.firstByte n) s = .next { s with port := { s.port with
      state := .receiving, awaiting := false, buffer := [n] } })
  ∧ ∀ (s : State) (n : Byte), s.port.awaiting = true → n ≠ 0xFF → s.port.response.isSome = true →
    exec (.firstByte n) s = .next { s with port := { s.port with
      state := .receiving, awaiting := false, buffer := [n], response := none
      flags := { s.port.flags with responseDropped := true }
      snapshot := { s.port.snapshot with responseDropped := false } } }

/-- The end of a request (R179): a length of 2 or more with a correct Sum Check is taken; any other request is refused with CHECK,
CHECK_SEEN set and an empty body. A length of 0 ends with no byte (the model's choice, log entry 8). -/
def Obligations.RequestEnds : Prop :=
  ∀ (s : State) (n : Byte) (bytes : List Byte), s.port.state = .receiving → s.port.buffer = [n] → bytes.length = n.toNat →
    ((2 ≤ n.toNat ∧ (n :: bytes).sum = 0) →
      exec (.requestEnd bytes) s = .next { s with port := { s.port with state := .taking, buffer := n :: bytes } })
    ∧ ((n.toNat < 2 ∨ (n :: bytes).sum ≠ 0) →
      exec (.requestEnd bytes) s = .next { s with port := { s.port with
        state := .held
        ready := !s.port.lost
        buffer := []
        response := some { status := .check, body := [] }
        flags := { s.port.flags with checkSeen := true }
        snapshot := { s.port.snapshot with checkSeen := false } } })

/-- The gap limit ends whatever transfer is running (R178, R181, R182), and the last byte of the held response frees the port (R182). The
part clocks out the held response in a fetch, or 00 where none is held, and the idle byte FF behind it and in every other state (R204). -/
def Obligations.TransfersEnd : Prop :=
  (∀ s : State, s.port.lost = true →
    exec .consoleGapLimit s = .next { s with port := { s.port with
      lost := false
      ready := s.loaded && decide (s.port.state = .free ∨ s.port.state = .held) } })
  ∧ (∀ s : State, s.port.lost = false → s.port.awaiting = true →
    exec .consoleGapLimit s = .next { s with port := { s.port with awaiting := false, ready := true } })
  ∧ (∀ s : State, s.port.lost = false → s.port.awaiting = false → s.port.state = .receiving →
    exec .consoleGapLimit s = .next { s with port := { s.port with
      state := .held
      ready := true
      buffer := []
      response := some { status := .check, body := [] }
      flags := { s.port.flags with checkSeen := true }
      snapshot := { s.port.snapshot with checkSeen := false } } })
  ∧ (∀ s : State, s.port.lost = false → s.port.awaiting = false → s.port.state = .fetching →
    exec .consoleGapLimit s = .next { s with port := { s.port with
      state := if s.port.response.isSome then .held else .free
      ready := true } })
  ∧ (∀ s : State, s.port.state = .fetching → s.port.response.isSome = true →
    exec .fetchEnd s = .next { s with port := { s.port with state := .free, ready := true, response := none } })
  ∧ (∀ (p : Port) (k : Nat), p.state ≠ .fetching → p.clocksOut k = 0xFF)
  ∧ (∀ (p : Port) (r : Response) (k : Nat), p.state = .fetching → p.response = some r →
    (∀ b, r.bytes[k]? = some b → p.clocksOut k = b) ∧ (r.bytes.length ≤ k → p.clocksOut k = 0xFF))
  ∧ (∀ r : Response, r.bytes = byte (r.body.length + 2) :: r.status.code :: r.body
    ++ [sumCheck (byte (r.body.length + 2) :: r.status.code :: r.body)])
  ∧ ∀ (p : Port) (k : Nat), p.state = .fetching → p.response = none → p.clocksOut k = if k = 0 then 0x00 else 0xFF

/-- A request in TAKING whose code names none is answered UNKNOWN with an empty body, and one whose body has the wrong length is refused
with RANGE, in every hall mode and nothing else changed (R180, R204). Which references name an item
(`writeRef`) rests, for table byte 0, on the model's choice (log entry 11). -/
def Obligations.MalformedRequestsAreRefused : Prop :=
  (∀ c ∈ requests, ∀ (s : State) (code : Byte) (body : List Byte), (code = 0 ∨ 16 < code.toNat) → s.asks code body →
    exec c s = .next (s.answered .unknown []))
  ∧ (∀ q ∈ ([(.readStatus, 0x01, 0), (.fetchNotices, 0x02, 1), (.readRoute, 0x03, 2), (.readExits, 0x04, 0),
      (.readZones, 0x05, 2), (.readSigns, 0x06, 2), (.readLines, 0x07, 0), (.readLayout, 0x08, 4),
      (.stageFromActive, 0x0A, 0), (.commitLayout, 0x0B, 0), (.setZoneLevel, 0x0C, 2), (.setExitClosure, 0x0D, 2),
      (.calibrateBeam, 0x0E, 1), (.storeLayout, 0x0F, 0), (.reinit, 0x10, 0)] : List (Instr × Byte × Nat)),
    ∀ (s : State) (body : List Byte), s.asks q.2.1 body → body.length ≠ q.2.2 →
      exec q.1 s = .next (s.answered .range []))
  ∧ (∀ (s : State) (body : List Byte), s.asks 0x09 body → writeRef body = none →
    exec .writeLayout s = .next (s.answered .range [0]))
  ∧ ∀ (s : State) (body : List Byte) (ref : ItemRef), s.asks 0x09 body → writeRef body = some ref →
    body.length ≠ 3 + ref.size (body.drop 3) → exec .writeLayout s = .next (s.answered .range [0])

/-- READ_STATUS returns the summary and takes the set flags as the snapshot (R184); FETCH_NOTICES returns and removes up to N of the
oldest notices and clears the flags of the snapshot (R187). -/
def Obligations.StatusAndNoticesAreRead : Prop :=
  (∀ s : State, s.asks 0x01 [] → exec .readStatus s = .next { s with port := { s.port.answered .ok
      ([s.alarm.mode.code] ++ word16 s.aspect.lastGeneration.toNat
        ++ [if s.aspect.published.isSome then 1 else 0, s.alarm.link.code, s.store.state.code,
          byte s.port.notices.length, s.engine.code]
        ++ ticksBytes s.port.clock ++ [s.port.flags.code]) with
      snapshot := s.port.flags } })
  ∧ (∀ (s : State) (n : Byte), s.asks 0x02 [n] → 1 ≤ n.toNat → n.toNat ≤ 8 →
    exec .fetchNotices s = .next { s with port := { s.port.answered .ok
        (byte (min n.toNat s.port.notices.length)
          :: (s.port.notices.take n.toNat).flatMap Notice.bytes ++ [byte (s.port.notices.length - n.toNat)]) with
      notices := s.port.notices.drop n.toNat
      flags := s.port.flags.diff s.port.snapshot
      snapshot := Flags.none } })
  ∧ ∀ (s : State) (n : Byte), s.asks 0x02 [n] → (n = 0 ∨ 8 < n.toNat) →
    exec .fetchNotices s = .next (s.answered .range [])

/-- READ_ROUTE, READ_ZONES and READ_SIGNS answer the records of a range that lies in its table, each at its place in the body (R185,
R37, R116, R205), refuse any other range with RANGE, and change nothing but the port. -/
def Obligations.RangesAreRead : Prop :=
  (∀ (s : State) (first count : Byte), s.asks 0x03 [first, count] →
    if 1 ≤ count.toNat ∧ count.toNat ≤ 32 ∧ first.toNat + count.toNat ≤ 256 then
      ∃ body, exec .readRoute s = .next (s.answered .ok body)
        ∧ body.length = 7 + 6 * count.toNat
        ∧ body.take 7 = word16 s.aspect.lastGeneration.toNat
            ++ (match s.aspect.published with
              | none => [0, 0, 0, 0, 0]
              | some p => ticksBytes p.field.time ++ [1])
        ∧ ∀ n : NodeIdx, first.toNat ≤ n.val → n.val < first.toNat + count.toNat →
          (body.drop (7 + 6 * (n.val - first.toNat))).take 6 =
            match s.aspect.published with
            | none => [0x0F, 0xFF, 0xFF, 0xFF, 0xFF, 0xFF]
            | some p => word24 (p.field.nodes.get n).cost ++ segmentCode (p.field.nodes.get n).next
                ++ [optByte (p.field.nodes.get n).route]
    else exec .readRoute s = .next (s.answered .range []))
  ∧ (∀ (s : State) (first count : Byte), s.asks 0x05 [first, count] →
    if 1 ≤ count.toNat ∧ count.toNat ≤ 24 ∧ first.toNat + count.toNat ≤ 48 then
      ∃ body, exec .readZones s = .next (s.answered .ok body)
        ∧ body.length = 9 * count.toNat
        ∧ ∀ z : ZoneIdx, first.toNat ≤ z.val → z.val < first.toNat + count.toNat →
          (body.drop (9 * (z.val - first.toNat))).take 9 = (s.zones.get z).bytes
    else exec .readZones s = .next (s.answered .range []))
  ∧ ∀ (s : State) (first count : Byte), s.asks 0x06 [first, count] →
    if 1 ≤ count.toNat ∧ count.toNat ≤ 16 ∧ first.toNat + count.toNat ≤ 192 then
      ∃ body, exec .readSigns s = .next (s.answered .ok body)
        ∧ body.length = 13 * count.toNat
        ∧ ∀ i : SignIdx, first.toNat ≤ i.val → i.val < first.toNat + count.toNat →
          (body.drop (13 * (i.val - first.toNat))).take 13 = s.signEntry i
    else exec .readSigns s = .next (s.answered .range [])

/-- READ_EXITS and READ_LINES answer every record, each at its place in a body of 240 and of 222 bytes (R70, R69, R159, R205), and
change nothing but the port. The loads and the penalty are those of the published field, and 0 while there is none and for an exit that
ACTIVE does not define; the penalty 0 of such an exit, and the neighbour 0 and R_p INF of a passage with no record, are the model's choice
(log entries 33 and 27). -/
def Obligations.ExitsAndLinesAreRead : Prop :=
  (∀ s : State, s.asks 0x04 [] → ∃ body, exec .readExits s = .next (s.answered .ok body)
    ∧ body.length = 240
    ∧ ∀ e : ExitIdx, (body.drop (10 * e.val)).take 10 =
      s.exitCode e :: word24 (s.exits.exits.get e).base ++ word16 (s.publishedExit e).pass1Load
        ++ word16 (s.publishedExit e).penalty ++ word16 (s.publishedExit e).finalLoad)
  ∧ (∀ (s : State) (e : ExitIdx) (p : Published), s.aspect.published = some p → s.active.exits.has e = true →
    s.publishedExit e = p.field.exits.get e)
  ∧ (∀ (s : State) (e : ExitIdx), s.aspect.published = none ∨ s.active.exits.has e = false →
    s.publishedExit e = { pass1Load := 0, penalty := 0, finalLoad := 0 })
  ∧ ∀ s : State, s.asks 0x07 [] → ∃ body, exec .readLines s = .next (s.answered .ok body)
    ∧ body.length = 222
    ∧ (∀ l : LineIdx, (body.drop (3 * l.val)).take 3 = (s.active.lines.get l).bytes
        ++ [match s.exits.lines.get l with
            | .input v _ => boolByte v
            | .output d => boolByte d])
    ∧ (body.drop 96).take 12 = s.alarm.lineA.bytes ++ s.alarm.lineB.bytes
        ++ [(s.signLine.trunks.get 0).state.code, (s.signLine.trunks.get 1).state.code]
    ∧ (∀ p : PassageIdx, (body.drop (108 + 14 * p.val)).take 14 = s.passageEntry p)
    ∧ body.drop 220 = word16 s.boundary.errors

/-! ## The layout banks -/

/-- READ_LAYOUT answers the fields of an item of either bank after the bank byte and the item's reference, and refuses a bank or a
reference out of range with RANGE (R12, R204); it changes nothing but the port. That a reference with table byte 0 and an index other than 0
is out of range is the model's choice (log entry 11). -/
def Obligations.LayoutIsRead : Prop :=
  (∀ (s : State) (body : List Byte) (ref : ItemRef), s.asks 0x08 body → body = 0 :: ref.bytes →
    exec .readLayout s = .next (s.answered .ok (body ++ s.layout.active.fields ref)))
  ∧ (∀ (s : State) (body : List Byte) (ref : ItemRef), s.asks 0x08 body → body = 1 :: ref.bytes →
    exec .readLayout s = .next (s.answered .ok (body ++ s.layout.staging.fields ref)))
  ∧ ∀ (s : State) (bank table hi lo : Byte), s.asks 0x08 [bank, table, hi, lo] →
    (1 < bank.toNat ∨ ItemRef.read table.toNat (read16 hi lo) = none) →
    exec .readLayout s = .next (s.answered .range [])

/-- WRITE_LAYOUT replaces one item of STAGING whole, or reports the first field out of range with nothing written (R10, R11);
STAGE_FROM_ACTIVE makes STAGING a copy of ACTIVE (R13). Neither has a mode or a store that refuses it. -/
def Obligations.StagingIsWritten : Prop :=
  (∀ (s : State) (body : List Byte) (ref : ItemRef) (item : Item), s.asks 0x09 body → writeRef body = some ref →
    body.length = 3 + ref.size (body.drop 3) → readItem ref (body.drop 3) = .ok item →
    exec .writeLayout s = .next { s.answered .ok [] with
      layout := { s.layout with staging := s.layout.staging.put item } })
  ∧ (∀ (s : State) (body : List Byte) (ref : ItemRef) (position : Nat), s.asks 0x09 body → writeRef body = some ref →
    body.length = 3 + ref.size (body.drop 3) → readItem ref (body.drop 3) = .error position →
    exec .writeLayout s = .next (s.answered .range [byte position]))
  ∧ ∀ s : State, s.asks 0x0A [] →
    exec .stageFromActive s = .next { s.answered .ok [] with
      layout := { s.layout with staging := s.layout.active } }

/-- A COMMIT_LAYOUT is refused with MODE in EVACUATE, with BUSY while a store is in progress, and with INVALID, the check's order number
and the index, when STAGING fails a check (R15); a refusal changes nothing but the port. The check reported is the first in order that
fails, with the lowest index that fails it, and none is reported exactly when none fails (R15 to R18). -/
def Obligations.CommitIsRefused : Prop :=
  (∀ s : State, s.asks 0x0B [] → s.alarm.mode = .evacuate →
    exec .commitLayout s = .next (s.answered .mode []))
  ∧ (∀ s : State, s.asks 0x0B [] → s.alarm.mode = .standby → s.store.state.inProgress = true →
    exec .commitLayout s = .next (s.answered .busy []))
  ∧ (∀ (s : State) (order index : Nat), s.asks 0x0B [] → s.alarm.mode = .standby → s.store.state.inProgress = false →
    s.layout.staging.firstFailure = some (order, index) →
    exec .commitLayout s = .next (s.answered .invalid (byte order :: word16 index)))
  ∧ ∀ a : Layout, (a.firstFailure = none ↔ ∀ order index, ¬ a.Fails order index)
    ∧ ∀ order index, a.firstFailure = some (order, index) ↔
      a.Fails order index ∧ ∀ o i, a.Fails o i → order < o ∨ order = o ∧ index ≤ i

/-- An accepted COMMIT_LAYOUT (R19 to R21): ACTIVE becomes a copy of STAGING, the run is abandoned, candidates are cleared, and each
block adopts the new layout as its row says, keeping the rest: `ZonesAdopt`, `ExitsAdopt` and `HeadsAdopt` of Safety say what the zones,
the exits and lines, and the sign line hold then. That the exits are derived from the levels, passages and lines as the commit leaves
them, and that a queued sign given another trunk or address keeps its entry, is the model's choice (log entries 29 and 35). -/
def Obligations.CommitTakesEffect : Prop :=
  ∀ s : State, s.asks 0x0B [] → s.alarm.mode = .standby → s.store.state.inProgress = false →
    s.layout.staging.firstFailure = none → ∃ t, exec .commitLayout s = .next t
    ∧ t.layout = { active := s.layout.staging, staging := s.layout.staging }
    ∧ t.engine = { s.engine with run := none, changePending := true, refreshDue := false }
    ∧ (∀ i, t.aspect.signs.get i =
        if s.active.signs.has i && t.active.signs.has i then { s.aspect.signs.get i with candidate := none } else SignRec.dark)
    ∧ (∀ c, t.beams.get c =
        match (s.active.beams.get c).enabled, (t.active.beams.get c).enabled with
        | false, true => { BeamRec.cold with state := .warming, warmStart := some s.port.clock }
        | true, false => BeamRec.cold
        | _, _ => s.beams.get c)
    ∧ ZonesAdopt s t ∧ ExitsAdopt s t
    ∧ (∀ e, (t.exits.exits.get e).reasons.console =
        (s.active.exits.has e && t.active.exits.has e && (s.exits.exits.get e).reasons.console)
        ∨ s.active.exits.has e = false ∧ t.active.exits.has e = false)
    ∧ (∀ p, t.boundary.passages.get p =
        if s.active.params.hallId = t.active.params.hallId ∧ s.active.passages.get p = t.active.passages.get p then
          s.boundary.passages.get p
        else PassageRec.cold)
    ∧ (∀ i, (t.signLine.heads.get i).state = (headUnder (s.active.signs.get i) (t.active.signs.get i)
          s.active.params.headThreshold t.active.params.headThreshold (s.signLine.heads.get i)).state
        ∧ (t.signLine.heads.get i).defaultPending = (headUnder (s.active.signs.get i) (t.active.signs.get i)
          s.active.params.headThreshold t.active.params.headThreshold (s.signLine.heads.get i)).defaultPending)
    ∧ t.signLine.queue = s.signLine.queue.filter t.active.signs.has
    ∧ HeadsAdopt s t
    ∧ t.alarm = { s.alarm with
        link := linkOf t.active.params.healthRule s.alarm.lineA.state s.alarm.lineB.state }
    ∧ (∀ k, (t.signLine.trunks.get k).state = (s.signLine.trunks.get k).state
        ∧ (t.signLine.trunks.get k).driverOn = (s.signLine.trunks.get k).driverOn
        ∧ (t.signLine.trunks.get k).holdOff = (s.signLine.trunks.get k).holdOff)
    ∧ (s.port.notices.length < 64 → t.port.notices[s.port.notices.length]? =
        some { kind := .layoutCommitted, time := s.port.clock, subject := none, value := [] })
    ∧ t = { s with
        layout := t.layout, engine := t.engine, beams := t.beams, zones := t.zones, alarm := t.alarm
        port := { s.port.answered .ok [] with
          notices := t.port.notices, flags := t.port.flags, snapshot := t.port.snapshot }
        aspect := { s.aspect with signs := t.aspect.signs }
        exits := { s.exits with exits := t.exits.exits, lines := t.exits.lines, grace := t.exits.grace }
        boundary := { s.boundary with passages := t.boundary.passages, waiting := none, owed := false }
        signLine := t.signLine
        freeCount := t.freeCount }

/-! ## Zone levels and exit closures from the console -/

/-- SET_ZONE_LEVEL (R32, R33, R29, R30, R61): RANGE, MODE for a lowering in EVACUATE, or the console level taken, the effective level
formed as the greatest of the three inputs, and a changed level stamped, posted and passed to the exits of the zone, every other exit and
every line but those that name a changed exit as it was. An EXIT_IN_USE line follows its condition at once by the model's choice (log
entry 34). -/
def Obligations.ZoneLevelIsSet : Prop :=
  (∀ (s : State) (zone level : Byte), s.asks 0x0C [zone, level] → (48 ≤ zone.toNat ∨ 8 ≤ level.toNat) →
    exec .setZoneLevel s = .next (s.answered .range []))
  ∧ (∀ (s : State) (z : ZoneIdx) (l : Level), s.asks 0x0C [byte z.val, byte l.val] → s.alarm.mode = .evacuate →
    l < (s.zones.get z).consoleLevel → exec .setZoneLevel s = .next (s.answered .mode []))
  ∧ ∀ (s : State) (z : ZoneIdx) (l old new : Level), s.asks 0x0C [byte z.val, byte l.val] →
    (s.alarm.mode = .evacuate → (s.zones.get z).consoleLevel ≤ l) →
    old = (s.zones.get z).effective → new = max (s.zones.get z).panelLevel (max l (s.zones.get z).beamLevel) →
    (old = new → exec .setZoneLevel s = .next { s.answered .ok [byte l.val, byte new.val] with
      zones := s.zones.set z { s.zones.get z with consoleLevel := l } })
    ∧ (old ≠ new → ∃ t, exec .setZoneLevel s = .next t
      ∧ (s.port.notices.length < 64 → t.port.notices[s.port.notices.length]? = some
          { kind := .zoneLevel, time := s.port.clock, subject := some (byte z.val), value := [byte old.val, byte new.val] })
      ∧ (∀ e, s.active.exits.has e = true → s.active.exitZone e = some z →
          (t.exits.exits.get e).reasons =
            { (s.exits.exits.get e).reasons with hazard := decide (s.active.params.tImp ≤ new.val) })
      ∧ (∀ e, s.active.exitZone e ≠ some z → t.exits.exits.get e = s.exits.exits.get e)
      ∧ ZoneTakes s t z { s.zones.get z with consoleLevel := l } new []
      ∧ t = { s with
          zones := s.zones.set z
            { s.zones.get z with consoleLevel := l, effective := new, lastChange := s.port.clock }
          engine := { s.engine with changePending := true }
          exits := { s.exits with exits := t.exits.exits, lines := t.exits.lines }
          port := { s.port.answered .ok [byte l.val, byte new.val] with
            notices := t.port.notices, flags := t.port.flags, snapshot := t.port.snapshot } })

/-- SET_EXIT_CLOSURE (R59, R60, R57, R58, R68): RANGE, MODE for a close in EVACUATE, or CONSOLE added or removed; a changed reason set
forms the usable field and the base source cost anew, is posted, sets change pending and drives the lines that name the exit. That an EXIT_IN_USE line follows its condition at once is the
model's choice (log entry 34). -/
def Obligations.ExitClosureIsSet : Prop :=
  (∀ (s : State) (exit action : Byte), s.asks 0x0D [exit, action] →
    (24 ≤ exit.toNat ∨ 1 < action.toNat ∨ ∃ e : ExitIdx, e.val = exit.toNat ∧ s.active.exits.has e = false) →
    exec .setExitClosure s = .next (s.answered .range []))
  ∧ (∀ (s : State) (e : ExitIdx), s.asks 0x0D [byte e.val, 1] → s.active.exits.has e = true → s.alarm.mode = .evacuate →
    exec .setExitClosure s = .next (s.answered .mode []))
  ∧ ∀ (s : State) (e : ExitIdx) (close : Bool) (r : ReasonSet), s.asks 0x0D [byte e.val, if close then 1 else 0] →
    s.active.exits.has e = true → (close = true → s.alarm.mode = .standby) →
    r = { (s.exits.exits.get e).reasons with console := close } →
    (r = (s.exits.exits.get e).reasons → exec .setExitClosure s = .next (s.answered .ok [s.exitCode e]))
    ∧ (r ≠ (s.exits.exits.get e).reasons → ∃ t, exec .setExitClosure s = .next t
      ∧ t.exits.exits = s.exits.exits.set e { reasons := r, usable := r.isEmpty, base := s.baseCost e r.isEmpty }
      ∧ (∀ l src, s.active.lines.get l = .output src → OutputSource.names e src = true →
          ∀ d, s.exits.lines.get l = .output d → t.exits.lines.get l = .output (t.sourceTrue src))
      ∧ (∀ l, (∀ src, s.active.lines.get l = .output src → OutputSource.names e src = false) →
          t.exits.lines.get l = s.exits.lines.get l)
      ∧ (∀ l v start, s.exits.lines.get l = .input v start → t.exits.lines.get l = .input v start)
      ∧ (s.port.notices.length < 64 → t.port.notices = s.port.notices ++
          [{ kind := .exitState, time := s.port.clock, subject := some (byte e.val)
             value := [r.code, if r.isEmpty then 1 else 0] }])
      ∧ t = { s with
          engine := { s.engine with changePending := true }
          exits := { s.exits with exits := t.exits.exits, lines := t.exits.lines }
          port := { s.port.answered .ok [t.exitCode e] with
            notices := t.port.notices, flags := t.port.flags, snapshot := t.port.snapshot } })

/-- CALIBRATE_BEAM (R52, R53, R14): RANGE for a channel not enabled, MODE in EVACUATE or with its zone above 0, LOW_SIGNAL with the
corrected value for one below 512, or that value as the reference of the channel in both banks. The value tested is the one of the
last sample (the model's choice, log entry 20). -/
def Obligations.BeamIsCalibrated : Prop :=
  (∀ (s : State) (ch : Byte), s.asks 0x0E [ch] →
    (8 ≤ ch.toNat ∨ ∃ c : BeamIdx, c.val = ch.toNat ∧ (s.active.beams.get c).enabled = false) →
    exec .calibrateBeam s = .next (s.answered .range []))
  ∧ (∀ (s : State) (c : BeamIdx), s.asks 0x0E [byte c.val] → (s.active.beams.get c).enabled = true →
    (s.alarm.mode = .evacuate ∨ (s.zones.get (s.active.beams.get c).zone).effective ≠ 0) →
    exec .calibrateBeam s = .next (s.answered .mode []))
  ∧ (∀ (s : State) (c : BeamIdx), s.asks 0x0E [byte c.val] → (s.active.beams.get c).enabled = true →
    s.alarm.mode = .standby → (s.zones.get (s.active.beams.get c).zone).effective = 0 →
    (s.beams.get c).corrected.getD 0 < 512 →
    exec .calibrateBeam s = .next (s.answered .lowSignal (word16 ((s.beams.get c).corrected.getD 0))))
  ∧ ∀ (s : State) (c : BeamIdx) (v : Nat), s.asks 0x0E [byte c.val] → (s.active.beams.get c).enabled = true →
    s.alarm.mode = .standby → (s.zones.get (s.active.beams.get c).zone).effective = 0 →
    (s.beams.get c).corrected = some v → 512 ≤ v →
    exec .calibrateBeam s = .next { s.answered .ok (word16 v) with
      layout := {
        active := { s.layout.active with
          beams := s.layout.active.beams.set c { s.layout.active.beams.get c with reference := v } }
        staging := { s.layout.staging with
          beams := s.layout.staging.beams.set c { s.layout.staging.beams.get c with reference := v } } } }

/-! ## The layout store -/

/-- STORE_LAYOUT (R195): MODE, BUSY, RANGE for an empty ACTIVE, or a store begun on a copy of ACTIVE with the image gone; then its phases
(R196): the erase, the write of what the memory takes, and the comparison that gives the image's fate. That a faulty write may leave
any bytes, and the form of an item in the image, are the model's choice (log entries 23 and 19). -/
def Obligations.LayoutIsStored : Prop :=
  (∀ s : State, s.asks 0x0F [] → s.alarm.mode = .evacuate → exec .storeLayout s = .next (s.answered .mode []))
  ∧ (∀ s : State, s.asks 0x0F [] → s.alarm.mode = .standby → s.store.state.inProgress = true →
    exec .storeLayout s = .next (s.answered .busy []))
  ∧ (∀ s : State, s.asks 0x0F [] → s.alarm.mode = .standby → s.store.state.inProgress = false → s.active.isEmpty = true →
    exec .storeLayout s = .next (s.answered .range []))
  ∧ (∀ s : State, s.asks 0x0F [] → s.alarm.mode = .standby → s.store.state.inProgress = false → s.active.isEmpty = false →
    exec .storeLayout s = .next { s.answered .ok [] with
      store := { state := .erasing, copy := some s.active, image := .erased } })
  ∧ (∀ s : State, s.store.state = .erasing →
    exec .eraseComplete s = .next { s with store := { s.store with state := .writing } })
  ∧ (∀ (s : State) (a : Layout), s.store.state = .writing → s.store.copy = some a →
    exec (.writeComplete .good) s = .next { s with
      store := { s.store with state := .verifying, image := .written (a.bytes ++ word16 (crc16 a.bytes).toNat) } })
  ∧ (∀ (s : State) (a : Layout) (bytes : List Byte), s.store.state = .writing → s.store.copy = some a →
    exec (.writeComplete (.faulty bytes)) s = .next { s with
      store := { s.store with state := .verifying, image := .written bytes } })
  ∧ (∀ (s : State) (a : Layout), s.store.state = .verifying → s.store.copy = some a →
    s.store.image = .written (a.bytes ++ word16 (crc16 a.bytes).toNat) →
    exec .verifyComplete s = .next { s with
      store := { s.store with state := .idle, copy := none }
      port := s.port.post { kind := .storeDone, time := s.port.clock, subject := none, value := [] } })
  ∧ ∀ (s : State) (a : Layout), s.store.state = .verifying → s.store.copy = some a →
    s.store.image ≠ .written (a.bytes ++ word16 (crc16 a.bytes).toNat) →
    exec .verifyComplete s = .next { s with
      store := { s.store with state := .invalid, copy := none }
      port := (s.port.setFlag .storeFailedSeen).post
        { kind := .storeFailed, time := s.port.clock, subject := none, value := [] } }

/-- REINIT (R199): BUSY while a store is in progress; otherwise the banks are loaded from the image, the run is abandoned, no field is
published, every sign shows DARK and is offered, each block takes up the loaded layout as at a commit (R39, R55, R72, R140, R158, R176),
and the response tells whether a layout was loaded and the store state. That the exits are derived from the levels, passages and lines as
the event leaves them, and that a queued sign given another trunk or address keeps its entry, is the model's choice (log entries 29 and
35). -/
def Obligations.ReinitTakesEffect : Prop :=
  (∀ s : State, s.asks 0x10 [] → s.store.state.inProgress = true → exec .reinit s = .next (s.answered .busy []))
  ∧ ∀ s : State, s.asks 0x10 [] → s.store.state.inProgress = false → ∃ t, exec .reinit s = .next t
    ∧ t.layout = { active := s.store.image.load.getD Layout.empty, staging := s.store.image.load.getD Layout.empty }
    ∧ t.store = { s.store with state := if s.store.image.valid then .idle else .invalid }
    ∧ t.engine = { s.engine with run := none, changePending := true, refreshDue := false }
    ∧ t.aspect = { s.aspect with published := none, signs := t.aspect.signs }
    ∧ (∀ i, t.aspect.signs.get i = SignRec.dark)
    ∧ (∀ c, t.beams.get c =
        match (s.active.beams.get c).enabled, (t.active.beams.get c).enabled with
        | false, true => { BeamRec.cold with state := .warming, warmStart := some s.port.clock }
        | true, false => BeamRec.cold
        | _, _ => s.beams.get c)
    ∧ ZonesAdopt s t ∧ ExitsAdopt s t
    ∧ (∀ p, t.boundary.passages.get p =
        if s.active.params.hallId = t.active.params.hallId ∧ s.active.passages.get p = t.active.passages.get p then
          s.boundary.passages.get p
        else PassageRec.cold)
    ∧ t.alarm = { s.alarm with
        link := linkOf t.active.params.healthRule s.alarm.lineA.state s.alarm.lineB.state }
    ∧ (∀ i, t.active.signs.has i = true → (s.signLine.heads.get i).state ≠ .lost → i ∈ t.signLine.queue)
    ∧ (∀ i, i ∈ t.signLine.queue ↔ t.active.signs.has i = true ∧ (i ∈ s.signLine.queue
        ∨ (headUnder (s.active.signs.get i) (t.active.signs.get i)
          s.active.params.headThreshold t.active.params.headThreshold (s.signLine.heads.get i)).state ≠ .lost))
    ∧ (∃ added : List SignIdx, added.Pairwise (· < ·)
        ∧ t.signLine.queue = s.signLine.queue.filter t.active.signs.has ++ added)
    ∧ HeadsAdopt s t
    ∧ (s.port.notices.length < 64 → t.port.notices[s.port.notices.length]? =
        some { kind := .reinit, time := s.port.clock, subject := none, value := [] })
    ∧ (s.port.notices.length < 63 → s.store.image.load = none → t.port.notices[s.port.notices.length + 1]? =
        some { kind := .noLayout, time := s.port.clock, subject := none, value := [] })
    ∧ t = { s with
        layout := t.layout, store := t.store, engine := t.engine, aspect := t.aspect, beams := t.beams, zones := t.zones
        port := { s.port.answered .ok [if s.store.image.load.isSome then 1 else 0, t.store.state.code] with
          notices := t.port.notices, flags := t.port.flags, snapshot := t.port.snapshot }
        alarm := { s.alarm with link := t.alarm.link }
        exits := { s.exits with exits := t.exits.exits, lines := t.exits.lines, grace := t.exits.grace }
        boundary := { s.boundary with passages := t.boundary.passages, waiting := none, owed := false }
        signLine := t.signLine }

/-! ## The Route Engine -/

/-- The starts of a run and the completions of its phases (R75 to R79, R92 to R94, R96): a run starts on a snapshot of the present levels
and exits, and each completion moves the run in flight to its next phase, on its own snapshot, with the work of its phase: the pass and
the next-hop derivation on the sources of R84, the loads and penalties, the pass again on the penalised sources, and the final loads;
nothing but the engine changes. PassCostsAreCheapest, NextHopsDescend and PenaltyIsClamped say what that work gives. -/
def Obligations.RunsAdvance : Prop :=
  (∀ s : State, s.engine.run = none → s.engine.changePending = true →
    exec .runStart s = .next { s with engine :=
      { run := some
          { phase := .snapshot
            snapshot :=
              { levels := Table.ofFn fun z => (s.zones.get z).effective
                exits := Table.ofFn fun e =>
                  { usable := (s.exits.exits.get e).usable, base := (s.exits.exits.get e).base } }
            frontier := []
            nodes := Table.replicate 256 NodeWork.fresh
            exits := Table.replicate 24 ExitWork.zero }
        changePending := false, refreshDue := false, lastStart := some s.port.clock
        generation := s.engine.generation } })
  ∧ (∀ (s : State) (start : Ticks), s.engine.run = none → s.engine.lastStart = some start →
    100 ≤ (s.port.clock - start).toNat →
    exec .refreshIntervalExpiry s = exec .runStart { s with engine := { s.engine with changePending := true } })
  ∧ (∀ (s : State) (start : Ticks), s.engine.run.isSome = true → s.engine.lastStart = some start →
    100 ≤ (s.port.clock - start).toNat →
    exec .refreshIntervalExpiry s = .next { s with engine := { s.engine with refreshDue := true } })
  ∧ (∀ (s : State) (r : Run), s.engine.run = some r → r.phase = .snapshot →
    exec .snapshotComplete s = .next { s with engine := { s.engine with run := some { r with phase := .pass1 } } })
  ∧ (∀ (s : State) (r : Run), s.engine.run = some r → r.phase = .pass1 →
    ∀ p : PassState, p = runPass s.active r.snapshot.levels (s.active.sourceCost r.snapshot fun _ => 0) →
    exec .pass1Complete s = .next { s with engine := { s.engine with run := some { r with
      phase := .load
      frontier := p.frontier
      nodes := deriveHops s.active r.snapshot.levels (s.active.sourceCost r.snapshot fun _ => 0) p.nodes } } })
  ∧ (∀ (s : State) (r : Run), s.engine.run = some r → r.phase = .load →
    exec .loadComplete s = .next { s with engine := { s.engine with run := some { r with
      phase := if s.active.params.gain = 0 then .nexthop else .pass2
      exits := Table.ofFn fun e =>
        { pass1Load := s.active.loadOf r.nodes e
          penalty := s.active.penaltyOf e (s.active.loadOf r.nodes e)
          finalLoad := 0 } } } })
  ∧ (∀ (s : State) (r : Run), s.engine.run = some r → r.phase = .pass2 →
    ∀ p : PassState, p = runPass s.active r.snapshot.levels (s.active.sourceCost r.snapshot fun e => (r.exits.get e).penalty) →
    exec .pass2Complete s = .next { s with engine := { s.engine with run := some { r with
      phase := .nexthop, frontier := p.frontier, nodes := p.nodes } } })
  ∧ (∀ (s : State) (r : Run) (nodes : Table NodeWork 256), s.engine.run = some r → r.phase = .nexthop →
    nodes = (if s.active.params.gain = 0 then r.nodes
      else deriveHops s.active r.snapshot.levels (s.active.sourceCost r.snapshot fun e => (r.exits.get e).penalty) r.nodes) →
    exec .nexthopComplete s = .next { s with engine := { s.engine with run := some { r with
      phase := .handover
      nodes := nodes
      exits := Table.ofFn fun e => { r.exits.get e with finalLoad := s.active.loadOf nodes e } } } })
  ∧ (∀ (a : Layout) (snap : Snapshot) (penalty : ExitIdx → Nat) (e : ExitIdx), a.sourceCost snap penalty e =
    if a.exits.has e = true ∧ (snap.exits.get e).usable = true ∧ (snap.exits.get e).base + penalty e ≤ Config.maxCost then
      (snap.exits.get e).base + penalty e
    else Config.inf)
  ∧ ∀ (a : Layout) (levels : Table Level 48) (g : SegRec) (product : Nat),
    product = g.length * Config.widthFactor g.width * a.params.hazard.get (levels.get g.zone) →
    product ≤ 64 * a.segCost levels g ∧ 64 * a.segCost levels g < product + 64

/-- HANDOVER (R77, R97, R98, R101 to R115, R146): the field of the run is published under the next generation with its basis, every sign
is evaluated against it as `SignRule` says (R103 to R112) and offered when its shown aspect changed, the egress set is formed with its
notice and outputs, the next advert is built or owed, and the engine goes on with the next run (R77) or idles. A node of finite cost with
no next segment and no live exit, which `SignRule` leaves open, is the model's choice (log entry 14). -/
def Obligations.FieldIsHandedOver : Prop :=
  ∀ (s : State) (r : Run), s.engine.run = some r → r.phase = .handover → ∃ t p, exec .handover s = .next t
    ∧ t.aspect.published = some p
    ∧ p.field.generation = s.engine.generation + 1 ∧ t.engine.generation = s.engine.generation + 1
    ∧ t.aspect.lastGeneration = s.engine.generation + 1
    ∧ p.field.time = s.port.clock ∧ p.field.exits = r.exits ∧ p.basis.levels = r.snapshot.levels
    ∧ (∀ e, p.basis.source.get e = decide (s.active.sourceCost r.snapshot
        (fun f => if s.active.params.gain = 0 then 0 else (r.exits.get f).penalty) e ≤ Config.maxCost))
    ∧ (∀ n, p.field.nodes.get n =
        { cost := (r.nodes.get n).cost, next := (r.nodes.get n).next, route := (r.nodes.get n).route })
    ∧ (∀ i c, s.active.signs.get i = some c →
        t.aspect.signs.get i = evalSign s.active p s.alarm.mode s.port.clock c (s.aspect.signs.get i)
        ∧ SignRule s.active p s.alarm.mode s.port.clock c (s.aspect.signs.get i) (t.aspect.signs.get i))
    ∧ (∀ i, s.active.signs.get i = none → t.aspect.signs.get i = s.aspect.signs.get i)
    ∧ (∀ i, i ∈ t.signLine.queue ↔ i ∈ s.signLine.queue
        ∨ (t.aspect.signs.get i).shown ≠ (s.aspect.signs.get i).shown ∧ (s.signLine.heads.get i).state ≠ .lost)
    ∧ (∃ added : List SignIdx, added.Pairwise (· < ·) ∧ t.signLine.queue = s.signLine.queue ++ added)
    ∧ t.signLine = ({ t with signLine := { s.signLine with queue := t.signLine.queue } }.kickAll).signLine
    ∧ (∀ n, n ∈ t.aspect.egressSet ↔
        ∃ x, s.active.nodes.get n = some x ∧ 0 < x.weight.val ∧ (r.nodes.get n).cost = Config.inf)
    ∧ t.aspect.egressSet.Pairwise (· < ·)
    ∧ (t.aspect.egressSet = s.aspect.egressSet → t.port = s.port)
    ∧ (t.aspect.egressSet ≠ s.aspect.egressSet → s.port.notices.length < 64 → t.port.notices = s.port.notices ++
        [match t.aspect.egressSet with
          | [] => { kind := .egressRestored, time := s.port.clock, subject := none, value := [] }
          | n :: more => { kind := .noEgress, time := s.port.clock, subject := none, value := [byte (more.length + 1), byte n.val] }])
    ∧ (∀ l e, s.active.lines.get l = .output (.exitInUse e) → ∀ d, s.exits.lines.get l = .output d →
        t.exits.lines.get l = .output (t.exitInUse e))
    ∧ (∀ l, s.active.lines.get l = .output .noEgressAny → ∀ d, s.exits.lines.get l = .output d → t.exits.lines.get l =
        .output (if t.aspect.egressSet.length = s.aspect.egressSet.length then d else decide (0 < t.aspect.egressSet.length)))
    ∧ (∀ l, (∀ e, s.active.lines.get l ≠ .output (.exitInUse e)) → s.active.lines.get l ≠ .output .noEgressAny →
        t.exits.lines.get l = s.exits.lines.get l)
    ∧ (s.active.params.hallId = 0 → t.boundary = s.boundary)
    ∧ (s.active.params.hallId ≠ 0 → s.mayBuild = true → t.boundary = { s.boundary with
        waiting := some (buildAdvert s.active s.boundary.passages p), owed := false, lastBuild := some s.port.clock })
    ∧ (s.active.params.hallId ≠ 0 → s.mayBuild = false → t.boundary = { s.boundary with owed := true })
    ∧ (if s.engine.changePending || s.engine.refreshDue then
        t.engine = { s.engine with
          run := some (Run.start s.takeSnapshot), changePending := false, refreshDue := false
          lastStart := some s.port.clock, generation := s.engine.generation + 1 }
      else t.engine = { s.engine with run := none, generation := s.engine.generation + 1 })
    ∧ t = { s with
        engine := t.engine, aspect := t.aspect, signLine := t.signLine, boundary := t.boundary
        exits := { s.exits with lines := t.exits.lines }
        port := { s.port with notices := t.port.notices, flags := t.port.flags, snapshot := t.port.snapshot } }

/-! ## The Beam Unit -/

/-- BEAM_SAMPLE (R41 to R51): a DISABLED channel takes none; otherwise the reading joins the last four, and with four held a channel past
its warm-up becomes OVER_RANGE or BLOCKED with its level held, or MEASURING with its level raised at once to the target or lowered by
one step at the end of a decay hold, which a fall of the target keeps running and a rise restarts (R49). A changed contribution has its
zone take the new beam level, with the stamp, notices, change pending and HAZARD of R30 and R61; an unchanged one leaves zones, exits,
lines and the engine alone. That the sample of a DISABLED channel changes nothing, that one without four readings is not evaluated, and that
BEAM_STATE stands before ZONE_LEVEL, and that an EXIT_IN_USE line follows its condition at once, is the model's choice (log entries 6, 12,
13 and 34). -/
def Obligations.BeamIsSampled : Prop :=
  (∀ (s : State) (ch : BeamIdx) (r : Fin 4096), (s.beams.get ch).state = .disabled → exec (.beamSample ch r) s = .next s)
  ∧ ∀ (s : State) (ch : BeamIdx) (r : Fin 4096) (b : BeamRec) (cfg : BeamCfg) (h : List Nat),
    b = s.beams.get ch → cfg = s.active.beams.get ch → b.state ≠ .disabled →
    h = (b.history.drop (b.history.length - 3)) ++ [r.val] → b.history.length ≤ 4 →
    ∃ t, exec (.beamSample ch r) s = .next t
    ∧ (t.beams.get ch).history = h
    ∧ (t.beams.get ch).working = (if h.length = 4 then some (h.sum / 4) else none)
    ∧ (∀ c, c ≠ ch → t.beams.get c = s.beams.get c)
    ∧ (h.length < 4 → (t.beams.get ch).state = b.state ∧ (t.beams.get ch).level = b.level)
    ∧ (∀ v, h.length = 4 → v = h.sum / 4 - cfg.offset →
        (t.beams.get ch).corrected = some v
        ∧ ((∃ w, b.state = .warming ∧ b.warmStart = some w ∧ (s.port.clock - w).toNat < 1000) →
          (t.beams.get ch).state = .warming ∧ (t.beams.get ch).level = b.level)
        ∧ ((b.state = .warming → ∃ w, b.warmStart = some w ∧ 1000 ≤ (s.port.clock - w).toNat) →
          (t.beams.get ch).state =
            (if cfg.reference + cfg.reference / 4 < v then .overRange
              else if min 256 (v * 256 / cfg.reference) < cfg.rb
                ∧ (s.zones.get cfg.zone).effective.val < 2 ∧ b.level.val < 2 then .blocked
              else .measuring)
          ∧ ((t.beams.get ch).state ≠ .measuring → (t.beams.get ch).level = b.level ∧ (t.beams.get ch).decay = none)
          ∧ (t.beams.get ch).warmStart = none
          ∧ ∀ target : Level, (t.beams.get ch).state = .measuring →
            target = (if min 256 (v * 256 / cfg.reference) < cfg.rb then cfg.l3
              else if cfg.o3 ≤ 256 - min 256 (v * 256 / cfg.reference) then cfg.l3
              else if cfg.o2 ≤ 256 - min 256 (v * 256 / cfg.reference) then cfg.l2
              else if cfg.o1 ≤ 256 - min 256 (v * 256 / cfg.reference) then cfg.l1
              else 0) →
            (b.level ≤ target → (t.beams.get ch).level = target ∧ (t.beams.get ch).decay = none)
            ∧ (target < b.level → target ≤ (t.beams.get ch).level
              ∧ ((t.beams.get ch).level = b.level ∨ (t.beams.get ch).level.val + 1 = b.level.val))
            ∧ (target < b.level → (b.decay = none ∨ ∃ d, b.decay = some d ∧ d.lastTarget < target) →
              (t.beams.get ch).level = b.level
              ∧ (t.beams.get ch).decay = some { start := s.port.clock, lastTarget := target })
            ∧ ∀ d, target < b.level → b.decay = some d → target ≤ d.lastTarget →
              ((s.port.clock - d.start).toNat < 100 * cfg.decayHold → (t.beams.get ch).level = b.level
                ∧ (t.beams.get ch).decay = some { start := d.start, lastTarget := target })
              ∧ (100 * cfg.decayHold ≤ (s.port.clock - d.start).toNat → (t.beams.get ch).level.val + 1 = b.level.val
                ∧ (t.beams.get ch).decay = if target < (t.beams.get ch).level then
                    some { start := s.port.clock, lastTarget := target } else none)))
    ∧ ((t.beams.get ch).contribution = b.contribution → t.zones = s.zones)
    ∧ ((t.beams.get ch).contribution ≠ b.contribution →
        (t.zones.get cfg.zone).beamLevel = t.beamLevel cfg.zone
        ∧ (t.zones.get cfg.zone).effective =
          max (s.zones.get cfg.zone).panelLevel (max (s.zones.get cfg.zone).consoleLevel (t.beamLevel cfg.zone)))
    ∧ ((t.beams.get ch).state ≠ b.state → s.port.notices.length < 64 → t.port.notices[s.port.notices.length]? = some
        { kind := .beamState, time := s.port.clock, subject := some (byte ch.val)
          value := [b.state.code, (t.beams.get ch).state.code] })
    ∧ (∀ z, z ≠ cfg.zone → t.zones.get z = s.zones.get z)
    ∧ (∀ posted : List Notice, posted = (if (t.beams.get ch).state = b.state then [] else
        [s.notice .beamState (some (byte ch.val)) [b.state.code, (t.beams.get ch).state.code]]) →
        ((t.beams.get ch).contribution = b.contribution → t.exits = s.exits ∧ t.engine = s.engine ∧ Posts s t posted)
        ∧ ((t.beams.get ch).contribution ≠ b.contribution →
          ZoneTakes s t cfg.zone { s.zones.get cfg.zone with beamLevel := t.beamLevel cfg.zone }
            (t.zones.get cfg.zone).effective posted))
    ∧ t = { s with
        beams := t.beams, zones := t.zones
        exits := { s.exits with exits := t.exits.exits, lines := t.exits.lines }
        engine := { s.engine with changePending := t.engine.changePending }
        port := { s.port with notices := t.port.notices, flags := t.port.flags, snapshot := t.port.snapshot } }

/-! ## Discrete lines and the door grace -/

/-- DISCRETE_PIN_CHANGE starts, keeps or clears the debounce of an input and leaves an output alone; DEBOUNCE_EXPIRY after 500 ms sets the
debounced value and hands it to the exits whose door line it is (R63, R65); DOOR_GRACE_EXPIRY after the door grace enters ELAPSED and
derives DOOR of every defined DOOR exit (R64). An exit whose set changes has its fields formed anew, posts EXIT_STATE, sets change
pending and drives the lines that name it (R57, R68; EXIT_IN_USE at once by the model's choice, log entry 34), and nothing else moves. -/
def Obligations.LinesAndGraceMove : Prop :=
  (∀ (s : State) (l : LineIdx) (active : Bool), exec (.discretePinChange l active) s = .next { s with
      exits := { s.exits with
        pins := s.exits.pins.set l active
        lines := s.exits.lines.set l (match s.exits.lines.get l with
          | .output d => .output d
          | .input v start => if active = v then .input v none else .input v (some (start.getD s.port.clock))) } })
  ∧ (∀ (s : State) (l : LineIdx) (v : Bool) (start : Ticks), s.exits.lines.get l = .input v (some start) →
    50 ≤ (s.port.clock - start).toNat → ∃ t, exec (.debounceExpiry l) s = .next t
    ∧ t.exits.lines.get l = .input (s.exits.pins.get l) none
    ∧ (∀ e, t.exits.exits.get e =
        if s.active.doorLineOf e l then
          let r : ReasonSet := { (s.exits.exits.get e).reasons with
            door := decide (s.exits.grace = .elapsed) && !s.exits.pins.get l }
          if r = (s.exits.exits.get e).reasons then s.exits.exits.get e
          else { reasons := r, usable := r.isEmpty, base := s.baseCost e r.isEmpty }
        else s.exits.exits.get e)
    ∧ (∀ new : ExitIdx → ReasonSet, new = (fun e => if s.active.doorLineOf e l then
          { (s.exits.exits.get e).reasons with door := t.doorHolds e } else (s.exits.exits.get e).reasons) →
        ExitsFollow { s with exits := { s.exits with lines := s.exits.lines.set l (.input (s.exits.pins.get l) none) } } t new
          (fun _ => False)
        ∧ Posts s t (s.exitNotices new))
    ∧ t = { s with
        exits := { s.exits with exits := t.exits.exits, lines := t.exits.lines }
        engine := { s.engine with changePending := t.engine.changePending }
        port := { s.port with notices := t.port.notices, flags := t.port.flags, snapshot := t.port.snapshot } })
  ∧ ∀ (s : State) (start : Ticks), s.exits.grace = .running start →
    s.active.params.doorGrace * 100 ≤ (s.port.clock - start).toNat → ∃ t, exec .doorGraceExpiry s = .next t
    ∧ t.exits.grace = .elapsed
    ∧ (∀ e x, s.active.exits.get e = some x → x.kind = .door →
        (t.exits.exits.get e).reasons = { (s.exits.exits.get e).reasons with door := t.doorHolds e })
    ∧ (∀ e x, s.active.exits.get e = some x → x.kind = .passage → t.exits.exits.get e = s.exits.exits.get e)
    ∧ (∀ new : ExitIdx → ReasonSet, new = (fun e => if (s.active.exits.get e).map ExitCfg.kind = some .door then
          { (s.exits.exits.get e).reasons with door := t.doorHolds e } else (s.exits.exits.get e).reasons) →
        ExitsFollow s t new (fun _ => False) ∧ Posts s t (s.exitNotices new))
    ∧ t = { s with
        exits := { s.exits with grace := t.exits.grace, exits := t.exits.exits, lines := t.exits.lines }
        engine := { s.engine with changePending := t.engine.changePending }
        port := { s.port with notices := t.port.notices, flags := t.port.flags, snapshot := t.port.snapshot } }

/-! ## The sign line -/

/-- The trunks (R120, R121, R123 to R125, R127, R128): the end of its frame opens a reply window, an overcurrent shuts a trunk down, the
hold-off and the check bring it back, and a trunk that is free starts the first frame the three steps find: an ASPECT with the sign's
shown aspect to the oldest queue entry, a SET_DEFAULT with the default of ACTIVE to the lowest owed address, or an ASPECT to the next
address of the round robin (`TrunkStarts` of Safety). Only that trunk, and the sequence bit and last sent aspect of the head it sends to,
changes; where an event may free both, `kickAll` has trunk 0 and then trunk 1 start so. -/
def Obligations.TrunksShutAndReturn : Prop :=
  (∀ (s : State) (t : TrunkIdx) (x : Exchange), (s.signLine.trunks.get t).exchange = some x →
    exec (.trunkFrameEnd t) s = .next { s with signLine := { s.signLine with
      trunks := s.signLine.trunks.set t { s.signLine.trunks.get t with exchange := some { x with windowOpen := true } } } })
  ∧ (∀ (s : State) (t : TrunkIdx), (s.signLine.trunks.get t).state = .inService →
    exec (.trunkOvercurrent t) s = .next { s with
      signLine := { s.signLine with trunks := s.signLine.trunks.set t { s.signLine.trunks.get t with
        state := .shutdown, driverOn := false, exchange := none, holdOff := some s.port.clock } }
      port := s.port.post { kind := .trunkFault, time := s.port.clock, subject := some (byte t.val), value := [] } })
  ∧ (∀ (s : State) (t : TrunkIdx) (start : Ticks), (s.signLine.trunks.get t).state = .shutdown →
    (s.signLine.trunks.get t).driverOn = false → (s.signLine.trunks.get t).holdOff = some start →
    200 ≤ (s.port.clock - start).toNat →
    exec (.holdOffExpiry t) s = .next { s with signLine := { s.signLine with
      trunks := s.signLine.trunks.set t { s.signLine.trunks.get t with driverOn := true } } })
  ∧ (∀ (s : State) (t : TrunkIdx), (s.signLine.trunks.get t).state = .shutdown →
    (s.signLine.trunks.get t).driverOn = true →
    exec (.trunkRecheckOvercurrent t) s = .next { s with signLine := { s.signLine with
      trunks := s.signLine.trunks.set t { s.signLine.trunks.get t with
        driverOn := false, exchange := none, holdOff := some s.port.clock } } })
  ∧ (∀ (s m : State) (t : TrunkIdx), (s.signLine.trunks.get t).state = .shutdown →
    (s.signLine.trunks.get t).driverOn = true →
    m = { s with signLine := { s.signLine with
      trunks := s.signLine.trunks.set t { s.signLine.trunks.get t with state := .inService, holdOff := none } } } →
    exec (.trunkRestored t) s = .next { m.kick t with
      port := s.port.post { kind := .trunkRestored, time := s.port.clock, subject := some (byte t.val), value := [] } })
  ∧ (∀ (s : State) (t : TrunkIdx), TrunkStarts s t (s.kick t))
  ∧ (∀ s : State, s.kickAll = (s.kick 0).kick 1)
  ∧ (∀ (shown : Shown) (seq : Bool) (address : Nat), (TrunkFrame.aspect shown seq).bytes address =
    [0x01, byte address, shown.code seq, sumCheck [0x01, byte address, shown.code seq]])
  ∧ ∀ (aspect : Aspect) (address : Nat), (TrunkFrame.setDefault aspect).bytes address =
    [0x02, byte address, Shown.code ⟨aspect, .steady⟩ false, sumCheck [0x02, byte address, Shown.code ⟨aspect, .steady⟩ false]]

/-- The end of an exchange (R123, R124, R126, R127, R130 to R137, R202): a REPLY of five bytes or the end of the reply window gives the
outcome, a REPLY being good exactly as `GoodReply` of Safety has it and garbled otherwise,
the outcome moves the head's error count, misses, status, default-pending mark, state and place in the change queue as its rules say, with
the notices of a changed state and of a lamp that fails, and the trunk then starts the frame R127 chooses. A reply to be discarded moves
none of them; that the mark to discard it stays to the end of the exchange, and that SIGN_STATE stands before LAMP_FAULT, is the model's
choice (log entries 21 and 13). -/
def Obligations.ExchangesEnd : Prop :=
  (∀ (address : Nat) (bytes : List TrunkByte),
    (∀ echo lamp supply tamper, readReply address bytes = .good echo lamp supply tamper ↔
      GoodReply address bytes echo lamp supply tamper)
    ∧ (readReply address bytes = .garbled ↔ ∀ echo lamp supply tamper, ¬ GoodReply address bytes echo lamp supply tamper))
  ∧ ∀ (s : State) (t : TrunkIdx) (x : Exchange) (c : Instr) (o : ReplyOutcome),
    (s.signLine.trunks.get t).exchange = some x → x.windowOpen = true →
    ((∃ bytes, bytes.length = 5 ∧ c = .replyComplete t bytes ∧ o = readReply x.address bytes)
      ∨ c = .replyWindowExpiry t true ∧ o = .garbled ∨ c = .replyWindowExpiry t false ∧ o = .miss) →
    ∃ m u, exec c s = .next u
    ∧ m = { s with signLine := {
        trunks := s.signLine.trunks.set t { s.signLine.trunks.get t with exchange := none }
        queue := m.signLine.queue
        heads := m.signLine.heads } }
    ∧ u = { m.kick t with port := u.port } ∧ TrunkStarts m t (m.kick t)
    ∧ (x.discard = true → m.signLine.queue = s.signLine.queue ∧ m.signLine.heads = s.signLine.heads ∧ u.port = s.port)
    ∧ (x.discard = false →
      (∀ i, i ≠ x.sign → m.signLine.heads.get i = s.signLine.heads.get i)
      ∧ ∀ h g limit, h = s.signLine.heads.get x.sign → g = m.signLine.heads.get x.sign →
        limit = s.active.params.headThreshold →
        g.seq = h.seq ∧ g.lastSent = h.lastSent
        ∧ (s.port.notices.length ≤ 62 → u.port = { s.port with notices := s.port.notices
            ++ (if g.state = h.state then [] else
              [s.notice .signState (some (byte x.sign.val)) [h.state.code, g.state.code]])
            ++ (match o, h.status with
              | .good _ true _ _, none => [s.notice .lampFault (some (byte x.sign.val)) []]
              | .good _ true _ _, some st => if st.lampFault then [] else [s.notice .lampFault (some (byte x.sign.val)) []]
              | _, _ => []) })
        ∧ (∀ echo lamp supply tamper, o = .good echo lamp supply tamper →
          g.misses = 0
          ∧ g.status = some { lampFault := lamp, supply := supply, tamper := tamper, time := s.port.clock }
          ∧ (∀ a, x.frame = .setDefault a → g.defaultPending = false)
          ∧ (∀ a b, x.frame = .aspect a b →
            g.defaultPending = if h.state = .absent ∨ h.state = .lost then true else h.defaultPending)
          ∧ (h.state = .absent ∨ h.state = .lost → g.state = if g.errors < limit then .online else .degraded)
          ∧ (echo.toNat / 2 = ((s.aspect.signs.get x.sign).shown.code h.seq).toNat / 2 →
            g.errors = h.errors - 1 ∧ m.signLine.queue = s.signLine.queue.erase x.sign
            ∧ (h.state = .online → g.state = .online)
            ∧ (h.state = .degraded → g.state = if g.errors = 0 then .online else .degraded))
          ∧ (echo.toNat / 2 ≠ ((s.aspect.signs.get x.sign).shown.code h.seq).toNat / 2 →
            g.errors = min 255 (h.errors + 4) ∧ m.signLine.queue = s.signLine.queue.erase x.sign ++ [x.sign]
            ∧ (h.state = .online → g.state = if limit ≤ g.errors then .degraded else .online)
            ∧ (h.state = .degraded → g.state = .degraded)))
        ∧ (o = .garbled → g.errors = min 255 (h.errors + 4) ∧ g.misses = h.misses ∧ g.status = h.status
          ∧ g.defaultPending = h.defaultPending
          ∧ (h.state = .online → g.state = if limit ≤ g.errors then .degraded else .online)
          ∧ (h.state ≠ .online → g.state = h.state)
          ∧ m.signLine.queue = if x.sign ∈ s.signLine.queue then s.signLine.queue.erase x.sign ++ [x.sign]
              else s.signLine.queue)
        ∧ (o = .miss → g.errors = min 255 (h.errors + 4) ∧ g.misses = min 4 (h.misses + 1) ∧ g.status = h.status
          ∧ g.defaultPending = h.defaultPending
          ∧ (g.misses = 4 → g.state = .lost)
          ∧ (g.misses < 4 → h.state = .online → g.state = if limit ≤ g.errors then .degraded else .online)
          ∧ (g.misses < 4 → h.state ≠ .online → g.state = h.state)
          ∧ (g.misses = 4 → h.state ≠ .lost → m.signLine.queue = s.signLine.queue.erase x.sign)
          ∧ (g.misses < 4 ∨ h.state = .lost → m.signLine.queue =
              if x.sign ∈ s.signLine.queue then s.signLine.queue.erase x.sign ++ [x.sign] else s.signLine.queue)))
    ∧ u = { s with
        signLine := u.signLine
        port := { s.port with notices := u.port.notices, flags := u.port.flags, snapshot := u.port.snapshot } }

/-! ## The boundary link -/

/-- The bus and the intervals of the boundary link (R143 to R147, R149, R150, R152): a pending advert starts on a free bus, a frame cut off is
counted as bad, an advert that lost arbitration waits again unless a newer one does or the link is inactive, one sent is gone, an owed
advert is built after the interval with an entry for each passage record by the Split Passage Rule and the Path Limit (`EntryRule` of
Safety), and the watch clears after 3 s. A cut-off frame leaves the bus busy, an inactive link keeps no advert back, and BUS_FREE while
sending is no event (the model's choices, log entries 9, 22 and 6). -/
def Obligations.BusTurnsAndIntervals : Prop :=
  (∀ (s : State) (a : Advert), s.boundary.waiting = some a → s.boundary.inFlight = none →
    exec (.busFree false) s = .next { s with boundary := { s.boundary with waiting := none, inFlight := some a } })
  ∧ (∀ s : State, s.boundary.inFlight = none → exec (.busFree true) s = .next { s with
      boundary := { s.boundary with errors := min 65535 (s.boundary.errors + 1) } })
  ∧ (∀ (s : State) (cutOff : Bool), s.boundary.inFlight.isSome = true → exec (.busFree cutOff) s = .next s)
  ∧ (∀ (s : State) (a : Advert), s.boundary.inFlight = some a → s.active.params.hallId ≠ 0 →
    exec .lostArbitration s = .next { s with
      boundary := { s.boundary with inFlight := none, waiting := some (s.boundary.waiting.getD a) } })
  ∧ (∀ (s : State) (a : Advert), s.boundary.inFlight = some a → s.active.params.hallId = 0 →
    exec .lostArbitration s = .next { s with boundary := { s.boundary with inFlight := none, waiting := none } })
  ∧ (∀ s : State, exec .advertSent s = .next { s with boundary := { s.boundary with inFlight := none } })
  ∧ (∀ (s : State) (built : Ticks) (p : Published), s.boundary.lastBuild = some built →
    100 ≤ (s.port.clock - built).toNat → s.boundary.owed = true → s.active.params.hallId ≠ 0 →
    s.aspect.published = some p →
    exec .advertIntervalExpiry s = .next { s with boundary := { s.boundary with
      waiting := some
        { sender := s.active.params.hallId
          generation := p.field.generation
          entries := s.active.passages.defined.map fun q =>
            buildEntry s.active s.boundary.passages p q.1 q.2.exit }
      owed := false
      lastBuild := some s.port.clock } })
  ∧ (∀ (a : Layout) (passages : Table PassageRec 8) (pub : Published) (p : PassageIdx) (e : ExitIdx) (x : ExitCfg),
    a.exits.get e = some x → EntryRule a passages pub p e x (buildEntry a passages pub p e))
  ∧ ∀ (s : State) (seen : Ticks), s.boundary.watch = .seen seen → 300 ≤ (s.port.clock - seen).toNat →
    exec .duplicateWatchExpiry s = .next { s with boundary := { s.boundary with watch := .clear } }

/-- ADVERT_RECEIVED (R145, R151 to R155, R203, R74): a frame of its own is not taken; a bad frame, one that carries no advert as `GoodAdvert`
of Safety has it, is counted; an advert under the own hall id sets
the watch; of any other, each entry whose passage record names the sender gives that passage its values, with INF for a path that names
this hall, and one that was STALE is HEARD, posts PASSAGE_STATE (or overflows) and lifts STALE of its exits. A changed remote cost or reason
set sets change pending; entries that only repeat leave the exits, the engine and the port alone. A changed cost forms the base source
cost of the exits that use the passage anew, and a lifted STALE has the effects of R57; no other exit or line moves (EXIT_IN_USE follows at
once by the model's choice, log entry 34). -/
def Obligations.AdvertsAreTaken : Prop :=
  (∀ bits : List Bool, (∀ a, readAdvert bits = some a ↔ GoodAdvert bits a)
    ∧ (readAdvert bits = none ↔ ∀ a, ¬ GoodAdvert bits a))
  ∧ (∀ (s : State) (bits : List Bool), s.boundary.inFlight.isSome = true → exec (.advertReceived bits) s = .next s)
  ∧ (∀ (s : State) (bits : List Bool), s.boundary.inFlight = none → readAdvert bits = none →
    exec (.advertReceived bits) s = .next { s with
      boundary := { s.boundary with errors := min 65535 (s.boundary.errors + 1) } })
  ∧ (∀ (s : State) (bits : List Bool) (a : Advert), s.boundary.inFlight = none → readAdvert bits = some a →
    a.sender = s.active.params.hallId →
    exec (.advertReceived bits) s = .next { s with
      boundary := { s.boundary with watch := .seen s.port.clock }
      port := if s.boundary.watch = .clear then s.port.post
          { kind := .duplicateHallId, time := s.port.clock, subject := none, value := [byte a.sender.val] }
        else s.port })
  ∧ ∀ (s : State) (bits : List Bool) (a : Advert), s.boundary.inFlight = none → readAdvert bits = some a →
    a.sender ≠ s.active.params.hallId → ∃ t, exec (.advertReceived bits) s = .next t
    ∧ (∀ e ∈ a.entries, ∀ c, s.active.params.hallId ≠ 0 → s.active.passages.get e.passage = some c →
        c.neighbour = a.sender → t.boundary.passages.get e.passage =
          { state := .heard
            remote := if s.active.params.hallId ∈ e.path then Config.inf else e.cost
            path := some e.path
            lastHeard := some s.port.clock
            lastGeneration := some a.generation })
    ∧ (∀ p, (∀ e ∈ a.entries, e.passage = p → s.active.params.hallId = 0
          ∨ ∀ c, s.active.passages.get p = some c → c.neighbour ≠ a.sender) →
        t.boundary.passages.get p = s.boundary.passages.get p)
    ∧ (∀ e, (t.exits.exits.get e).reasons.console = (s.exits.exits.get e).reasons.console
        ∧ (t.exits.exits.get e).reasons.door = (s.exits.exits.get e).reasons.door
        ∧ (t.exits.exits.get e).reasons.hazard = (s.exits.exits.get e).reasons.hazard
        ∧ (t.exits.exits.get e).reasons.noLink = (s.exits.exits.get e).reasons.noLink)
    ∧ (∀ e ∈ a.entries, ∀ c, s.active.params.hallId ≠ 0 → s.active.passages.get e.passage = some c → c.neighbour = a.sender →
        (s.boundary.passages.get e.passage).state = .stale →
        (t.port.flags.noticeOverflow = true
          ∨ s.notice .passageState (some (byte e.passage.val)) [1, 0] ∈ t.port.notices)
        ∧ ∀ f, s.active.exitUses e.passage f = true → (t.exits.exits.get f).reasons.stale = false)
    ∧ ((∃ p, (t.boundary.passages.get p).remote ≠ (s.boundary.passages.get p).remote) → t.engine.changePending = true)
    ∧ ((∃ e, (t.exits.exits.get e).reasons ≠ (s.exits.exits.get e).reasons) → t.engine.changePending = true)
    ∧ ((∀ p, (t.boundary.passages.get p).remote = (s.boundary.passages.get p).remote
        ∧ (t.boundary.passages.get p).state = (s.boundary.passages.get p).state) →
        t.exits = s.exits ∧ t.engine = s.engine ∧ t.port = s.port)
    ∧ (∀ (m : State) (lifted : ExitIdx → ReasonSet),
        m = { s with
          exits := { s.exits with exits := Table.ofFn fun f =>
            if ∃ p, s.active.exitUses p f = true ∧ (t.boundary.passages.get p).remote ≠ (s.boundary.passages.get p).remote then
              { s.exits.exits.get f with base := t.baseCost f (s.exits.exits.get f).usable }
            else s.exits.exits.get f }
          engine := { s.engine with
            changePending := (s.engine.changePending
              || decide (∃ p, (t.boundary.passages.get p).remote ≠ (s.boundary.passages.get p).remote)) } } →
        lifted = (fun f =>
          if ∃ p, s.active.exitUses p f = true ∧ (s.boundary.passages.get p).state ≠ (t.boundary.passages.get p).state then
            { (s.exits.exits.get f).reasons with stale := false }
          else (s.exits.exits.get f).reasons) →
        ExitsFollow m t lifted (fun _ => False)
        ∧ Posts s t (a.entries.flatMap fun e =>
          if (s.boundary.passages.get e.passage).state = (t.boundary.passages.get e.passage).state then []
          else s.notice .passageState (some (byte e.passage.val)) [1, 0]
            :: s.exitNotices fun f => if s.active.exitUses e.passage f then lifted f else (s.exits.exits.get f).reasons))
    ∧ t = { s with
        boundary := { s.boundary with passages := t.boundary.passages }
        exits := { s.exits with exits := t.exits.exits, lines := t.exits.lines }
        engine := { s.engine with changePending := t.engine.changePending }
        port := { s.port with notices := t.port.notices, flags := t.port.flags, snapshot := t.port.snapshot } }

/-- PASSAGE_AGE_EXPIRY (R155, R62): a passage in HEARD not heard for 3 s becomes STALE, keeps its cost, list and times, is posted, and the
exits that use it gain STALE with the effects of R57, every other exit and line as it was. That before 3 s nothing changes, and that PASSAGE_STATE stands before EXIT_STATE, and an
EXIT_IN_USE line follows at once, is the model's choice (log entries 6, 18 and 34). -/
def Obligations.PassageGoesStale : Prop :=
  (∀ (s : State) (p : PassageIdx) (heard : Ticks), (s.boundary.passages.get p).state = .heard →
    (s.boundary.passages.get p).lastHeard = some heard → (s.port.clock - heard).toNat < 300 →
    exec (.passageAgeExpiry p) s = .next s)
  ∧ ∀ (s : State) (p : PassageIdx) (heard : Ticks), (s.boundary.passages.get p).state = .heard →
    (s.boundary.passages.get p).lastHeard = some heard → 300 ≤ (s.port.clock - heard).toNat →
    ∃ t, exec (.passageAgeExpiry p) s = .next t
    ∧ t.boundary = { s.boundary with
        passages := s.boundary.passages.set p { s.boundary.passages.get p with state := .stale } }
    ∧ (∀ e x, s.active.exits.get e = some x → x.kind = .passage → x.passage = some p →
        (t.exits.exits.get e).reasons = { (s.exits.exits.get e).reasons with stale := true })
    ∧ (∀ e, s.active.exitUses p e = false → t.exits.exits.get e = s.exits.exits.get e)
    ∧ (∀ new : ExitIdx → ReasonSet, new = (fun e => if s.active.exitUses p e then
          { (s.exits.exits.get e).reasons with stale := true } else (s.exits.exits.get e).reasons) →
        ExitsFollow s t new (fun _ => False)
        ∧ Posts s t (s.notice .passageState (some (byte p.val)) [0, 1] :: s.exitNotices new))
    ∧ (s.port.notices.length < 64 → t.port.notices[s.port.notices.length]? = some
        { kind := .passageState, time := s.port.clock, subject := some (byte p.val), value := [0, 1] })
    ∧ t = { s with
        boundary := t.boundary
        exits := { s.exits with exits := t.exits.exits, lines := t.exits.lines }
        engine := { s.engine with changePending := t.engine.changePending }
        port := { s.port with notices := t.port.notices, flags := t.port.flags, snapshot := t.port.snapshot } }

/-! ## The alarm lines -/

/-- The receivers of the alarm lines (R162, R163): a start byte in HUNT begins a frame once the part has loaded, and a frame cut off or
judged void ends in HUNT and is counted; only that line's record changes. The bytes behind a start byte are void exactly as `VoidFrame` of
Safety has it; bytes that do not end their frame leave it going on (the model's choice, log entry 17). -/
def Obligations.AlarmFramesBeginAndFail : Prop :=
  (∀ bytes : List AlarmByte, (readAlarm [] bytes = some .void ↔ VoidFrame bytes)
    ∧ (readAlarm [] bytes = none ↔ ∃ got, bytes = cleanBytes got ∧ FrameGoesOn got))
  ∧ (∀ (s : State) (l : AlarmLine) (bytes : List AlarmByte), readAlarm [] bytes = none → exec (.alarmFrameEnd l bytes) s = .next s)
  ∧ (∀ (s : State) (l : AlarmLine), s.loaded = true → (s.alarm.line l).receiver = .hunt →
    exec (.alarmStartByte l) s = .next { s with
      alarm := s.alarm.setLine l { s.alarm.line l with receiver := .frame } })
  ∧ (∀ (s : State) (l : AlarmLine), (s.alarm.line l).receiver = .frame →
    exec (.alarmGapLimit l) s = .next { s with
      alarm := s.alarm.setLine l { s.alarm.line l with
        receiver := .hunt, errors := min 65535 ((s.alarm.line l).errors + 1) } })
  ∧ ∀ (s : State) (l : AlarmLine) (bytes : List AlarmByte), (s.alarm.line l).receiver = .frame →
    readAlarm [] bytes = some .void →
    exec (.alarmFrameEnd l bytes) s = .next { s with
      alarm := s.alarm.setLine l { s.alarm.line l with
        receiver := .hunt, errors := min 65535 ((s.alarm.line l).errors + 1) } }

/-- A good frame on an alarm line (R163 to R166, R168, R201): the bytes of each panel frame with a correct Sum Check are good, and no other
(`GoodFrame` of Safety; bytes behind the check are no part of it by the model's choice, log entry 17); the line is
LIVE with its supervision restarted, the link state follows a line that came back, and the frame joins the intake or, at a full intake,
is counted as an overrun. Of the lines only ALARM_LINK_LOST outputs move, with the link. -/
def Obligations.AlarmFramesAreTaken : Prop :=
  (∀ (seq : Byte) (body : FrameBody) (content : List Byte),
    content = seq :: (match body with
      | .zoneReport z st => [1, byte z.val, st.code]
      | .hallMode m => [2, m.code]
      | .supervise => [3]
      | .statusRequest => [4]) →
    readAlarm [] ((content ++ [sumCheck (0xA5 :: content)]).map fun b => { val := b, err := false })
      = some (.good seq body))
  ∧ (∀ (bytes : List AlarmByte) (seq : Byte) (body : FrameBody),
    readAlarm [] bytes = some (.good seq body) ↔ GoodFrame bytes seq body)
  ∧ ∀ (s : State) (l : AlarmLine) (bytes : List AlarmByte) (seq : Byte) (body : FrameBody),
    (s.alarm.line l).receiver = .frame → readAlarm [] bytes = some (.good seq body) →
    ∃ t, exec (.alarmFrameEnd l bytes) s = .next t
    ∧ t.alarm.line l = { s.alarm.line l with
        receiver := .hunt
        state := .live
        expiry := some (s.port.clock + BitVec.ofNat 32 (50 * (s.active.params.supervision.val + 1)))
        overruns := if s.alarm.intake.length < 8 then (s.alarm.line l).overruns
          else min 65535 ((s.alarm.line l).overruns + 1) }
    ∧ (∀ m, m ≠ l → t.alarm.line m = s.alarm.line m)
    ∧ (s.alarm.intake.length < 8 →
        t.alarm.intake = s.alarm.intake ++ [{ line := l, seq := seq, body := body }] ∧ t.alarm.handler = .taking)
    ∧ (8 ≤ s.alarm.intake.length → t.alarm.intake = s.alarm.intake ∧ t.alarm.handler = s.alarm.handler)
    ∧ t.alarm.link = (if (s.alarm.line l).state = .live then s.alarm.link
        else linkOf s.active.params.healthRule t.alarm.lineA.state t.alarm.lineB.state)
    ∧ (t.alarm.link ≠ s.alarm.link → s.port.notices.length < 64 → t.port.notices = s.port.notices ++
        [{ kind := .alarmLink, time := s.port.clock, subject := none, value := [s.alarm.link.code, t.alarm.link.code] }])
    ∧ LinesFollow s t (fun src => src = .alarmLinkLost ∧ t.alarm.link ≠ s.alarm.link)
    ∧ (t.alarm.link = s.alarm.link → t.port = s.port)
    ∧ t = { s with
        alarm := { s.alarm with
          lineA := t.alarm.lineA, lineB := t.alarm.lineB, intake := t.alarm.intake, handler := t.alarm.handler
          link := t.alarm.link }
        exits := { s.exits with lines := t.exits.lines }
        port := { s.port with notices := t.port.notices, flags := t.port.flags, snapshot := t.port.snapshot } }

/-- SUPERVISION_EXPIRY (R165, R166): a line whose timer has run becomes SILENT with its timer stopped; the link state follows a line that
was LIVE, with ALARM_LINK posted and ALARM_LINK_LOST_SEEN set at a move to LOST; the intake is kept, and of the lines only ALARM_LINK_LOST outputs move. That an expiry with no timer
running changes nothing, and when a held time counts as reached, is the model's choice (log entries 6 and 30). -/
def Obligations.LineFallsSilent : Prop :=
  (∀ (s : State) (l : AlarmLine), (s.alarm.line l).expiry = none → exec (.supervisionExpiry l) s = .next s)
  ∧ ∀ (s : State) (l : AlarmLine) (expiry : Ticks), (s.alarm.line l).expiry = some expiry →
    (s.port.clock - expiry).toNat < 2147483648 → ∃ t, exec (.supervisionExpiry l) s = .next t
    ∧ t.alarm.line l = { s.alarm.line l with state := .silent, expiry := none }
    ∧ (∀ m, m ≠ l → t.alarm.line m = s.alarm.line m)
    ∧ t.alarm.link = (if (s.alarm.line l).state = .silent then s.alarm.link
        else linkOf s.active.params.healthRule t.alarm.lineA.state t.alarm.lineB.state)
    ∧ (t.alarm.link ≠ s.alarm.link → s.port.notices.length < 64 → t.port.notices = s.port.notices ++
        [{ kind := .alarmLink, time := s.port.clock, subject := none, value := [s.alarm.link.code, t.alarm.link.code] }])
    ∧ (t.alarm.link ≠ s.alarm.link → t.alarm.link = .lost → t.port.flags.alarmLinkLostSeen = true)
    ∧ LinesFollow s t (fun src => src = .alarmLinkLost ∧ t.alarm.link ≠ s.alarm.link)
    ∧ (t.alarm.link = s.alarm.link → t.port = s.port)
    ∧ t = { s with
        alarm := { s.alarm with lineA := t.alarm.lineA, lineB := t.alarm.lineB, link := t.alarm.link }
        exits := { s.exits with lines := t.exits.lines }
        port := { s.port with notices := t.port.notices, flags := t.port.flags, snapshot := t.port.snapshot } }

/-- ZONE_REPORT (R168 to R170, R24 to R26, R29, R30): a duplicate only leaves the intake; any other gives its zone the reported state, the
panel level of the map (kept in FAULT), and the effective level anew, with what follows from a change; no other exit or line moves
(EXIT_IN_USE follows at once by the model's choice, log entry 34). -/
def Obligations.ZoneReportIsTaken : Prop :=
  ∀ (s : State) (l : AlarmLine) (seq : Byte) (z : ZoneIdx) (st : PanelState) (rest : List IntakeFrame),
    s.alarm.handler = .taking → s.alarm.intake = { line := l, seq := seq, body := .zoneReport z st } :: rest →
    (s.alarm.lastSeq = some seq → exec .zoneReport s = .next { s with alarm := { s.alarm with
      intake := rest, handler := if rest.isEmpty then .idle else .taking } })
    ∧ ∀ panel old new : Level, s.alarm.lastSeq ≠ some seq →
      panel = (match st with
        | .normal => 0
        | .prealarm => s.active.params.prealarmLevel
        | .alarm => s.active.params.alarmLevel
        | .fault => (s.zones.get z).panelLevel
        | .isolated => 0) →
      old = (s.zones.get z).effective → new = max panel (max (s.zones.get z).consoleLevel (s.zones.get z).beamLevel) →
      ∃ t, exec .zoneReport s = .next t
      ∧ t.zones = s.zones.set z { s.zones.get z with
          panelState := st, panelLevel := panel, effective := new
          lastChange := if old = new then (s.zones.get z).lastChange else s.port.clock }
      ∧ (old = new → t.exits = s.exits ∧ t.engine = s.engine ∧ t.port = s.port)
      ∧ (old ≠ new → t.engine.changePending = true
        ∧ (s.port.notices.length < 64 → t.port.notices[s.port.notices.length]? = some
            { kind := .zoneLevel, time := s.port.clock, subject := some (byte z.val), value := [byte old.val, byte new.val] })
        ∧ ∀ e, s.active.exits.has e = true → s.active.exitZone e = some z →
          (t.exits.exits.get e).reasons =
            { (s.exits.exits.get e).reasons with hazard := decide (s.active.params.tImp ≤ new.val) })
      ∧ (∀ e, s.active.exitZone e ≠ some z → t.exits.exits.get e = s.exits.exits.get e)
      ∧ ZoneTakes s t z { s.zones.get z with panelState := st, panelLevel := panel } new []
      ∧ t = { s with
          zones := t.zones
          alarm := { s.alarm with
            lastSeq := some seq, intake := rest, handler := if rest.isEmpty then .idle else .taking }
          exits := { s.exits with exits := t.exits.exits, lines := t.exits.lines }
          engine := { s.engine with changePending := t.engine.changePending }
          port := { s.port with notices := t.port.notices, flags := t.port.flags, snapshot := t.port.snapshot } }

/-- HALL_MODE (R168, R169, R171, R64, R66, R68, R113): a duplicate only leaves the intake, the present mode is only accepted, and a changed
mode is posted, moves the door grace, drives the HALL_EVACUATE outputs, and re-codes and offers the signs. HALL_MODE stands before the
EXIT_STATE notices, at an entry to EVACUATE by the model's choice (log entry 18). Of the exits only DOOR moves: none while a grace starts to
run (R64), DOOR of the DOOR exits with a grace of 0 (R65), all DOOR at a return to STANDBY (R66); CONSOLE is kept (R59), and input lines and
lines that name neither HALL_EVACUATE nor a changed exit stay (EXIT_IN_USE follows at once by the model's choice, log entry 34). Of all commands, only COLD_RESET and an accepted frame of
this kind, which carries the new mode and is no duplicate, change the hall mode. -/
def Obligations.HallModeIsTaken : Prop :=
  (∀ (c : Instr) (s t : State), exec c s = .next t → t.alarm.mode ≠ s.alarm.mode →
    c = .coldReset ∧ t.alarm.mode = .standby
    ∨ c = .hallMode ∧ s.alarm.handler = .taking ∧ ∃ l seq rest,
      s.alarm.intake = { line := l, seq := seq, body := .hallMode t.alarm.mode } :: rest ∧ s.alarm.lastSeq ≠ some seq)
  ∧ ∀ (s : State) (l : AlarmLine) (seq : Byte) (m : HallMode) (rest : List IntakeFrame),
    s.alarm.handler = .taking → s.alarm.intake = { line := l, seq := seq, body := .hallMode m } :: rest →
    (s.alarm.lastSeq = some seq → exec .hallMode s = .next { s with alarm := { s.alarm with
      intake := rest, handler := if rest.isEmpty then .idle else .taking } })
    ∧ (s.alarm.lastSeq ≠ some seq → s.alarm.mode = m → exec .hallMode s = .next { s with alarm := { s.alarm with
      lastSeq := some seq, intake := rest, handler := if rest.isEmpty then .idle else .taking } })
    ∧ (s.alarm.lastSeq ≠ some seq → s.alarm.mode ≠ m → ∃ t, exec .hallMode s = .next t
      ∧ t.alarm = { s.alarm with
          mode := m, lastSeq := some seq, intake := rest, handler := if rest.isEmpty then .idle else .taking }
      ∧ (m = .evacuate → t.exits.grace =
          if s.active.params.doorGrace = 0 then .elapsed else .running s.port.clock)
      ∧ (m = .standby → t.exits.grace = .idle
        ∧ ∀ e, s.active.exits.has e = true → (t.exits.exits.get e).reasons.door = false)
      ∧ (∀ i, t.aspect.signs.get i =
          { s.aspect.signs.get i with
            candidate := none
            shown := { (s.aspect.signs.get i).shown with
              modifier := if (s.aspect.signs.get i).lit then litModifier m
                else (s.aspect.signs.get i).shown.modifier } })
      ∧ (∀ i, i ∈ t.signLine.queue ↔ i ∈ s.signLine.queue
          ∨ (s.aspect.signs.get i).lit = true ∧ (s.signLine.heads.get i).state ≠ .lost)
      ∧ (∃ added : List SignIdx, added.Pairwise (· < ·) ∧ t.signLine.queue = s.signLine.queue ++ added)
      ∧ t.signLine = ({ t with signLine := { s.signLine with queue := t.signLine.queue } }.kickAll).signLine
      ∧ (∀ o, s.active.lines.get o = .output .hallEvacuate → ∀ d, s.exits.lines.get o = .output d →
          t.exits.lines.get o = .output (decide (m = .evacuate)))
      ∧ (∀ new : ExitIdx → ReasonSet, new = (fun e =>
            if m = .standby ∨ s.active.params.doorGrace = 0 ∧ (s.active.exits.get e).map ExitCfg.kind = some .door then
              { (s.exits.exits.get e).reasons with door := decide (m = .evacuate) && t.doorHolds e }
            else (s.exits.exits.get e).reasons) →
          ExitsFollow s t new (fun src => src = .hallEvacuate)
          ∧ Posts s t (s.notice .hallMode none [s.alarm.mode.code, m.code] :: s.exitNotices new))
      ∧ (ExitLaw s → LineLaw s → ∀ e, s.active.exits.has e = true → (t.exits.exits.get e).reasons =
          { (s.exits.exits.get e).reasons with door := t.doorHolds e })
      ∧ (s.port.notices.length < 64 → t.port.notices[s.port.notices.length]? = some
          { kind := .hallMode, time := s.port.clock, subject := none, value := [s.alarm.mode.code, m.code] })
      ∧ t = { s with
          alarm := t.alarm, signLine := t.signLine
          aspect := { s.aspect with signs := t.aspect.signs }
          exits := { s.exits with grace := t.exits.grace, exits := t.exits.exits, lines := t.exits.lines }
          engine := { s.engine with changePending := t.engine.changePending }
          port := { s.port with notices := t.port.notices, flags := t.port.flags, snapshot := t.port.snapshot } })

/-- SUPERVISE only leaves the intake (R172); STATUS_REQUEST, duplicate or not, has its line's transmitter send an EGRESS_STATUS built now or
waits as its one request, and EGRESS_STATUS_SENT answers that request or leaves the transmitter IDLE (R173, R174). -/
def Obligations.EgressStatusIsSent : Prop :=
  (∀ (s : State) (seq : Byte), s.egressStatus seq =
    { seq := seq
      mode := s.alarm.mode
      generation := s.aspect.lastGeneration
      noEgress := s.aspect.egressSet.length
      notOnline := (s.active.signs.defined.filter fun e => (s.signLine.heads.get e.1).state ≠ .online).length
      exits := Table.ofFn fun e =>
        { usable := (s.exits.exits.get e).usable, reasons := (s.exits.exits.get e).reasons, inUse := s.exitInUse e } })
  ∧ (∀ (s : State) (l : AlarmLine) (seq : Byte) (rest : List IntakeFrame), s.alarm.handler = .taking →
    s.alarm.intake = { line := l, seq := seq, body := .supervise } :: rest →
    exec .supervise s = .next { s with alarm := { s.alarm with
      intake := rest, handler := if rest.isEmpty then .idle else .taking } })
  ∧ (∀ (s : State) (l : AlarmLine) (seq : Byte) (rest : List IntakeFrame), s.alarm.handler = .taking →
    s.alarm.intake = { line := l, seq := seq, body := .statusRequest } :: rest → (s.alarm.line l).transmitter = none →
    exec .statusRequest s = .next { s with alarm :=
      { s.alarm.setLine l { s.alarm.line l with transmitter := some (s.egressStatus seq) } with
        intake := rest, handler := if rest.isEmpty then .idle else .taking } })
  ∧ (∀ (s : State) (l : AlarmLine) (seq : Byte) (rest : List IntakeFrame), s.alarm.handler = .taking →
    s.alarm.intake = { line := l, seq := seq, body := .statusRequest } :: rest →
    (s.alarm.line l).transmitter.isSome = true →
    exec .statusRequest s = .next { s with alarm :=
      { s.alarm.setLine l { s.alarm.line l with request := some seq } with
        intake := rest, handler := if rest.isEmpty then .idle else .taking } })
  ∧ (∀ (s : State) (l : AlarmLine), (s.alarm.line l).transmitter.isSome = true → (s.alarm.line l).request = none →
    exec (.egressStatusSent l) s = .next { s with
      alarm := s.alarm.setLine l { s.alarm.line l with transmitter := none } })
  ∧ ∀ (s : State) (l : AlarmLine) (seq : Byte), (s.alarm.line l).transmitter.isSome = true →
    (s.alarm.line l).request = some seq →
    exec (.egressStatusSent l) s = .next { s with
      alarm := s.alarm.setLine l { s.alarm.line l with
        transmitter := some (s.egressStatus seq), request := none } }

/-! ## What a run computes -/

/-- The costs of a pass are the cheapest ways to a source (R85 to R88): no node costs more than an own source or a way onward offers, and
every finite cost is one of these; the nodes settled are those with a finite cost, and none is left on the frontier. -/
def Obligations.PassCostsAreCheapest : Prop :=
  ∀ (a : Layout) (levels : Table Level 48) (source : ExitIdx → Cost) (p : PassState), p = runPass a levels source →
    p.frontier = [] ∧ ∀ n : NodeIdx,
      (∀ e x, a.exits.get e = some x → x.node = n → source e ≤ Config.maxCost → (p.nodes.get n).cost ≤ source e)
      ∧ (∀ i g c, a.segments.get i = some g → a.wayCost levels p.nodes n g = some c → (p.nodes.get n).cost ≤ c)
      ∧ ((p.nodes.get n).settled = true ↔ (p.nodes.get n).cost ≤ Config.maxCost)
      ∧ ((p.nodes.get n).settled = false → (p.nodes.get n).cost = Config.inf)
      ∧ ((p.nodes.get n).settled = true →
        (∃ e x, a.exits.get e = some x ∧ x.node = n ∧ source e = (p.nodes.get n).cost)
        ∨ ∃ i g, a.segments.get i = some g ∧ a.wayCost levels p.nodes n g = some (p.nodes.get n).cost)

/-- Next hops lead downhill to the route exit (R89, R90): of a layout whose segments all cost something, a node with a finite cost is at
its own source, which then is its route with no next segment (the Own-Exit Rule), or its next segment is the lowest-indexed one that meets
the cost equation, and leads to a node of strictly lower cost with the same route exit; an unreached node has neither. -/
def Obligations.NextHopsDescend : Prop :=
  ∀ (a : Layout) (levels : Table Level 48) (source : ExitIdx → Cost) (nodes : Table NodeWork 256),
    (∀ i g, a.segments.get i = some g → 0 < a.segCost levels g) →
    nodes = deriveHops a levels source (runPass a levels source).nodes → ∀ n : NodeIdx,
      (nodes.get n).cost = ((runPass a levels source).nodes.get n).cost
      ∧ ((nodes.get n).cost = Config.inf → (nodes.get n).next = none ∧ (nodes.get n).route = none)
      ∧ ((nodes.get n).cost ≠ Config.inf →
        (∃ e x, a.exits.get e = some x ∧ x.node = n ∧ source e = (nodes.get n).cost
          ∧ (nodes.get n).next = none ∧ (nodes.get n).route = some e)
        ∨ ∃ i g m, a.segments.get i = some g ∧ g.otherEnd n = some m ∧ a.segOpen levels g = true
          ∧ g.mayTravel n = true ∧ (nodes.get n).next = some i
          ∧ (nodes.get n).cost = (nodes.get m).cost + a.segCost levels g
          ∧ (nodes.get m).cost < (nodes.get n).cost
          ∧ (nodes.get n).route = (nodes.get m).route ∧ (nodes.get m).route.isSome = true)
      ∧ (∀ e x, a.exits.get e = some x → x.node = n → source e = (nodes.get n).cost → (nodes.get n).cost ≠ Config.inf →
        (nodes.get n).next = none ∧ ∃ f y, a.exits.get f = some y ∧ y.node = n ∧ source f = (nodes.get n).cost
          ∧ (nodes.get n).route = some f)
      ∧ ∀ i, (nodes.get n).next = some i → ∀ j g m, j < i → a.segments.get j = some g → g.otherEnd n = some m →
        a.segOpen levels g = true → g.mayTravel n = true → (nodes.get m).cost ≠ Config.inf →
        (nodes.get m).cost + a.segCost levels g ≠ (nodes.get n).cost

/-- The law of loads (R96): the final load of an exit is the weight of the nodes whose final route exit it is; the pass-1 loads sum to
the total weight of the nodes with finite pass-1 cost and the final loads to that of the nodes with finite final cost, wherever every
segment costs something; with G at 0 the final loads are the pass-1 loads; the run then stands in HANDOVER. -/
def Obligations.LoadsSumToWeights : Prop :=
  ∀ (a : Layout) (r r1 r2 r3 r4 : Run), (∀ i g, a.segments.get i = some g → 0 < a.segCost r.snapshot.levels g) →
    r1 = Run.doPass1 a r → r2 = Run.doLoad a r1 → r3 = (if a.params.gain = 0 then r2 else Run.doPass2 a r2) →
    r4 = Run.doNexthop a r3 →
    (∀ e, (r4.exits.get e).finalLoad =
      ((a.nodes.defined.filter fun n => (r4.nodes.get n.1).route = some e).map fun n => n.2.weight.val).sum)
    ∧ (∑ e, (r4.exits.get e).pass1Load) = a.reachedWeight r1.nodes
    ∧ (∑ e, (r4.exits.get e).finalLoad) = a.reachedWeight r4.nodes
    ∧ (a.params.gain = 0 → ∀ e, (r4.exits.get e).finalLoad = (r4.exits.get e).pass1Load)
    ∧ r4.phase = .handover

/-- The penalty of an exit (R93): min(65,535, max(0, load − capacity) × G), and 0 for an exit that is not defined. -/
def Obligations.PenaltyIsClamped : Prop :=
  ∀ (a : Layout) (r : Run) (e : ExitIdx),
    ((Run.doLoad a r).exits.get e).penalty =
      (match a.exits.get e with
        | none => 0
        | some x => min 65535 ((a.loadOf r.nodes e - x.capacity) * a.params.gain))
    ∧ ((Run.doLoad a r).exits.get e).penalty ≤ 65535
    ∧ (a.params.gain = 0 → ((Run.doLoad a r).exits.get e).penalty = 0)

/-! ## What the frames carry -/

/-- An advert put on the bus is read back whole (R203): its bytes, its check and its stuff bits, for every advert the manual allows. -/
def Obligations.AdvertsReadBack : Prop :=
  ∀ a : Advert, a.sender ≠ 0 → a.entries.length ≤ 8 → (a.entries.map AdvertEntry.passage).Pairwise (· < ·) →
    (∀ e ∈ a.entries, e.cost ≤ Config.inf ∧ 1 ≤ e.path.length ∧ e.path.length ≤ 4 ∧ e.path.head? = some a.sender
      ∧ 0 ∉ e.path ∧ e.path.Nodup) →
    readAdvert a.bits = some a

/-- Every item WRITE_LAYOUT accepts reads back as it was written, and no other item of the bank changes (R10 to R12, R204). -/
def Obligations.ItemsReadBack : Prop :=
  ∀ (a : Layout) (ref : ItemRef) (fields : List Byte) (item : Item), readItem ref fields = .ok item →
    fields.length = ref.size fields →
    (a.put item).item ref = item
    ∧ ((a.put item).fields ref).length = ref.size ((a.put item).fields ref)
    ∧ readItem ref ((a.put item).fields ref) = .ok item
    ∧ ∀ other, other ≠ ref → (a.put item).item other = a.item other

/-- What a store writes, a load reads (R193, R196, R198): the image of a layout in range is valid and holds that layout. The form of an
item in the image is the model's choice (log entry 19). -/
def Obligations.ImagesReadBack : Prop :=
  ∀ a : Layout, a.InRange → (Image.written a.imageBytes).valid = true ∧ (Image.written a.imageBytes).layout = some a

/-! ## The laws every step keeps -/

/-- The reset state meets every law of the blocks. That its debounced values are the pin values before the load event, and that its pins
stand inactive, is the model's choice (log entries 5 and 3). -/
def Obligations.ResetMeetsEveryLaw : Prop :=
  PortLaw State.reset ∧ ZoneLaw State.reset ∧ BeamLevelLaw State.reset ∧ BeamLaw State.reset ∧ LineLaw State.reset
  ∧ ExitLaw State.reset ∧ OutputLaw State.reset ∧ SignLaw State.reset ∧ HeadLaw State.reset ∧ TrunkLaw State.reset
  ∧ PassageLaw State.reset ∧ AlarmLaw State.reset ∧ FieldLaw State.reset ∧ StoreLaw State.reset
  ∧ LayoutLaw State.reset ∧ AwaitingLoad State.reset

/-- Until the load event, every block stays as the cold reset left it, whatever its lines do (R198). -/
def Obligations.BlocksAwaitTheLoad : Prop :=
  ∀ s t : State, (s.loaded = false → AwaitingLoad s) → step s = .next t → t.loaded = false → AwaitingLoad t

/-- Every step keeps the law of the console port (R177 to R183, R186, R188). -/
def Obligations.PortLawIsKept : Prop :=
  ∀ s t : State, PortLaw s → step s = .next t → PortLaw t

/-- Every step keeps each zone's effective level the greatest of its three inputs (R29). -/
def Obligations.ZoneLawIsKept : Prop :=
  ∀ s t : State, ZoneLaw s → step s = .next t → ZoneLaw t

/-- Every step keeps each zone's beam level the greatest contribution of its enabled channels (R28). -/
def Obligations.BeamLevelLawIsKept : Prop :=
  ∀ s t : State, (s.loaded = false → AwaitingLoad s) → BeamLevelLaw s → step s = .next t → BeamLevelLaw t

/-- Every step keeps the law of the beam channels (R40, R41, R50, R51). -/
def Obligations.BeamLawIsKept : Prop :=
  ∀ s t : State, (s.loaded = false → AwaitingLoad s) → BeamLaw s → step s = .next t → BeamLaw t

/-- Every step keeps the law of the lines and the door grace (R63, R64, R67). That a debounced value is the pin value until the load event
is the model's choice (log entry 5). -/
def Obligations.LineLawIsKept : Prop :=
  ∀ s t : State, (s.loaded = false → AwaitingLoad s) → LineLaw s → step s = .next t → LineLaw t

/-- Every step keeps the law of the exits (R56 to R58, R61, R62, R65). -/
def Obligations.ExitLawIsKept : Prop :=
  ∀ s t : State, (s.loaded = false → AwaitingLoad s) → LineLaw s → ExitLaw s → step s = .next t → ExitLaw t

/-- Every step keeps each OUTPUT line driven active exactly while its source is true (R68). That an EXIT_IN_USE line is true at
once when its exit opens again under the field that routes load to it is the model's choice (log entry 34). -/
def Obligations.OutputLawIsKept : Prop :=
  ∀ s t : State, OutputLaw s → step s = .next t → OutputLaw t

/-- Every step keeps the law of the signs (R101, R112). -/
def Obligations.SignLawIsKept : Prop :=
  ∀ s t : State, SignLaw s → step s = .next t → SignLaw t

/-- Every step keeps the law of the heads and the change queue (R129, R131 to R134). -/
def Obligations.HeadLawIsKept : Prop :=
  ∀ s t : State, HeadLaw s → step s = .next t → HeadLaw t

/-- Every step keeps the law of the trunks (R120, R121). -/
def Obligations.TrunkLawIsKept : Prop :=
  ∀ s t : State, TrunkLaw s → step s = .next t → TrunkLaw t

/-- Every step keeps the law of the passages and the adverts (R141, R148, R151, R154). That a lost advert is not kept under hall id 0 is
the model's choice (log entry 22). -/
def Obligations.PassageLawIsKept : Prop :=
  ∀ s t : State, (s.loaded = false → AwaitingLoad s) → PassageLaw s → step s = .next t → PassageLaw t

/-- Every step keeps the law of the alarm lines, the intake and the link (R160, R161, R165, R166, R168, R173). -/
def Obligations.AlarmLawIsKept : Prop :=
  ∀ s t : State, (s.loaded = false → AwaitingLoad s) → AlarmLaw s → step s = .next t → AlarmLaw t

/-- Every step keeps the law of the engine and the published field (R73, R75, R97, R101). -/
def Obligations.FieldLawIsKept : Prop :=
  ∀ s t : State, FieldLaw s → step s = .next t → FieldLaw t

/-- Every step keeps the law of the layout store (R194, R196, R197). -/
def Obligations.StoreLawIsKept : Prop :=
  ∀ s t : State, (s.loaded = false → AwaitingLoad s) → StoreLaw s → step s = .next t → StoreLaw t

/-- Every step keeps every item of both banks, and of the store copy, in the ranges its table gives (R10, R11, R14). -/
def Obligations.LayoutLawIsKept : Prop :=
  ∀ s t : State, BeamLaw s → LayoutLaw s → step s = .next t → LayoutLaw t
end

