-- ==== Sys2Proof/Laws/State.lean ====
section
/-!
SUPPORT. What each named update of the state leaves in each field: one lemma for each field of each update, true by `rfl`.
-/

namespace Sys2Proof
namespace Machine

/-! ## postAll -/

@[simp] theorem State.postAll_layout (s : State) (ns : List Notice) : (s.postAll ns).layout = s.layout := rfl
@[simp] theorem State.postAll_zones (s : State) (ns : List Notice) : (s.postAll ns).zones = s.zones := rfl
@[simp] theorem State.postAll_beams (s : State) (ns : List Notice) : (s.postAll ns).beams = s.beams := rfl
@[simp] theorem State.postAll_exits (s : State) (ns : List Notice) : (s.postAll ns).exits = s.exits := rfl
@[simp] theorem State.postAll_engine (s : State) (ns : List Notice) : (s.postAll ns).engine = s.engine := rfl
@[simp] theorem State.postAll_aspect (s : State) (ns : List Notice) : (s.postAll ns).aspect = s.aspect := rfl
@[simp] theorem State.postAll_signLine (s : State) (ns : List Notice) : (s.postAll ns).signLine = s.signLine := rfl
@[simp] theorem State.postAll_boundary (s : State) (ns : List Notice) : (s.postAll ns).boundary = s.boundary := rfl
@[simp] theorem State.postAll_alarm (s : State) (ns : List Notice) : (s.postAll ns).alarm = s.alarm := rfl
@[simp] theorem State.postAll_port (s : State) (ns : List Notice) : (s.postAll ns).port = s.port.postAll ns := rfl
@[simp] theorem State.postAll_store (s : State) (ns : List Notice) : (s.postAll ns).store = s.store := rfl
@[simp] theorem State.postAll_loaded (s : State) (ns : List Notice) : (s.postAll ns).loaded = s.loaded := rfl
@[simp] theorem State.postAll_freeCount (s : State) (ns : List Notice) : (s.postAll ns).freeCount = s.freeCount := rfl
@[simp] theorem State.postAll_pending (s : State) (ns : List Notice) : (s.postAll ns).pending = s.pending := rfl
@[simp] theorem State.postAll_active (s : State) (ns : List Notice) : (s.postAll ns).active = s.active := rfl

/-! ## setFlag -/

@[simp] theorem State.setFlag_layout (s : State) (f : Flag) : (s.setFlag f).layout = s.layout := rfl
@[simp] theorem State.setFlag_zones (s : State) (f : Flag) : (s.setFlag f).zones = s.zones := rfl
@[simp] theorem State.setFlag_beams (s : State) (f : Flag) : (s.setFlag f).beams = s.beams := rfl
@[simp] theorem State.setFlag_exits (s : State) (f : Flag) : (s.setFlag f).exits = s.exits := rfl
@[simp] theorem State.setFlag_engine (s : State) (f : Flag) : (s.setFlag f).engine = s.engine := rfl
@[simp] theorem State.setFlag_aspect (s : State) (f : Flag) : (s.setFlag f).aspect = s.aspect := rfl
@[simp] theorem State.setFlag_signLine (s : State) (f : Flag) : (s.setFlag f).signLine = s.signLine := rfl
@[simp] theorem State.setFlag_boundary (s : State) (f : Flag) : (s.setFlag f).boundary = s.boundary := rfl
@[simp] theorem State.setFlag_alarm (s : State) (f : Flag) : (s.setFlag f).alarm = s.alarm := rfl
@[simp] theorem State.setFlag_port (s : State) (f : Flag) : (s.setFlag f).port = s.port.setFlag f := rfl
@[simp] theorem State.setFlag_store (s : State) (f : Flag) : (s.setFlag f).store = s.store := rfl
@[simp] theorem State.setFlag_loaded (s : State) (f : Flag) : (s.setFlag f).loaded = s.loaded := rfl
@[simp] theorem State.setFlag_freeCount (s : State) (f : Flag) : (s.setFlag f).freeCount = s.freeCount := rfl
@[simp] theorem State.setFlag_pending (s : State) (f : Flag) : (s.setFlag f).pending = s.pending := rfl
@[simp] theorem State.setFlag_active (s : State) (f : Flag) : (s.setFlag f).active = s.active := rfl

/-! ## setPort -/

@[simp] theorem State.setPort_layout (s : State) (p : Port) : (s.setPort p).layout = s.layout := rfl
@[simp] theorem State.setPort_zones (s : State) (p : Port) : (s.setPort p).zones = s.zones := rfl
@[simp] theorem State.setPort_beams (s : State) (p : Port) : (s.setPort p).beams = s.beams := rfl
@[simp] theorem State.setPort_exits (s : State) (p : Port) : (s.setPort p).exits = s.exits := rfl
@[simp] theorem State.setPort_engine (s : State) (p : Port) : (s.setPort p).engine = s.engine := rfl
@[simp] theorem State.setPort_aspect (s : State) (p : Port) : (s.setPort p).aspect = s.aspect := rfl
@[simp] theorem State.setPort_signLine (s : State) (p : Port) : (s.setPort p).signLine = s.signLine := rfl
@[simp] theorem State.setPort_boundary (s : State) (p : Port) : (s.setPort p).boundary = s.boundary := rfl
@[simp] theorem State.setPort_alarm (s : State) (p : Port) : (s.setPort p).alarm = s.alarm := rfl
@[simp] theorem State.setPort_port (s : State) (p : Port) : (s.setPort p).port = p := rfl
@[simp] theorem State.setPort_store (s : State) (p : Port) : (s.setPort p).store = s.store := rfl
@[simp] theorem State.setPort_loaded (s : State) (p : Port) : (s.setPort p).loaded = s.loaded := rfl
@[simp] theorem State.setPort_freeCount (s : State) (p : Port) : (s.setPort p).freeCount = s.freeCount := rfl
@[simp] theorem State.setPort_pending (s : State) (p : Port) : (s.setPort p).pending = s.pending := rfl
@[simp] theorem State.setPort_active (s : State) (p : Port) : (s.setPort p).active = s.active := rfl

/-! ## respond -/

@[simp] theorem State.respond_layout (s : State) (st : Status) (b : List Byte) : (s.respond st b).layout = s.layout :=
    rfl
@[simp] theorem State.respond_zones (s : State) (st : Status) (b : List Byte) : (s.respond st b).zones = s.zones :=
    rfl
@[simp] theorem State.respond_beams (s : State) (st : Status) (b : List Byte) : (s.respond st b).beams = s.beams :=
    rfl
@[simp] theorem State.respond_exits (s : State) (st : Status) (b : List Byte) : (s.respond st b).exits = s.exits :=
    rfl
@[simp] theorem State.respond_engine (s : State) (st : Status) (b : List Byte) : (s.respond st b).engine = s.engine :=
    rfl
@[simp] theorem State.respond_aspect (s : State) (st : Status) (b : List Byte) : (s.respond st b).aspect = s.aspect :=
    rfl
@[simp] theorem State.respond_signLine (s : State) (st : Status) (b : List Byte) : (s.respond st b).signLine = s.signLine :=
    rfl
@[simp] theorem State.respond_boundary (s : State) (st : Status) (b : List Byte) : (s.respond st b).boundary = s.boundary :=
    rfl
@[simp] theorem State.respond_alarm (s : State) (st : Status) (b : List Byte) : (s.respond st b).alarm = s.alarm :=
    rfl
@[simp] theorem State.respond_port (s : State) (st : Status) (b : List Byte) : (s.respond st b).port = s.port.hold { status := st, body := b } :=
    rfl
@[simp] theorem State.respond_store (s : State) (st : Status) (b : List Byte) : (s.respond st b).store = s.store :=
    rfl
@[simp] theorem State.respond_loaded (s : State) (st : Status) (b : List Byte) : (s.respond st b).loaded = s.loaded :=
    rfl
@[simp] theorem State.respond_freeCount (s : State) (st : Status) (b : List Byte) : (s.respond st b).freeCount = s.freeCount :=
    rfl
@[simp] theorem State.respond_pending (s : State) (st : Status) (b : List Byte) : (s.respond st b).pending = s.pending :=
    rfl
@[simp] theorem State.respond_active (s : State) (st : Status) (b : List Byte) : (s.respond st b).active = s.active := rfl

/-! ## setPending -/

@[simp] theorem State.setPending_layout (s : State) : (s.setPending).layout = s.layout := rfl
@[simp] theorem State.setPending_zones (s : State) : (s.setPending).zones = s.zones := rfl
@[simp] theorem State.setPending_beams (s : State) : (s.setPending).beams = s.beams := rfl
@[simp] theorem State.setPending_exits (s : State) : (s.setPending).exits = s.exits := rfl
@[simp] theorem State.setPending_engine (s : State) : (s.setPending).engine = { s.engine with changePending := true } :=
    rfl
@[simp] theorem State.setPending_aspect (s : State) : (s.setPending).aspect = s.aspect := rfl
@[simp] theorem State.setPending_signLine (s : State) : (s.setPending).signLine = s.signLine := rfl
@[simp] theorem State.setPending_boundary (s : State) : (s.setPending).boundary = s.boundary := rfl
@[simp] theorem State.setPending_alarm (s : State) : (s.setPending).alarm = s.alarm := rfl
@[simp] theorem State.setPending_port (s : State) : (s.setPending).port = s.port := rfl
@[simp] theorem State.setPending_store (s : State) : (s.setPending).store = s.store := rfl
@[simp] theorem State.setPending_loaded (s : State) : (s.setPending).loaded = s.loaded := rfl
@[simp] theorem State.setPending_freeCount (s : State) : (s.setPending).freeCount = s.freeCount := rfl
@[simp] theorem State.setPending_pending (s : State) : (s.setPending).pending = s.pending := rfl
@[simp] theorem State.setPending_active (s : State) : (s.setPending).active = s.active := rfl

/-! ## setEngine -/

@[simp] theorem State.setEngine_layout (s : State) (g : Engine) : (s.setEngine g).layout = s.layout := rfl
@[simp] theorem State.setEngine_zones (s : State) (g : Engine) : (s.setEngine g).zones = s.zones := rfl
@[simp] theorem State.setEngine_beams (s : State) (g : Engine) : (s.setEngine g).beams = s.beams := rfl
@[simp] theorem State.setEngine_exits (s : State) (g : Engine) : (s.setEngine g).exits = s.exits := rfl
@[simp] theorem State.setEngine_engine (s : State) (g : Engine) : (s.setEngine g).engine = g := rfl
@[simp] theorem State.setEngine_aspect (s : State) (g : Engine) : (s.setEngine g).aspect = s.aspect := rfl
@[simp] theorem State.setEngine_signLine (s : State) (g : Engine) : (s.setEngine g).signLine = s.signLine := rfl
@[simp] theorem State.setEngine_boundary (s : State) (g : Engine) : (s.setEngine g).boundary = s.boundary := rfl
@[simp] theorem State.setEngine_alarm (s : State) (g : Engine) : (s.setEngine g).alarm = s.alarm := rfl
@[simp] theorem State.setEngine_port (s : State) (g : Engine) : (s.setEngine g).port = s.port := rfl
@[simp] theorem State.setEngine_store (s : State) (g : Engine) : (s.setEngine g).store = s.store := rfl
@[simp] theorem State.setEngine_loaded (s : State) (g : Engine) : (s.setEngine g).loaded = s.loaded := rfl
@[simp] theorem State.setEngine_freeCount (s : State) (g : Engine) : (s.setEngine g).freeCount = s.freeCount := rfl
@[simp] theorem State.setEngine_pending (s : State) (g : Engine) : (s.setEngine g).pending = s.pending := rfl
@[simp] theorem State.setEngine_active (s : State) (g : Engine) : (s.setEngine g).active = s.active := rfl

/-! ## startRun -/

@[simp] theorem State.startRun_layout (s : State) : (s.startRun).layout = s.layout := rfl
@[simp] theorem State.startRun_zones (s : State) : (s.startRun).zones = s.zones := rfl
@[simp] theorem State.startRun_beams (s : State) : (s.startRun).beams = s.beams := rfl
@[simp] theorem State.startRun_exits (s : State) : (s.startRun).exits = s.exits := rfl
@[simp] theorem State.startRun_aspect (s : State) : (s.startRun).aspect = s.aspect := rfl
@[simp] theorem State.startRun_signLine (s : State) : (s.startRun).signLine = s.signLine := rfl
@[simp] theorem State.startRun_boundary (s : State) : (s.startRun).boundary = s.boundary := rfl
@[simp] theorem State.startRun_alarm (s : State) : (s.startRun).alarm = s.alarm := rfl
@[simp] theorem State.startRun_port (s : State) : (s.startRun).port = s.port := rfl
@[simp] theorem State.startRun_store (s : State) : (s.startRun).store = s.store := rfl
@[simp] theorem State.startRun_loaded (s : State) : (s.startRun).loaded = s.loaded := rfl
@[simp] theorem State.startRun_freeCount (s : State) : (s.startRun).freeCount = s.freeCount := rfl
@[simp] theorem State.startRun_pending (s : State) : (s.startRun).pending = s.pending := rfl
@[simp] theorem State.startRun_active (s : State) : (s.startRun).active = s.active := rfl

/-! ## restartEngine -/

@[simp] theorem State.restartEngine_layout (s : State) : (s.restartEngine).layout = s.layout := rfl
@[simp] theorem State.restartEngine_zones (s : State) : (s.restartEngine).zones = s.zones := rfl
@[simp] theorem State.restartEngine_beams (s : State) : (s.restartEngine).beams = s.beams := rfl
@[simp] theorem State.restartEngine_exits (s : State) : (s.restartEngine).exits = s.exits := rfl
@[simp] theorem State.restartEngine_engine (s : State) : (s.restartEngine).engine = { s.engine.abandon with changePending := true } :=
    rfl
@[simp] theorem State.restartEngine_aspect (s : State) : (s.restartEngine).aspect = s.aspect := rfl
@[simp] theorem State.restartEngine_signLine (s : State) : (s.restartEngine).signLine = s.signLine := rfl
@[simp] theorem State.restartEngine_boundary (s : State) : (s.restartEngine).boundary = s.boundary := rfl
@[simp] theorem State.restartEngine_alarm (s : State) : (s.restartEngine).alarm = s.alarm := rfl
@[simp] theorem State.restartEngine_port (s : State) : (s.restartEngine).port = s.port := rfl
@[simp] theorem State.restartEngine_store (s : State) : (s.restartEngine).store = s.store := rfl
@[simp] theorem State.restartEngine_loaded (s : State) : (s.restartEngine).loaded = s.loaded := rfl
@[simp] theorem State.restartEngine_freeCount (s : State) : (s.restartEngine).freeCount = s.freeCount := rfl
@[simp] theorem State.restartEngine_pending (s : State) : (s.restartEngine).pending = s.pending := rfl
@[simp] theorem State.restartEngine_active (s : State) : (s.restartEngine).active = s.active := rfl

/-! ## drive -/

@[simp] theorem State.drive_layout (s : State) (p : OutputSource → Bool) : (s.drive p).layout = s.layout := rfl
@[simp] theorem State.drive_zones (s : State) (p : OutputSource → Bool) : (s.drive p).zones = s.zones := rfl
@[simp] theorem State.drive_beams (s : State) (p : OutputSource → Bool) : (s.drive p).beams = s.beams := rfl
@[simp] theorem State.drive_exits (s : State) (p : OutputSource → Bool) : (s.drive p).exits = { s.exits with lines := Table.ofFn (s.drivenLine p) } :=
    rfl
@[simp] theorem State.drive_engine (s : State) (p : OutputSource → Bool) : (s.drive p).engine = s.engine := rfl
@[simp] theorem State.drive_aspect (s : State) (p : OutputSource → Bool) : (s.drive p).aspect = s.aspect := rfl
@[simp] theorem State.drive_signLine (s : State) (p : OutputSource → Bool) : (s.drive p).signLine = s.signLine := rfl
@[simp] theorem State.drive_boundary (s : State) (p : OutputSource → Bool) : (s.drive p).boundary = s.boundary := rfl
@[simp] theorem State.drive_alarm (s : State) (p : OutputSource → Bool) : (s.drive p).alarm = s.alarm := rfl
@[simp] theorem State.drive_port (s : State) (p : OutputSource → Bool) : (s.drive p).port = s.port := rfl
@[simp] theorem State.drive_store (s : State) (p : OutputSource → Bool) : (s.drive p).store = s.store := rfl
@[simp] theorem State.drive_loaded (s : State) (p : OutputSource → Bool) : (s.drive p).loaded = s.loaded := rfl
@[simp] theorem State.drive_freeCount (s : State) (p : OutputSource → Bool) : (s.drive p).freeCount = s.freeCount :=
    rfl
@[simp] theorem State.drive_pending (s : State) (p : OutputSource → Bool) : (s.drive p).pending = s.pending := rfl
@[simp] theorem State.drive_active (s : State) (p : OutputSource → Bool) : (s.drive p).active = s.active := rfl

/-! ## setExit -/

@[simp] theorem State.setExit_layout (s : State) (e : ExitIdx) (x : ExitRec) : (s.setExit e x).layout = s.layout :=
    rfl
@[simp] theorem State.setExit_zones (s : State) (e : ExitIdx) (x : ExitRec) : (s.setExit e x).zones = s.zones := rfl
@[simp] theorem State.setExit_beams (s : State) (e : ExitIdx) (x : ExitRec) : (s.setExit e x).beams = s.beams := rfl
@[simp] theorem State.setExit_exits (s : State) (e : ExitIdx) (x : ExitRec) : (s.setExit e x).exits = { s.exits with exits := s.exits.exits.set e x } :=
    rfl
@[simp] theorem State.setExit_engine (s : State) (e : ExitIdx) (x : ExitRec) : (s.setExit e x).engine = s.engine :=
    rfl
@[simp] theorem State.setExit_aspect (s : State) (e : ExitIdx) (x : ExitRec) : (s.setExit e x).aspect = s.aspect :=
    rfl
@[simp] theorem State.setExit_signLine (s : State) (e : ExitIdx) (x : ExitRec) : (s.setExit e x).signLine = s.signLine :=
    rfl
@[simp] theorem State.setExit_boundary (s : State) (e : ExitIdx) (x : ExitRec) : (s.setExit e x).boundary = s.boundary :=
    rfl
@[simp] theorem State.setExit_alarm (s : State) (e : ExitIdx) (x : ExitRec) : (s.setExit e x).alarm = s.alarm := rfl
@[simp] theorem State.setExit_port (s : State) (e : ExitIdx) (x : ExitRec) : (s.setExit e x).port = s.port := rfl
@[simp] theorem State.setExit_store (s : State) (e : ExitIdx) (x : ExitRec) : (s.setExit e x).store = s.store := rfl
@[simp] theorem State.setExit_loaded (s : State) (e : ExitIdx) (x : ExitRec) : (s.setExit e x).loaded = s.loaded :=
    rfl
@[simp] theorem State.setExit_freeCount (s : State) (e : ExitIdx) (x : ExitRec) : (s.setExit e x).freeCount = s.freeCount :=
    rfl
@[simp] theorem State.setExit_pending (s : State) (e : ExitIdx) (x : ExitRec) : (s.setExit e x).pending = s.pending :=
    rfl
@[simp] theorem State.setExit_active (s : State) (e : ExitIdx) (x : ExitRec) : (s.setExit e x).active = s.active := rfl

/-! ## setLineRec -/

@[simp] theorem State.setLineRec_layout (s : State) (l : LineIdx) (r : LineRec) : (s.setLineRec l r).layout = s.layout :=
    rfl
@[simp] theorem State.setLineRec_zones (s : State) (l : LineIdx) (r : LineRec) : (s.setLineRec l r).zones = s.zones :=
    rfl
@[simp] theorem State.setLineRec_beams (s : State) (l : LineIdx) (r : LineRec) : (s.setLineRec l r).beams = s.beams :=
    rfl
@[simp] theorem State.setLineRec_exits (s : State) (l : LineIdx) (r : LineRec) : (s.setLineRec l r).exits = { s.exits with lines := s.exits.lines.set l r } :=
    rfl
@[simp] theorem State.setLineRec_engine (s : State) (l : LineIdx) (r : LineRec) : (s.setLineRec l r).engine = s.engine :=
    rfl
@[simp] theorem State.setLineRec_aspect (s : State) (l : LineIdx) (r : LineRec) : (s.setLineRec l r).aspect = s.aspect :=
    rfl
@[simp] theorem State.setLineRec_signLine (s : State) (l : LineIdx) (r : LineRec) : (s.setLineRec l r).signLine = s.signLine :=
    rfl
@[simp] theorem State.setLineRec_boundary (s : State) (l : LineIdx) (r : LineRec) : (s.setLineRec l r).boundary = s.boundary :=
    rfl
@[simp] theorem State.setLineRec_alarm (s : State) (l : LineIdx) (r : LineRec) : (s.setLineRec l r).alarm = s.alarm :=
    rfl
@[simp] theorem State.setLineRec_port (s : State) (l : LineIdx) (r : LineRec) : (s.setLineRec l r).port = s.port :=
    rfl
@[simp] theorem State.setLineRec_store (s : State) (l : LineIdx) (r : LineRec) : (s.setLineRec l r).store = s.store :=
    rfl
@[simp] theorem State.setLineRec_loaded (s : State) (l : LineIdx) (r : LineRec) : (s.setLineRec l r).loaded = s.loaded :=
    rfl
@[simp] theorem State.setLineRec_freeCount (s : State) (l : LineIdx) (r : LineRec) : (s.setLineRec l r).freeCount = s.freeCount :=
    rfl
@[simp] theorem State.setLineRec_pending (s : State) (l : LineIdx) (r : LineRec) : (s.setLineRec l r).pending = s.pending :=
    rfl
@[simp] theorem State.setLineRec_active (s : State) (l : LineIdx) (r : LineRec) : (s.setLineRec l r).active = s.active := rfl

/-! ## setPin -/

@[simp] theorem State.setPin_layout (s : State) (l : LineIdx) (b : Bool) : (s.setPin l b).layout = s.layout := rfl
@[simp] theorem State.setPin_zones (s : State) (l : LineIdx) (b : Bool) : (s.setPin l b).zones = s.zones := rfl
@[simp] theorem State.setPin_beams (s : State) (l : LineIdx) (b : Bool) : (s.setPin l b).beams = s.beams := rfl
@[simp] theorem State.setPin_exits (s : State) (l : LineIdx) (b : Bool) : (s.setPin l b).exits = { s.exits with pins := s.exits.pins.set l b } :=
    rfl
@[simp] theorem State.setPin_engine (s : State) (l : LineIdx) (b : Bool) : (s.setPin l b).engine = s.engine := rfl
@[simp] theorem State.setPin_aspect (s : State) (l : LineIdx) (b : Bool) : (s.setPin l b).aspect = s.aspect := rfl
@[simp] theorem State.setPin_signLine (s : State) (l : LineIdx) (b : Bool) : (s.setPin l b).signLine = s.signLine :=
    rfl
@[simp] theorem State.setPin_boundary (s : State) (l : LineIdx) (b : Bool) : (s.setPin l b).boundary = s.boundary :=
    rfl
@[simp] theorem State.setPin_alarm (s : State) (l : LineIdx) (b : Bool) : (s.setPin l b).alarm = s.alarm := rfl
@[simp] theorem State.setPin_port (s : State) (l : LineIdx) (b : Bool) : (s.setPin l b).port = s.port := rfl
@[simp] theorem State.setPin_store (s : State) (l : LineIdx) (b : Bool) : (s.setPin l b).store = s.store := rfl
@[simp] theorem State.setPin_loaded (s : State) (l : LineIdx) (b : Bool) : (s.setPin l b).loaded = s.loaded := rfl
@[simp] theorem State.setPin_freeCount (s : State) (l : LineIdx) (b : Bool) : (s.setPin l b).freeCount = s.freeCount :=
    rfl
@[simp] theorem State.setPin_pending (s : State) (l : LineIdx) (b : Bool) : (s.setPin l b).pending = s.pending := rfl
@[simp] theorem State.setPin_active (s : State) (l : LineIdx) (b : Bool) : (s.setPin l b).active = s.active := rfl

/-! ## setGrace -/

@[simp] theorem State.setGrace_layout (s : State) (g : DoorGrace) : (s.setGrace g).layout = s.layout := rfl
@[simp] theorem State.setGrace_zones (s : State) (g : DoorGrace) : (s.setGrace g).zones = s.zones := rfl
@[simp] theorem State.setGrace_beams (s : State) (g : DoorGrace) : (s.setGrace g).beams = s.beams := rfl
@[simp] theorem State.setGrace_exits (s : State) (g : DoorGrace) : (s.setGrace g).exits = { s.exits with grace := g } :=
    rfl
@[simp] theorem State.setGrace_engine (s : State) (g : DoorGrace) : (s.setGrace g).engine = s.engine := rfl
@[simp] theorem State.setGrace_aspect (s : State) (g : DoorGrace) : (s.setGrace g).aspect = s.aspect := rfl
@[simp] theorem State.setGrace_signLine (s : State) (g : DoorGrace) : (s.setGrace g).signLine = s.signLine := rfl
@[simp] theorem State.setGrace_boundary (s : State) (g : DoorGrace) : (s.setGrace g).boundary = s.boundary := rfl
@[simp] theorem State.setGrace_alarm (s : State) (g : DoorGrace) : (s.setGrace g).alarm = s.alarm := rfl
@[simp] theorem State.setGrace_port (s : State) (g : DoorGrace) : (s.setGrace g).port = s.port := rfl
@[simp] theorem State.setGrace_store (s : State) (g : DoorGrace) : (s.setGrace g).store = s.store := rfl
@[simp] theorem State.setGrace_loaded (s : State) (g : DoorGrace) : (s.setGrace g).loaded = s.loaded := rfl
@[simp] theorem State.setGrace_freeCount (s : State) (g : DoorGrace) : (s.setGrace g).freeCount = s.freeCount := rfl
@[simp] theorem State.setGrace_pending (s : State) (g : DoorGrace) : (s.setGrace g).pending = s.pending := rfl
@[simp] theorem State.setGrace_active (s : State) (g : DoorGrace) : (s.setGrace g).active = s.active := rfl

/-! ## adoptLines -/

@[simp] theorem State.adoptLines_layout (s : State) : (s.adoptLines).layout = s.layout := rfl
@[simp] theorem State.adoptLines_zones (s : State) : (s.adoptLines).zones = s.zones := rfl
@[simp] theorem State.adoptLines_beams (s : State) : (s.adoptLines).beams = s.beams := rfl
@[simp] theorem State.adoptLines_engine (s : State) : (s.adoptLines).engine = s.engine := rfl
@[simp] theorem State.adoptLines_aspect (s : State) : (s.adoptLines).aspect = s.aspect := rfl
@[simp] theorem State.adoptLines_signLine (s : State) : (s.adoptLines).signLine = s.signLine := rfl
@[simp] theorem State.adoptLines_boundary (s : State) : (s.adoptLines).boundary = s.boundary := rfl
@[simp] theorem State.adoptLines_alarm (s : State) : (s.adoptLines).alarm = s.alarm := rfl
@[simp] theorem State.adoptLines_port (s : State) : (s.adoptLines).port = s.port := rfl
@[simp] theorem State.adoptLines_store (s : State) : (s.adoptLines).store = s.store := rfl
@[simp] theorem State.adoptLines_loaded (s : State) : (s.adoptLines).loaded = s.loaded := rfl
@[simp] theorem State.adoptLines_freeCount (s : State) : (s.adoptLines).freeCount = s.freeCount := rfl
@[simp] theorem State.adoptLines_pending (s : State) : (s.adoptLines).pending = s.pending := rfl
@[simp] theorem State.adoptLines_active (s : State) : (s.adoptLines).active = s.active := rfl

/-! ## setSign -/

@[simp] theorem State.setSign_layout (s : State) (i : SignIdx) (r : SignRec) : (s.setSign i r).layout = s.layout :=
    rfl
@[simp] theorem State.setSign_zones (s : State) (i : SignIdx) (r : SignRec) : (s.setSign i r).zones = s.zones := rfl
@[simp] theorem State.setSign_beams (s : State) (i : SignIdx) (r : SignRec) : (s.setSign i r).beams = s.beams := rfl
@[simp] theorem State.setSign_exits (s : State) (i : SignIdx) (r : SignRec) : (s.setSign i r).exits = s.exits := rfl
@[simp] theorem State.setSign_engine (s : State) (i : SignIdx) (r : SignRec) : (s.setSign i r).engine = s.engine :=
    rfl
@[simp] theorem State.setSign_aspect (s : State) (i : SignIdx) (r : SignRec) : (s.setSign i r).aspect = { s.aspect with signs := s.aspect.signs.set i r } :=
    rfl
@[simp] theorem State.setSign_signLine (s : State) (i : SignIdx) (r : SignRec) : (s.setSign i r).signLine = s.signLine :=
    rfl
@[simp] theorem State.setSign_boundary (s : State) (i : SignIdx) (r : SignRec) : (s.setSign i r).boundary = s.boundary :=
    rfl
@[simp] theorem State.setSign_alarm (s : State) (i : SignIdx) (r : SignRec) : (s.setSign i r).alarm = s.alarm := rfl
@[simp] theorem State.setSign_port (s : State) (i : SignIdx) (r : SignRec) : (s.setSign i r).port = s.port := rfl
@[simp] theorem State.setSign_store (s : State) (i : SignIdx) (r : SignRec) : (s.setSign i r).store = s.store := rfl
@[simp] theorem State.setSign_loaded (s : State) (i : SignIdx) (r : SignRec) : (s.setSign i r).loaded = s.loaded :=
    rfl
@[simp] theorem State.setSign_freeCount (s : State) (i : SignIdx) (r : SignRec) : (s.setSign i r).freeCount = s.freeCount :=
    rfl
@[simp] theorem State.setSign_pending (s : State) (i : SignIdx) (r : SignRec) : (s.setSign i r).pending = s.pending :=
    rfl
@[simp] theorem State.setSign_active (s : State) (i : SignIdx) (r : SignRec) : (s.setSign i r).active = s.active := rfl

/-! ## adoptSigns -/

@[simp] theorem State.adoptSigns_layout (s : State) (old : Layout) : (s.adoptSigns old).layout = s.layout := rfl
@[simp] theorem State.adoptSigns_zones (s : State) (old : Layout) : (s.adoptSigns old).zones = s.zones := rfl
@[simp] theorem State.adoptSigns_beams (s : State) (old : Layout) : (s.adoptSigns old).beams = s.beams := rfl
@[simp] theorem State.adoptSigns_exits (s : State) (old : Layout) : (s.adoptSigns old).exits = s.exits := rfl
@[simp] theorem State.adoptSigns_engine (s : State) (old : Layout) : (s.adoptSigns old).engine = s.engine := rfl
@[simp] theorem State.adoptSigns_signLine (s : State) (old : Layout) : (s.adoptSigns old).signLine = s.signLine := rfl
@[simp] theorem State.adoptSigns_boundary (s : State) (old : Layout) : (s.adoptSigns old).boundary = s.boundary := rfl
@[simp] theorem State.adoptSigns_alarm (s : State) (old : Layout) : (s.adoptSigns old).alarm = s.alarm := rfl
@[simp] theorem State.adoptSigns_port (s : State) (old : Layout) : (s.adoptSigns old).port = s.port := rfl
@[simp] theorem State.adoptSigns_store (s : State) (old : Layout) : (s.adoptSigns old).store = s.store := rfl
@[simp] theorem State.adoptSigns_loaded (s : State) (old : Layout) : (s.adoptSigns old).loaded = s.loaded := rfl
@[simp] theorem State.adoptSigns_freeCount (s : State) (old : Layout) : (s.adoptSigns old).freeCount = s.freeCount :=
    rfl
@[simp] theorem State.adoptSigns_pending (s : State) (old : Layout) : (s.adoptSigns old).pending = s.pending := rfl
@[simp] theorem State.adoptSigns_active (s : State) (old : Layout) : (s.adoptSigns old).active = s.active := rfl

/-! ## setHead -/

@[simp] theorem State.setHead_layout (s : State) (i : SignIdx) (h : HeadRec) : (s.setHead i h).layout = s.layout :=
    rfl
@[simp] theorem State.setHead_zones (s : State) (i : SignIdx) (h : HeadRec) : (s.setHead i h).zones = s.zones := rfl
@[simp] theorem State.setHead_beams (s : State) (i : SignIdx) (h : HeadRec) : (s.setHead i h).beams = s.beams := rfl
@[simp] theorem State.setHead_exits (s : State) (i : SignIdx) (h : HeadRec) : (s.setHead i h).exits = s.exits := rfl
@[simp] theorem State.setHead_engine (s : State) (i : SignIdx) (h : HeadRec) : (s.setHead i h).engine = s.engine :=
    rfl
@[simp] theorem State.setHead_aspect (s : State) (i : SignIdx) (h : HeadRec) : (s.setHead i h).aspect = s.aspect :=
    rfl
@[simp] theorem State.setHead_signLine (s : State) (i : SignIdx) (h : HeadRec) : (s.setHead i h).signLine = { s.signLine with heads := s.signLine.heads.set i h } :=
    rfl
@[simp] theorem State.setHead_boundary (s : State) (i : SignIdx) (h : HeadRec) : (s.setHead i h).boundary = s.boundary :=
    rfl
@[simp] theorem State.setHead_alarm (s : State) (i : SignIdx) (h : HeadRec) : (s.setHead i h).alarm = s.alarm := rfl
@[simp] theorem State.setHead_port (s : State) (i : SignIdx) (h : HeadRec) : (s.setHead i h).port = s.port := rfl
@[simp] theorem State.setHead_store (s : State) (i : SignIdx) (h : HeadRec) : (s.setHead i h).store = s.store := rfl
@[simp] theorem State.setHead_loaded (s : State) (i : SignIdx) (h : HeadRec) : (s.setHead i h).loaded = s.loaded :=
    rfl
@[simp] theorem State.setHead_freeCount (s : State) (i : SignIdx) (h : HeadRec) : (s.setHead i h).freeCount = s.freeCount :=
    rfl
@[simp] theorem State.setHead_pending (s : State) (i : SignIdx) (h : HeadRec) : (s.setHead i h).pending = s.pending :=
    rfl
@[simp] theorem State.setHead_active (s : State) (i : SignIdx) (h : HeadRec) : (s.setHead i h).active = s.active := rfl

/-! ## setTrunk -/

@[simp] theorem State.setTrunk_layout (s : State) (t : TrunkIdx) (r : TrunkRec) : (s.setTrunk t r).layout = s.layout :=
    rfl
@[simp] theorem State.setTrunk_zones (s : State) (t : TrunkIdx) (r : TrunkRec) : (s.setTrunk t r).zones = s.zones :=
    rfl
@[simp] theorem State.setTrunk_beams (s : State) (t : TrunkIdx) (r : TrunkRec) : (s.setTrunk t r).beams = s.beams :=
    rfl
@[simp] theorem State.setTrunk_exits (s : State) (t : TrunkIdx) (r : TrunkRec) : (s.setTrunk t r).exits = s.exits :=
    rfl
@[simp] theorem State.setTrunk_engine (s : State) (t : TrunkIdx) (r : TrunkRec) : (s.setTrunk t r).engine = s.engine :=
    rfl
@[simp] theorem State.setTrunk_aspect (s : State) (t : TrunkIdx) (r : TrunkRec) : (s.setTrunk t r).aspect = s.aspect :=
    rfl
@[simp] theorem State.setTrunk_signLine (s : State) (t : TrunkIdx) (r : TrunkRec) : (s.setTrunk t r).signLine = { s.signLine with trunks := s.signLine.trunks.set t r } :=
    rfl
@[simp] theorem State.setTrunk_boundary (s : State) (t : TrunkIdx) (r : TrunkRec) : (s.setTrunk t r).boundary = s.boundary :=
    rfl
@[simp] theorem State.setTrunk_alarm (s : State) (t : TrunkIdx) (r : TrunkRec) : (s.setTrunk t r).alarm = s.alarm :=
    rfl
@[simp] theorem State.setTrunk_port (s : State) (t : TrunkIdx) (r : TrunkRec) : (s.setTrunk t r).port = s.port := rfl
@[simp] theorem State.setTrunk_store (s : State) (t : TrunkIdx) (r : TrunkRec) : (s.setTrunk t r).store = s.store :=
    rfl
@[simp] theorem State.setTrunk_loaded (s : State) (t : TrunkIdx) (r : TrunkRec) : (s.setTrunk t r).loaded = s.loaded :=
    rfl
@[simp] theorem State.setTrunk_freeCount (s : State) (t : TrunkIdx) (r : TrunkRec) : (s.setTrunk t r).freeCount = s.freeCount :=
    rfl
@[simp] theorem State.setTrunk_pending (s : State) (t : TrunkIdx) (r : TrunkRec) : (s.setTrunk t r).pending = s.pending :=
    rfl
@[simp] theorem State.setTrunk_active (s : State) (t : TrunkIdx) (r : TrunkRec) : (s.setTrunk t r).active = s.active := rfl

/-! ## setQueue -/

@[simp] theorem State.setQueue_layout (s : State) (q : List SignIdx) : (s.setQueue q).layout = s.layout := rfl
@[simp] theorem State.setQueue_zones (s : State) (q : List SignIdx) : (s.setQueue q).zones = s.zones := rfl
@[simp] theorem State.setQueue_beams (s : State) (q : List SignIdx) : (s.setQueue q).beams = s.beams := rfl
@[simp] theorem State.setQueue_exits (s : State) (q : List SignIdx) : (s.setQueue q).exits = s.exits := rfl
@[simp] theorem State.setQueue_engine (s : State) (q : List SignIdx) : (s.setQueue q).engine = s.engine := rfl
@[simp] theorem State.setQueue_aspect (s : State) (q : List SignIdx) : (s.setQueue q).aspect = s.aspect := rfl
@[simp] theorem State.setQueue_signLine (s : State) (q : List SignIdx) : (s.setQueue q).signLine = { s.signLine with queue := q } :=
    rfl
@[simp] theorem State.setQueue_boundary (s : State) (q : List SignIdx) : (s.setQueue q).boundary = s.boundary := rfl
@[simp] theorem State.setQueue_alarm (s : State) (q : List SignIdx) : (s.setQueue q).alarm = s.alarm := rfl
@[simp] theorem State.setQueue_port (s : State) (q : List SignIdx) : (s.setQueue q).port = s.port := rfl
@[simp] theorem State.setQueue_store (s : State) (q : List SignIdx) : (s.setQueue q).store = s.store := rfl
@[simp] theorem State.setQueue_loaded (s : State) (q : List SignIdx) : (s.setQueue q).loaded = s.loaded := rfl
@[simp] theorem State.setQueue_freeCount (s : State) (q : List SignIdx) : (s.setQueue q).freeCount = s.freeCount :=
    rfl
@[simp] theorem State.setQueue_pending (s : State) (q : List SignIdx) : (s.setQueue q).pending = s.pending := rfl
@[simp] theorem State.setQueue_active (s : State) (q : List SignIdx) : (s.setQueue q).active = s.active := rfl

/-! ## adoptTrunks -/

@[simp] theorem State.adoptTrunks_layout (s : State) : (s.adoptTrunks).layout = s.layout := rfl
@[simp] theorem State.adoptTrunks_zones (s : State) : (s.adoptTrunks).zones = s.zones := rfl
@[simp] theorem State.adoptTrunks_beams (s : State) : (s.adoptTrunks).beams = s.beams := rfl
@[simp] theorem State.adoptTrunks_exits (s : State) : (s.adoptTrunks).exits = s.exits := rfl
@[simp] theorem State.adoptTrunks_engine (s : State) : (s.adoptTrunks).engine = s.engine := rfl
@[simp] theorem State.adoptTrunks_aspect (s : State) : (s.adoptTrunks).aspect = s.aspect := rfl
@[simp] theorem State.adoptTrunks_boundary (s : State) : (s.adoptTrunks).boundary = s.boundary := rfl
@[simp] theorem State.adoptTrunks_alarm (s : State) : (s.adoptTrunks).alarm = s.alarm := rfl
@[simp] theorem State.adoptTrunks_port (s : State) : (s.adoptTrunks).port = s.port := rfl
@[simp] theorem State.adoptTrunks_store (s : State) : (s.adoptTrunks).store = s.store := rfl
@[simp] theorem State.adoptTrunks_loaded (s : State) : (s.adoptTrunks).loaded = s.loaded := rfl
@[simp] theorem State.adoptTrunks_freeCount (s : State) : (s.adoptTrunks).freeCount = s.freeCount := rfl
@[simp] theorem State.adoptTrunks_pending (s : State) : (s.adoptTrunks).pending = s.pending := rfl
@[simp] theorem State.adoptTrunks_active (s : State) : (s.adoptTrunks).active = s.active := rfl

/-! ## setBoundary -/

@[simp] theorem State.setBoundary_layout (s : State) (b : Boundary) : (s.setBoundary b).layout = s.layout := rfl
@[simp] theorem State.setBoundary_zones (s : State) (b : Boundary) : (s.setBoundary b).zones = s.zones := rfl
@[simp] theorem State.setBoundary_beams (s : State) (b : Boundary) : (s.setBoundary b).beams = s.beams := rfl
@[simp] theorem State.setBoundary_exits (s : State) (b : Boundary) : (s.setBoundary b).exits = s.exits := rfl
@[simp] theorem State.setBoundary_engine (s : State) (b : Boundary) : (s.setBoundary b).engine = s.engine := rfl
@[simp] theorem State.setBoundary_aspect (s : State) (b : Boundary) : (s.setBoundary b).aspect = s.aspect := rfl
@[simp] theorem State.setBoundary_signLine (s : State) (b : Boundary) : (s.setBoundary b).signLine = s.signLine := rfl
@[simp] theorem State.setBoundary_boundary (s : State) (b : Boundary) : (s.setBoundary b).boundary = b := rfl
@[simp] theorem State.setBoundary_alarm (s : State) (b : Boundary) : (s.setBoundary b).alarm = s.alarm := rfl
@[simp] theorem State.setBoundary_port (s : State) (b : Boundary) : (s.setBoundary b).port = s.port := rfl
@[simp] theorem State.setBoundary_store (s : State) (b : Boundary) : (s.setBoundary b).store = s.store := rfl
@[simp] theorem State.setBoundary_loaded (s : State) (b : Boundary) : (s.setBoundary b).loaded = s.loaded := rfl
@[simp] theorem State.setBoundary_freeCount (s : State) (b : Boundary) : (s.setBoundary b).freeCount = s.freeCount :=
    rfl
@[simp] theorem State.setBoundary_pending (s : State) (b : Boundary) : (s.setBoundary b).pending = s.pending := rfl
@[simp] theorem State.setBoundary_active (s : State) (b : Boundary) : (s.setBoundary b).active = s.active := rfl

/-! ## setPassage -/

@[simp] theorem State.setPassage_layout (s : State) (p : PassageIdx) (r : PassageRec) : (s.setPassage p r).layout = s.layout :=
    rfl
@[simp] theorem State.setPassage_zones (s : State) (p : PassageIdx) (r : PassageRec) : (s.setPassage p r).zones = s.zones :=
    rfl
@[simp] theorem State.setPassage_beams (s : State) (p : PassageIdx) (r : PassageRec) : (s.setPassage p r).beams = s.beams :=
    rfl
@[simp] theorem State.setPassage_exits (s : State) (p : PassageIdx) (r : PassageRec) : (s.setPassage p r).exits = s.exits :=
    rfl
@[simp] theorem State.setPassage_engine (s : State) (p : PassageIdx) (r : PassageRec) : (s.setPassage p r).engine = s.engine :=
    rfl
@[simp] theorem State.setPassage_aspect (s : State) (p : PassageIdx) (r : PassageRec) : (s.setPassage p r).aspect = s.aspect :=
    rfl
@[simp] theorem State.setPassage_signLine (s : State) (p : PassageIdx) (r : PassageRec) : (s.setPassage p r).signLine = s.signLine :=
    rfl
@[simp] theorem State.setPassage_boundary (s : State) (p : PassageIdx) (r : PassageRec) : (s.setPassage p r).boundary = { s.boundary with passages := s.boundary.passages.set p r } :=
    rfl
@[simp] theorem State.setPassage_alarm (s : State) (p : PassageIdx) (r : PassageRec) : (s.setPassage p r).alarm = s.alarm :=
    rfl
@[simp] theorem State.setPassage_port (s : State) (p : PassageIdx) (r : PassageRec) : (s.setPassage p r).port = s.port :=
    rfl
@[simp] theorem State.setPassage_store (s : State) (p : PassageIdx) (r : PassageRec) : (s.setPassage p r).store = s.store :=
    rfl
@[simp] theorem State.setPassage_loaded (s : State) (p : PassageIdx) (r : PassageRec) : (s.setPassage p r).loaded = s.loaded :=
    rfl
@[simp] theorem State.setPassage_freeCount (s : State) (p : PassageIdx) (r : PassageRec) : (s.setPassage p r).freeCount = s.freeCount :=
    rfl
@[simp] theorem State.setPassage_pending (s : State) (p : PassageIdx) (r : PassageRec) : (s.setPassage p r).pending = s.pending :=
    rfl
@[simp] theorem State.setPassage_active (s : State) (p : PassageIdx) (r : PassageRec) : (s.setPassage p r).active = s.active := rfl

/-! ## badFrame -/

@[simp] theorem State.badFrame_layout (s : State) : (s.badFrame).layout = s.layout := rfl
@[simp] theorem State.badFrame_zones (s : State) : (s.badFrame).zones = s.zones := rfl
@[simp] theorem State.badFrame_beams (s : State) : (s.badFrame).beams = s.beams := rfl
@[simp] theorem State.badFrame_exits (s : State) : (s.badFrame).exits = s.exits := rfl
@[simp] theorem State.badFrame_engine (s : State) : (s.badFrame).engine = s.engine := rfl
@[simp] theorem State.badFrame_aspect (s : State) : (s.badFrame).aspect = s.aspect := rfl
@[simp] theorem State.badFrame_signLine (s : State) : (s.badFrame).signLine = s.signLine := rfl
@[simp] theorem State.badFrame_boundary (s : State) : (s.badFrame).boundary = { s.boundary with errors := bump s.boundary.errors } :=
    rfl
@[simp] theorem State.badFrame_alarm (s : State) : (s.badFrame).alarm = s.alarm := rfl
@[simp] theorem State.badFrame_port (s : State) : (s.badFrame).port = s.port := rfl
@[simp] theorem State.badFrame_store (s : State) : (s.badFrame).store = s.store := rfl
@[simp] theorem State.badFrame_loaded (s : State) : (s.badFrame).loaded = s.loaded := rfl
@[simp] theorem State.badFrame_freeCount (s : State) : (s.badFrame).freeCount = s.freeCount := rfl
@[simp] theorem State.badFrame_pending (s : State) : (s.badFrame).pending = s.pending := rfl
@[simp] theorem State.badFrame_active (s : State) : (s.badFrame).active = s.active := rfl

/-! ## dropAdvert -/

@[simp] theorem State.dropAdvert_layout (s : State) : (s.dropAdvert).layout = s.layout := rfl
@[simp] theorem State.dropAdvert_zones (s : State) : (s.dropAdvert).zones = s.zones := rfl
@[simp] theorem State.dropAdvert_beams (s : State) : (s.dropAdvert).beams = s.beams := rfl
@[simp] theorem State.dropAdvert_exits (s : State) : (s.dropAdvert).exits = s.exits := rfl
@[simp] theorem State.dropAdvert_engine (s : State) : (s.dropAdvert).engine = s.engine := rfl
@[simp] theorem State.dropAdvert_aspect (s : State) : (s.dropAdvert).aspect = s.aspect := rfl
@[simp] theorem State.dropAdvert_signLine (s : State) : (s.dropAdvert).signLine = s.signLine := rfl
@[simp] theorem State.dropAdvert_boundary (s : State) : (s.dropAdvert).boundary = { s.boundary with waiting := none, owed := false } :=
    rfl
@[simp] theorem State.dropAdvert_alarm (s : State) : (s.dropAdvert).alarm = s.alarm := rfl
@[simp] theorem State.dropAdvert_port (s : State) : (s.dropAdvert).port = s.port := rfl
@[simp] theorem State.dropAdvert_store (s : State) : (s.dropAdvert).store = s.store := rfl
@[simp] theorem State.dropAdvert_loaded (s : State) : (s.dropAdvert).loaded = s.loaded := rfl
@[simp] theorem State.dropAdvert_freeCount (s : State) : (s.dropAdvert).freeCount = s.freeCount := rfl
@[simp] theorem State.dropAdvert_pending (s : State) : (s.dropAdvert).pending = s.pending := rfl
@[simp] theorem State.dropAdvert_active (s : State) : (s.dropAdvert).active = s.active := rfl

/-! ## setLine -/

@[simp] theorem State.setLine_layout (s : State) (l : AlarmLine) (r : AlarmLineRec) : (s.setLine l r).layout = s.layout :=
    rfl
@[simp] theorem State.setLine_zones (s : State) (l : AlarmLine) (r : AlarmLineRec) : (s.setLine l r).zones = s.zones :=
    rfl
@[simp] theorem State.setLine_beams (s : State) (l : AlarmLine) (r : AlarmLineRec) : (s.setLine l r).beams = s.beams :=
    rfl
@[simp] theorem State.setLine_exits (s : State) (l : AlarmLine) (r : AlarmLineRec) : (s.setLine l r).exits = s.exits :=
    rfl
@[simp] theorem State.setLine_engine (s : State) (l : AlarmLine) (r : AlarmLineRec) : (s.setLine l r).engine = s.engine :=
    rfl
@[simp] theorem State.setLine_aspect (s : State) (l : AlarmLine) (r : AlarmLineRec) : (s.setLine l r).aspect = s.aspect :=
    rfl
@[simp] theorem State.setLine_signLine (s : State) (l : AlarmLine) (r : AlarmLineRec) : (s.setLine l r).signLine = s.signLine :=
    rfl
@[simp] theorem State.setLine_boundary (s : State) (l : AlarmLine) (r : AlarmLineRec) : (s.setLine l r).boundary = s.boundary :=
    rfl
@[simp] theorem State.setLine_alarm (s : State) (l : AlarmLine) (r : AlarmLineRec) : (s.setLine l r).alarm = s.alarm.setLine l r :=
    rfl
@[simp] theorem State.setLine_port (s : State) (l : AlarmLine) (r : AlarmLineRec) : (s.setLine l r).port = s.port :=
    rfl
@[simp] theorem State.setLine_store (s : State) (l : AlarmLine) (r : AlarmLineRec) : (s.setLine l r).store = s.store :=
    rfl
@[simp] theorem State.setLine_loaded (s : State) (l : AlarmLine) (r : AlarmLineRec) : (s.setLine l r).loaded = s.loaded :=
    rfl
@[simp] theorem State.setLine_freeCount (s : State) (l : AlarmLine) (r : AlarmLineRec) : (s.setLine l r).freeCount = s.freeCount :=
    rfl
@[simp] theorem State.setLine_pending (s : State) (l : AlarmLine) (r : AlarmLineRec) : (s.setLine l r).pending = s.pending :=
    rfl
@[simp] theorem State.setLine_active (s : State) (l : AlarmLine) (r : AlarmLineRec) : (s.setLine l r).active = s.active := rfl

/-! ## accept -/

@[simp] theorem State.accept_layout (s : State) (q : Byte) : (s.accept q).layout = s.layout := rfl
@[simp] theorem State.accept_zones (s : State) (q : Byte) : (s.accept q).zones = s.zones := rfl
@[simp] theorem State.accept_beams (s : State) (q : Byte) : (s.accept q).beams = s.beams := rfl
@[simp] theorem State.accept_exits (s : State) (q : Byte) : (s.accept q).exits = s.exits := rfl
@[simp] theorem State.accept_engine (s : State) (q : Byte) : (s.accept q).engine = s.engine := rfl
@[simp] theorem State.accept_aspect (s : State) (q : Byte) : (s.accept q).aspect = s.aspect := rfl
@[simp] theorem State.accept_signLine (s : State) (q : Byte) : (s.accept q).signLine = s.signLine := rfl
@[simp] theorem State.accept_boundary (s : State) (q : Byte) : (s.accept q).boundary = s.boundary := rfl
@[simp] theorem State.accept_alarm (s : State) (q : Byte) : (s.accept q).alarm = { s.alarm with lastSeq := some q } :=
    rfl
@[simp] theorem State.accept_port (s : State) (q : Byte) : (s.accept q).port = s.port := rfl
@[simp] theorem State.accept_store (s : State) (q : Byte) : (s.accept q).store = s.store := rfl
@[simp] theorem State.accept_loaded (s : State) (q : Byte) : (s.accept q).loaded = s.loaded := rfl
@[simp] theorem State.accept_freeCount (s : State) (q : Byte) : (s.accept q).freeCount = s.freeCount := rfl
@[simp] theorem State.accept_pending (s : State) (q : Byte) : (s.accept q).pending = s.pending := rfl
@[simp] theorem State.accept_active (s : State) (q : Byte) : (s.accept q).active = s.active := rfl

/-! ## dropFrame -/

@[simp] theorem State.dropFrame_layout (s : State) : (s.dropFrame).layout = s.layout := rfl
@[simp] theorem State.dropFrame_zones (s : State) : (s.dropFrame).zones = s.zones := rfl
@[simp] theorem State.dropFrame_beams (s : State) : (s.dropFrame).beams = s.beams := rfl
@[simp] theorem State.dropFrame_exits (s : State) : (s.dropFrame).exits = s.exits := rfl
@[simp] theorem State.dropFrame_engine (s : State) : (s.dropFrame).engine = s.engine := rfl
@[simp] theorem State.dropFrame_aspect (s : State) : (s.dropFrame).aspect = s.aspect := rfl
@[simp] theorem State.dropFrame_signLine (s : State) : (s.dropFrame).signLine = s.signLine := rfl
@[simp] theorem State.dropFrame_boundary (s : State) : (s.dropFrame).boundary = s.boundary := rfl
@[simp] theorem State.dropFrame_port (s : State) : (s.dropFrame).port = s.port := rfl
@[simp] theorem State.dropFrame_store (s : State) : (s.dropFrame).store = s.store := rfl
@[simp] theorem State.dropFrame_loaded (s : State) : (s.dropFrame).loaded = s.loaded := rfl
@[simp] theorem State.dropFrame_freeCount (s : State) : (s.dropFrame).freeCount = s.freeCount := rfl
@[simp] theorem State.dropFrame_pending (s : State) : (s.dropFrame).pending = s.pending := rfl
@[simp] theorem State.dropFrame_active (s : State) : (s.dropFrame).active = s.active := rfl

/-! ## setStore -/

@[simp] theorem State.setStore_layout (s : State) (r : Store) : (s.setStore r).layout = s.layout := rfl
@[simp] theorem State.setStore_zones (s : State) (r : Store) : (s.setStore r).zones = s.zones := rfl
@[simp] theorem State.setStore_beams (s : State) (r : Store) : (s.setStore r).beams = s.beams := rfl
@[simp] theorem State.setStore_exits (s : State) (r : Store) : (s.setStore r).exits = s.exits := rfl
@[simp] theorem State.setStore_engine (s : State) (r : Store) : (s.setStore r).engine = s.engine := rfl
@[simp] theorem State.setStore_aspect (s : State) (r : Store) : (s.setStore r).aspect = s.aspect := rfl
@[simp] theorem State.setStore_signLine (s : State) (r : Store) : (s.setStore r).signLine = s.signLine := rfl
@[simp] theorem State.setStore_boundary (s : State) (r : Store) : (s.setStore r).boundary = s.boundary := rfl
@[simp] theorem State.setStore_alarm (s : State) (r : Store) : (s.setStore r).alarm = s.alarm := rfl
@[simp] theorem State.setStore_port (s : State) (r : Store) : (s.setStore r).port = s.port := rfl
@[simp] theorem State.setStore_store (s : State) (r : Store) : (s.setStore r).store = r := rfl
@[simp] theorem State.setStore_loaded (s : State) (r : Store) : (s.setStore r).loaded = s.loaded := rfl
@[simp] theorem State.setStore_freeCount (s : State) (r : Store) : (s.setStore r).freeCount = s.freeCount := rfl
@[simp] theorem State.setStore_pending (s : State) (r : Store) : (s.setStore r).pending = s.pending := rfl
@[simp] theorem State.setStore_active (s : State) (r : Store) : (s.setStore r).active = s.active := rfl

/-! ## setActive -/

@[simp] theorem State.setActive_layout (s : State) (a : Layout) : (s.setActive a).layout = { s.layout with active := a } :=
    rfl
@[simp] theorem State.setActive_zones (s : State) (a : Layout) : (s.setActive a).zones = s.zones := rfl
@[simp] theorem State.setActive_beams (s : State) (a : Layout) : (s.setActive a).beams = s.beams := rfl
@[simp] theorem State.setActive_exits (s : State) (a : Layout) : (s.setActive a).exits = s.exits := rfl
@[simp] theorem State.setActive_engine (s : State) (a : Layout) : (s.setActive a).engine = s.engine := rfl
@[simp] theorem State.setActive_aspect (s : State) (a : Layout) : (s.setActive a).aspect = s.aspect := rfl
@[simp] theorem State.setActive_signLine (s : State) (a : Layout) : (s.setActive a).signLine = s.signLine := rfl
@[simp] theorem State.setActive_boundary (s : State) (a : Layout) : (s.setActive a).boundary = s.boundary := rfl
@[simp] theorem State.setActive_alarm (s : State) (a : Layout) : (s.setActive a).alarm = s.alarm := rfl
@[simp] theorem State.setActive_port (s : State) (a : Layout) : (s.setActive a).port = s.port := rfl
@[simp] theorem State.setActive_store (s : State) (a : Layout) : (s.setActive a).store = s.store := rfl
@[simp] theorem State.setActive_loaded (s : State) (a : Layout) : (s.setActive a).loaded = s.loaded := rfl
@[simp] theorem State.setActive_freeCount (s : State) (a : Layout) : (s.setActive a).freeCount = s.freeCount := rfl
@[simp] theorem State.setActive_pending (s : State) (a : Layout) : (s.setActive a).pending = s.pending := rfl

/-! ## setStaging -/

@[simp] theorem State.setStaging_layout (s : State) (a : Layout) : (s.setStaging a).layout = { s.layout with staging := a } :=
    rfl
@[simp] theorem State.setStaging_zones (s : State) (a : Layout) : (s.setStaging a).zones = s.zones := rfl
@[simp] theorem State.setStaging_beams (s : State) (a : Layout) : (s.setStaging a).beams = s.beams := rfl
@[simp] theorem State.setStaging_exits (s : State) (a : Layout) : (s.setStaging a).exits = s.exits := rfl
@[simp] theorem State.setStaging_engine (s : State) (a : Layout) : (s.setStaging a).engine = s.engine := rfl
@[simp] theorem State.setStaging_aspect (s : State) (a : Layout) : (s.setStaging a).aspect = s.aspect := rfl
@[simp] theorem State.setStaging_signLine (s : State) (a : Layout) : (s.setStaging a).signLine = s.signLine := rfl
@[simp] theorem State.setStaging_boundary (s : State) (a : Layout) : (s.setStaging a).boundary = s.boundary := rfl
@[simp] theorem State.setStaging_alarm (s : State) (a : Layout) : (s.setStaging a).alarm = s.alarm := rfl
@[simp] theorem State.setStaging_port (s : State) (a : Layout) : (s.setStaging a).port = s.port := rfl
@[simp] theorem State.setStaging_store (s : State) (a : Layout) : (s.setStaging a).store = s.store := rfl
@[simp] theorem State.setStaging_loaded (s : State) (a : Layout) : (s.setStaging a).loaded = s.loaded := rfl
@[simp] theorem State.setStaging_freeCount (s : State) (a : Layout) : (s.setStaging a).freeCount = s.freeCount := rfl
@[simp] theorem State.setStaging_pending (s : State) (a : Layout) : (s.setStaging a).pending = s.pending := rfl

/-! ## loadBanks -/

@[simp] theorem State.loadBanks_zones (s : State) : (s.loadBanks).zones = s.zones := rfl
@[simp] theorem State.loadBanks_beams (s : State) : (s.loadBanks).beams = s.beams := rfl
@[simp] theorem State.loadBanks_exits (s : State) : (s.loadBanks).exits = s.exits := rfl
@[simp] theorem State.loadBanks_engine (s : State) : (s.loadBanks).engine = s.engine := rfl
@[simp] theorem State.loadBanks_aspect (s : State) : (s.loadBanks).aspect = s.aspect := rfl
@[simp] theorem State.loadBanks_signLine (s : State) : (s.loadBanks).signLine = s.signLine := rfl
@[simp] theorem State.loadBanks_boundary (s : State) : (s.loadBanks).boundary = s.boundary := rfl
@[simp] theorem State.loadBanks_alarm (s : State) : (s.loadBanks).alarm = s.alarm := rfl
@[simp] theorem State.loadBanks_port (s : State) : (s.loadBanks).port = s.port := rfl
@[simp] theorem State.loadBanks_loaded (s : State) : (s.loadBanks).loaded = s.loaded := rfl
@[simp] theorem State.loadBanks_freeCount (s : State) : (s.loadBanks).freeCount = s.freeCount := rfl
@[simp] theorem State.loadBanks_pending (s : State) : (s.loadBanks).pending = s.pending := rfl

/-! ## loadBeams -/

@[simp] theorem State.loadBeams_layout (s : State) : (s.loadBeams).layout = s.layout := rfl
@[simp] theorem State.loadBeams_zones (s : State) : (s.loadBeams).zones = s.zones := rfl
@[simp] theorem State.loadBeams_beams (s : State) : (s.loadBeams).beams = Table.ofFn s.loadBeam := rfl
@[simp] theorem State.loadBeams_exits (s : State) : (s.loadBeams).exits = s.exits := rfl
@[simp] theorem State.loadBeams_engine (s : State) : (s.loadBeams).engine = s.engine := rfl
@[simp] theorem State.loadBeams_aspect (s : State) : (s.loadBeams).aspect = s.aspect := rfl
@[simp] theorem State.loadBeams_signLine (s : State) : (s.loadBeams).signLine = s.signLine := rfl
@[simp] theorem State.loadBeams_boundary (s : State) : (s.loadBeams).boundary = s.boundary := rfl
@[simp] theorem State.loadBeams_alarm (s : State) : (s.loadBeams).alarm = s.alarm := rfl
@[simp] theorem State.loadBeams_port (s : State) : (s.loadBeams).port = s.port := rfl
@[simp] theorem State.loadBeams_store (s : State) : (s.loadBeams).store = s.store := rfl
@[simp] theorem State.loadBeams_loaded (s : State) : (s.loadBeams).loaded = s.loaded := rfl
@[simp] theorem State.loadBeams_freeCount (s : State) : (s.loadBeams).freeCount = s.freeCount := rfl
@[simp] theorem State.loadBeams_pending (s : State) : (s.loadBeams).pending = s.pending := rfl
@[simp] theorem State.loadBeams_active (s : State) : (s.loadBeams).active = s.active := rfl

/-! ## loadLines -/

@[simp] theorem State.loadLines_layout (s : State) : (s.loadLines).layout = s.layout := rfl
@[simp] theorem State.loadLines_zones (s : State) : (s.loadLines).zones = s.zones := rfl
@[simp] theorem State.loadLines_beams (s : State) : (s.loadLines).beams = s.beams := rfl
@[simp] theorem State.loadLines_exits (s : State) : (s.loadLines).exits = { s.exits with lines := Table.ofFn s.loadLine } :=
    rfl
@[simp] theorem State.loadLines_engine (s : State) : (s.loadLines).engine = s.engine := rfl
@[simp] theorem State.loadLines_aspect (s : State) : (s.loadLines).aspect = s.aspect := rfl
@[simp] theorem State.loadLines_signLine (s : State) : (s.loadLines).signLine = s.signLine := rfl
@[simp] theorem State.loadLines_boundary (s : State) : (s.loadLines).boundary = s.boundary := rfl
@[simp] theorem State.loadLines_alarm (s : State) : (s.loadLines).alarm = s.alarm := rfl
@[simp] theorem State.loadLines_port (s : State) : (s.loadLines).port = s.port := rfl
@[simp] theorem State.loadLines_store (s : State) : (s.loadLines).store = s.store := rfl
@[simp] theorem State.loadLines_loaded (s : State) : (s.loadLines).loaded = s.loaded := rfl
@[simp] theorem State.loadLines_freeCount (s : State) : (s.loadLines).freeCount = s.freeCount := rfl
@[simp] theorem State.loadLines_pending (s : State) : (s.loadLines).pending = s.pending := rfl
@[simp] theorem State.loadLines_active (s : State) : (s.loadLines).active = s.active := rfl

/-! ## loadExits -/

@[simp] theorem State.loadExits_layout (s : State) : (s.loadExits).layout = s.layout := rfl
@[simp] theorem State.loadExits_zones (s : State) : (s.loadExits).zones = s.zones := rfl
@[simp] theorem State.loadExits_beams (s : State) : (s.loadExits).beams = s.beams := rfl
@[simp] theorem State.loadExits_exits (s : State) : (s.loadExits).exits = { s.exits with exits := Table.ofFn s.loadExit } :=
    rfl
@[simp] theorem State.loadExits_engine (s : State) : (s.loadExits).engine = s.engine := rfl
@[simp] theorem State.loadExits_aspect (s : State) : (s.loadExits).aspect = s.aspect := rfl
@[simp] theorem State.loadExits_signLine (s : State) : (s.loadExits).signLine = s.signLine := rfl
@[simp] theorem State.loadExits_boundary (s : State) : (s.loadExits).boundary = s.boundary := rfl
@[simp] theorem State.loadExits_alarm (s : State) : (s.loadExits).alarm = s.alarm := rfl
@[simp] theorem State.loadExits_port (s : State) : (s.loadExits).port = s.port := rfl
@[simp] theorem State.loadExits_store (s : State) : (s.loadExits).store = s.store := rfl
@[simp] theorem State.loadExits_loaded (s : State) : (s.loadExits).loaded = s.loaded := rfl
@[simp] theorem State.loadExits_freeCount (s : State) : (s.loadExits).freeCount = s.freeCount := rfl
@[simp] theorem State.loadExits_pending (s : State) : (s.loadExits).pending = s.pending := rfl
@[simp] theorem State.loadExits_active (s : State) : (s.loadExits).active = s.active := rfl

/-! ## loadHeads -/

@[simp] theorem State.loadHeads_layout (s : State) : (s.loadHeads).layout = s.layout := rfl
@[simp] theorem State.loadHeads_zones (s : State) : (s.loadHeads).zones = s.zones := rfl
@[simp] theorem State.loadHeads_beams (s : State) : (s.loadHeads).beams = s.beams := rfl
@[simp] theorem State.loadHeads_exits (s : State) : (s.loadHeads).exits = s.exits := rfl
@[simp] theorem State.loadHeads_engine (s : State) : (s.loadHeads).engine = s.engine := rfl
@[simp] theorem State.loadHeads_aspect (s : State) : (s.loadHeads).aspect = s.aspect := rfl
@[simp] theorem State.loadHeads_signLine (s : State) : (s.loadHeads).signLine = { s.signLine with heads := Table.ofFn s.loadHead } :=
    rfl
@[simp] theorem State.loadHeads_boundary (s : State) : (s.loadHeads).boundary = s.boundary := rfl
@[simp] theorem State.loadHeads_alarm (s : State) : (s.loadHeads).alarm = s.alarm := rfl
@[simp] theorem State.loadHeads_port (s : State) : (s.loadHeads).port = s.port := rfl
@[simp] theorem State.loadHeads_store (s : State) : (s.loadHeads).store = s.store := rfl
@[simp] theorem State.loadHeads_loaded (s : State) : (s.loadHeads).loaded = s.loaded := rfl
@[simp] theorem State.loadHeads_freeCount (s : State) : (s.loadHeads).freeCount = s.freeCount := rfl
@[simp] theorem State.loadHeads_pending (s : State) : (s.loadHeads).pending = s.pending := rfl
@[simp] theorem State.loadHeads_active (s : State) : (s.loadHeads).active = s.active := rfl

/-! ## startSupervision -/

@[simp] theorem State.startSupervision_layout (s : State) : (s.startSupervision).layout = s.layout := rfl
@[simp] theorem State.startSupervision_zones (s : State) : (s.startSupervision).zones = s.zones := rfl
@[simp] theorem State.startSupervision_beams (s : State) : (s.startSupervision).beams = s.beams := rfl
@[simp] theorem State.startSupervision_exits (s : State) : (s.startSupervision).exits = s.exits := rfl
@[simp] theorem State.startSupervision_engine (s : State) : (s.startSupervision).engine = s.engine := rfl
@[simp] theorem State.startSupervision_aspect (s : State) : (s.startSupervision).aspect = s.aspect := rfl
@[simp] theorem State.startSupervision_signLine (s : State) : (s.startSupervision).signLine = s.signLine := rfl
@[simp] theorem State.startSupervision_boundary (s : State) : (s.startSupervision).boundary = s.boundary := rfl
@[simp] theorem State.startSupervision_port (s : State) : (s.startSupervision).port = s.port := rfl
@[simp] theorem State.startSupervision_store (s : State) : (s.startSupervision).store = s.store := rfl
@[simp] theorem State.startSupervision_loaded (s : State) : (s.startSupervision).loaded = s.loaded := rfl
@[simp] theorem State.startSupervision_freeCount (s : State) : (s.startSupervision).freeCount = s.freeCount := rfl
@[simp] theorem State.startSupervision_pending (s : State) : (s.startSupervision).pending = s.pending := rfl
@[simp] theorem State.startSupervision_active (s : State) : (s.startSupervision).active = s.active := rfl

/-! ## openPort -/

@[simp] theorem State.openPort_layout (s : State) : (s.openPort).layout = s.layout := rfl
@[simp] theorem State.openPort_zones (s : State) : (s.openPort).zones = s.zones := rfl
@[simp] theorem State.openPort_beams (s : State) : (s.openPort).beams = s.beams := rfl
@[simp] theorem State.openPort_exits (s : State) : (s.openPort).exits = s.exits := rfl
@[simp] theorem State.openPort_engine (s : State) : (s.openPort).engine = s.engine := rfl
@[simp] theorem State.openPort_aspect (s : State) : (s.openPort).aspect = s.aspect := rfl
@[simp] theorem State.openPort_signLine (s : State) : (s.openPort).signLine = s.signLine := rfl
@[simp] theorem State.openPort_boundary (s : State) : (s.openPort).boundary = s.boundary := rfl
@[simp] theorem State.openPort_alarm (s : State) : (s.openPort).alarm = s.alarm := rfl
@[simp] theorem State.openPort_port (s : State) : (s.openPort).port = { s.port with ready := !s.port.lost } := rfl
@[simp] theorem State.openPort_store (s : State) : (s.openPort).store = s.store := rfl
@[simp] theorem State.openPort_loaded (s : State) : (s.openPort).loaded = true := rfl
@[simp] theorem State.openPort_freeCount (s : State) : (s.openPort).freeCount = s.freeCount := rfl
@[simp] theorem State.openPort_pending (s : State) : (s.openPort).pending = s.pending := rfl
@[simp] theorem State.openPort_active (s : State) : (s.openPort).active = s.active := rfl

/-! ## setEgress -/

@[simp] theorem State.setEgress_layout (s : State) (l : List NodeIdx) : (s.setEgress l).layout = s.layout := rfl
@[simp] theorem State.setEgress_zones (s : State) (l : List NodeIdx) : (s.setEgress l).zones = s.zones := rfl
@[simp] theorem State.setEgress_beams (s : State) (l : List NodeIdx) : (s.setEgress l).beams = s.beams := rfl
@[simp] theorem State.setEgress_exits (s : State) (l : List NodeIdx) : (s.setEgress l).exits = s.exits := rfl
@[simp] theorem State.setEgress_engine (s : State) (l : List NodeIdx) : (s.setEgress l).engine = s.engine := rfl
@[simp] theorem State.setEgress_aspect (s : State) (l : List NodeIdx) : (s.setEgress l).aspect = { s.aspect with egressSet := l } :=
    rfl
@[simp] theorem State.setEgress_signLine (s : State) (l : List NodeIdx) : (s.setEgress l).signLine = s.signLine := rfl
@[simp] theorem State.setEgress_boundary (s : State) (l : List NodeIdx) : (s.setEgress l).boundary = s.boundary := rfl
@[simp] theorem State.setEgress_alarm (s : State) (l : List NodeIdx) : (s.setEgress l).alarm = s.alarm := rfl
@[simp] theorem State.setEgress_port (s : State) (l : List NodeIdx) : (s.setEgress l).port = s.port := rfl
@[simp] theorem State.setEgress_store (s : State) (l : List NodeIdx) : (s.setEgress l).store = s.store := rfl
@[simp] theorem State.setEgress_loaded (s : State) (l : List NodeIdx) : (s.setEgress l).loaded = s.loaded := rfl
@[simp] theorem State.setEgress_freeCount (s : State) (l : List NodeIdx) : (s.setEgress l).freeCount = s.freeCount :=
    rfl
@[simp] theorem State.setEgress_pending (s : State) (l : List NodeIdx) : (s.setEgress l).pending = s.pending := rfl
@[simp] theorem State.setEgress_active (s : State) (l : List NodeIdx) : (s.setEgress l).active = s.active := rfl

/-! ## setMode -/

@[simp] theorem State.setMode_layout (s : State) (m : HallMode) : (s.setMode m).layout = s.layout := rfl
@[simp] theorem State.setMode_zones (s : State) (m : HallMode) : (s.setMode m).zones = s.zones := rfl
@[simp] theorem State.setMode_beams (s : State) (m : HallMode) : (s.setMode m).beams = s.beams := rfl
@[simp] theorem State.setMode_exits (s : State) (m : HallMode) : (s.setMode m).exits = s.exits := rfl
@[simp] theorem State.setMode_engine (s : State) (m : HallMode) : (s.setMode m).engine = s.engine := rfl
@[simp] theorem State.setMode_aspect (s : State) (m : HallMode) : (s.setMode m).aspect = s.aspect := rfl
@[simp] theorem State.setMode_signLine (s : State) (m : HallMode) : (s.setMode m).signLine = s.signLine := rfl
@[simp] theorem State.setMode_boundary (s : State) (m : HallMode) : (s.setMode m).boundary = s.boundary := rfl
@[simp] theorem State.setMode_alarm (s : State) (m : HallMode) : (s.setMode m).alarm = { s.alarm with mode := m } :=
    rfl
@[simp] theorem State.setMode_port (s : State) (m : HallMode) : (s.setMode m).port = s.port := rfl
@[simp] theorem State.setMode_store (s : State) (m : HallMode) : (s.setMode m).store = s.store := rfl
@[simp] theorem State.setMode_loaded (s : State) (m : HallMode) : (s.setMode m).loaded = s.loaded := rfl
@[simp] theorem State.setMode_freeCount (s : State) (m : HallMode) : (s.setMode m).freeCount = s.freeCount := rfl
@[simp] theorem State.setMode_pending (s : State) (m : HallMode) : (s.setMode m).pending = s.pending := rfl
@[simp] theorem State.setMode_active (s : State) (m : HallMode) : (s.setMode m).active = s.active := rfl

/-! ## withPending -/

@[simp] theorem State.withPending_layout (s : State) (q : List Instr) : (s.withPending q).layout = s.layout := rfl
@[simp] theorem State.withPending_zones (s : State) (q : List Instr) : (s.withPending q).zones = s.zones := rfl
@[simp] theorem State.withPending_beams (s : State) (q : List Instr) : (s.withPending q).beams = s.beams := rfl
@[simp] theorem State.withPending_exits (s : State) (q : List Instr) : (s.withPending q).exits = s.exits := rfl
@[simp] theorem State.withPending_engine (s : State) (q : List Instr) : (s.withPending q).engine = s.engine := rfl
@[simp] theorem State.withPending_aspect (s : State) (q : List Instr) : (s.withPending q).aspect = s.aspect := rfl
@[simp] theorem State.withPending_signLine (s : State) (q : List Instr) : (s.withPending q).signLine = s.signLine :=
    rfl
@[simp] theorem State.withPending_boundary (s : State) (q : List Instr) : (s.withPending q).boundary = s.boundary :=
    rfl
@[simp] theorem State.withPending_alarm (s : State) (q : List Instr) : (s.withPending q).alarm = s.alarm := rfl
@[simp] theorem State.withPending_port (s : State) (q : List Instr) : (s.withPending q).port = s.port := rfl
@[simp] theorem State.withPending_store (s : State) (q : List Instr) : (s.withPending q).store = s.store := rfl
@[simp] theorem State.withPending_loaded (s : State) (q : List Instr) : (s.withPending q).loaded = s.loaded := rfl
@[simp] theorem State.withPending_freeCount (s : State) (q : List Instr) : (s.withPending q).freeCount = s.freeCount :=
    rfl
@[simp] theorem State.withPending_pending (s : State) (q : List Instr) : (s.withPending q).pending = q := rfl
@[simp] theorem State.withPending_active (s : State) (q : List Instr) : (s.withPending q).active = s.active := rfl

end Machine
end Sys2Proof
end

