-- ==== Sys2Proof/Laws/Table.lean ====
section
/-!
SUPPORT. The laws of `Table`: what reading gives after a write, a fill or a formation from a function.
-/

namespace Sys2Proof
namespace Table

variable {α β : Type} {n : Nat}

/-- Two tables with the same records are equal. -/
theorem ext_get {t u : Table α n} (h : ∀ i, t.get i = u.get i) : t = u := by
  cases t with
  | mk l hl =>
    cases u with
    | mk m hm =>
      have : l = m := by
        apply List.ext_getElem (by rw [hl, hm])
        intro i h1 h2
        simpa [Table.get] using h ⟨i, by rw [← hl]; exact h1⟩
      subst this
      rfl

@[simp] theorem get_set_self (t : Table α n) (i : Fin n) (a : α) : (t.set i a).get i = a := by
  simp [Table.get, Table.set]

@[simp] theorem get_set_ne (t : Table α n) {i j : Fin n} (a : α) (h : j ≠ i) : (t.set i a).get j = t.get j := by
  have : i.val ≠ j.val := fun e => h (Fin.ext e.symm)
  simp [Table.get, Table.set, List.getElem_set_of_ne this]

theorem get_set (t : Table α n) (i j : Fin n) (a : α) :
    (t.set i a).get j = if j = i then a else t.get j := by
  by_cases h : j = i
  · subst h; simp
  · simp [h]

@[simp] theorem get_ofFn (f : Fin n → α) (i : Fin n) : (Table.ofFn f).get i = f i := by
  simp [Table.get, Table.ofFn]

@[simp] theorem get_replicate (a : α) (i : Fin n) : (Table.replicate n a).get i = a := by
  simp [Table.get, Table.replicate]

@[simp] theorem set_get_self (t : Table α n) (i : Fin n) : t.set i (t.get i) = t :=
  ext_get fun j => by rw [get_set]; split <;> simp_all

@[simp] theorem set_set (t : Table α n) (i : Fin n) (a b : α) : (t.set i a).set i b = t.set i b :=
  ext_get fun j => by rw [get_set, get_set, get_set]; split <;> rfl

/-- A record stands among the entries of a table exactly at its index. -/
theorem mem_entries {t : Table α n} {i : Fin n} {a : α} : (i, a) ∈ t.entries ↔ t.get i = a := by
  unfold Table.entries
  rw [List.mem_iff_getElem]
  constructor
  · rintro ⟨k, hk, he⟩
    simp only [List.getElem_zip, List.getElem_finRange, Prod.mk.injEq] at he
    obtain ⟨h1, h2⟩ := he
    subst h1
    simpa [Table.get] using h2
  · intro h
    refine ⟨i.val, by simp [t.size_eq], ?_⟩
    simpa [Table.get] using h

/-- The defined records of a table, with their indices. -/
theorem mem_defined {t : Table (Option α) n} {i : Fin n} {a : α} : (i, a) ∈ t.defined ↔ t.get i = some a := by
  unfold Table.defined
  rw [List.mem_filterMap]
  constructor
  · rintro ⟨⟨j, b⟩, hm, he⟩
    rw [mem_entries] at hm
    cases b with
    | none => simp at he
    | some b =>
      simp only [Option.map_some, Option.some.injEq, Prod.mk.injEq] at he
      obtain ⟨rfl, rfl⟩ := he
      exact hm
  · intro h
    exact ⟨(i, some a), mem_entries.2 h, rfl⟩

theorem has_iff {t : Table (Option α) n} {i : Fin n} : t.has i = true ↔ ∃ a, t.get i = some a := by
  unfold Table.has
  cases h : t.get i <;> simp

end Table
end Sys2Proof
end

