-- ==== Sys2Proof/Laws/Events.lean ====
section
/-!
SUPPORT. How the parts of an event compose (`Emit`), and what the notice queue and the sticky flags hold after a post.
-/

namespace Sys2Proof
namespace Machine

/-! ## Parts of an event -/

theorem Emit.each_foldl {α : Type} (f : α → Emit) (l : List α) (s : State) (ns : List Notice) :
    l.foldl (fun r a => let q := f a r.1; (q.1, r.2 ++ q.2)) (s, ns)
      = ((Emit.each l f s).1, ns ++ (Emit.each l f s).2) := by
  induction l generalizing s ns with
  | nil => simp [Emit.each]
  | cons a l ih =>
    simp only [Emit.each, List.foldl_cons, List.nil_append]
    rw [ih, ih (f a s).1 (f a s).2]
    simp [List.append_assoc]

@[simp] theorem Emit.each_nil {α : Type} (f : α → Emit) (s : State) : Emit.each [] f s = (s, []) := rfl

theorem Emit.each_cons {α : Type} (f : α → Emit) (a : α) (l : List α) (s : State) :
    Emit.each (a :: l) f s
      = ((Emit.each l f (f a s).1).1, (f a s).2 ++ (Emit.each l f (f a s).1).2) := by
  conv => lhs; unfold Emit.each
  rw [List.foldl_cons]
  exact Emit.each_foldl f l (f a s).1 ([] ++ (f a s).2)

/-- What every part keeps, the whole keeps. -/
theorem Emit.each_keeps {α : Type} {f : α → Emit} {P : State → Prop} {l : List α}
    (h : ∀ a ∈ l, ∀ s, P s → P (f a s).1) {s : State} (hs : P s) : P (Emit.each l f s).1 := by
  induction l generalizing s with
  | nil => exact hs
  | cons a l ih =>
    rw [Emit.each_cons]
    exact ih (fun b hb => h b (List.mem_cons_of_mem _ hb)) (h a List.mem_cons_self s hs)

/-- A field that no part changes, the whole does not change. -/
theorem Emit.each_field {α β : Type} {f : α → Emit} (g : State → β) {l : List α}
    (h : ∀ a ∈ l, ∀ s, g (f a s).1 = g s) (s : State) : g (Emit.each l f s).1 = g s :=
  Emit.each_keeps (P := fun t => g t = g s) (fun a ha t ht => (h a ha t).trans ht) rfl

/-- What holds of every notice of every part holds of every notice of the whole. -/
theorem Emit.each_notices {α : Type} {f : α → Emit} {P : State → Prop} {Q : Notice → Prop} {l : List α}
    (h : ∀ a ∈ l, ∀ s, P s → P (f a s).1 ∧ ∀ n ∈ (f a s).2, Q n) {s : State} (hs : P s) :
    ∀ n ∈ (Emit.each l f s).2, Q n := by
  induction l generalizing s with
  | nil => simp
  | cons a l ih =>
    rw [Emit.each_cons]
    intro n hn
    rcases List.mem_append.1 hn with hn | hn
    · exact (h a List.mem_cons_self s hs).2 n hn
    · exact ih (fun b hb => h b (List.mem_cons_of_mem _ hb)) (h a List.mem_cons_self s hs).1 n hn

@[simp] theorem Emit.run_port (f : Emit) (s : State) : (f.run s).port = (f s).1.port.postAll (f s).2 := rfl

/-! ## Flags -/

@[simp] theorem Flags.has_put (fs : Flags) (f g : Flag) (b : Bool) :
    (fs.put f b).has g = if g = f then b else fs.has g := by
  cases f <;> cases g <;> rfl

@[simp] theorem Flags.has_diff (fs gs : Flags) (f : Flag) : (fs.diff gs).has f = (fs.has f && !gs.has f) := by
  cases f <;> rfl

@[simp] theorem Flags.has_none (f : Flag) : Flags.none.has f = false := by
  cases f <;> rfl

theorem Flags.ext_has {fs gs : Flags} (h : ∀ f, fs.has f = gs.has f) : fs = gs := by
  cases fs; cases gs
  have h1 := h .noticeOverflow
  have h2 := h .requestLost
  have h3 := h .responseDropped
  have h4 := h .checkSeen
  have h5 := h .alarmLinkLostSeen
  have h6 := h .storeFailedSeen
  simp only [Flags.has] at *
  simp [*]

/-! ## The notice queue -/

/-- Posting changes the queue, the flags and the snapshot of a port, and nothing else. -/
theorem Port.post_other (p : Port) (n : Notice) :
    p.post n = { p with
      notices := (p.post n).notices, flags := (p.post n).flags, snapshot := (p.post n).snapshot } := by
  unfold Port.post; split <;> rfl

theorem Port.postAll_nil (p : Port) : p.postAll [] = p := rfl

theorem Port.postAll_cons (p : Port) (n : Notice) (ns : List Notice) :
    p.postAll (n :: ns) = (p.post n).postAll ns := rfl

theorem Port.postAll_append (p : Port) (ns ms : List Notice) :
    p.postAll (ns ++ ms) = (p.postAll ns).postAll ms := by
  simp [Port.postAll, List.foldl_append]

/-- Posting several notices changes the queue, the flags and the snapshot, and nothing else. -/
theorem Port.postAll_other (p : Port) (ns : List Notice) :
    p.postAll ns = { p with
      notices := (p.postAll ns).notices, flags := (p.postAll ns).flags,
      snapshot := (p.postAll ns).snapshot } := by
  induction ns generalizing p with
  | nil => rfl
  | cons n ns ih =>
    rw [Port.postAll_cons, ih, Port.post_other]

@[simp] theorem Port.postAll_state (p : Port) (ns : List Notice) : (p.postAll ns).state = p.state := by
  rw [Port.postAll_other]
@[simp] theorem Port.postAll_ready (p : Port) (ns : List Notice) : (p.postAll ns).ready = p.ready := by
  rw [Port.postAll_other]
@[simp] theorem Port.postAll_awaiting (p : Port) (ns : List Notice) : (p.postAll ns).awaiting = p.awaiting := by
  rw [Port.postAll_other]
@[simp] theorem Port.postAll_buffer (p : Port) (ns : List Notice) : (p.postAll ns).buffer = p.buffer := by
  rw [Port.postAll_other]
@[simp] theorem Port.postAll_response (p : Port) (ns : List Notice) : (p.postAll ns).response = p.response := by
  rw [Port.postAll_other]
@[simp] theorem Port.postAll_lost (p : Port) (ns : List Notice) : (p.postAll ns).lost = p.lost := by
  rw [Port.postAll_other]
@[simp] theorem Port.postAll_clock (p : Port) (ns : List Notice) : (p.postAll ns).clock = p.clock := by
  rw [Port.postAll_other]

/-- While there is room for all of them, notices join the back of the queue in order (R188). -/
theorem Port.postAll_room (p : Port) (ns : List Notice)
    (h : p.notices.length + ns.length ≤ Config.noticeCapacity) :
    p.postAll ns = { p with notices := p.notices ++ ns } := by
  induction ns generalizing p with
  | nil => simp [Port.postAll_nil]
  | cons n ns ih =>
    have h1 : p.notices.length < Config.noticeCapacity := by simp at h; omega
    have h2 : p.post n = { p with notices := p.notices ++ [n] } := by simp [Port.post, h1]
    rw [Port.postAll_cons, h2, ih]
    · simp
    · simp at h ⊢; omega

end Machine
end Sys2Proof
end

