-- ==== Sys2Proof/Laws/Frames.lean ====
section
/-!
SUPPORT. What each shared operation may change: one lemma for each, giving the state after it as the state before with the changed
fields named and every other field as it stood.
-/

namespace Sys2Proof
namespace Machine

/-! ## Exits -/

/-- `t` is `s` with, at most, exit records, driven lines and change pending changed. -/
def ExitMove (s t : State) : Prop :=
  ∃ x l p, t = { s with
    exits := { s.exits with exits := x, lines := l }
    engine := { s.engine with changePending := p } }

theorem ExitMove.refl (s : State) : ExitMove s s := ⟨_, _, _, rfl⟩

theorem ExitMove.trans {s t u : State} (h : ExitMove s t) (k : ExitMove t u) : ExitMove s u := by
  obtain ⟨_, _, _, rfl⟩ := h
  obtain ⟨_, _, _, rfl⟩ := k
  exact ⟨_, _, _, rfl⟩

theorem ExitMove.each {α : Type} {f : α → Emit} {l : List α} (h : ∀ a ∈ l, ∀ s, ExitMove s (f a s).1) (s : State) :
    ExitMove s (Emit.each l f s).1 :=
  Emit.each_keeps (P := ExitMove s) (fun a ha t ht => ht.trans (h a ha t)) (.refl s)

/-- Driving lines changes their records alone (R68). -/
theorem State.drive_frame (s : State) (p : OutputSource → Bool) :
    s.drive p = { s with exits := { s.exits with lines := (s.drive p).exits.lines } } := rfl

/-- A reason set taken moves its exit, the lines that name it and change pending (R57). -/
theorem setReasons_frame (e : ExitIdx) (r : ReasonSet) (s : State) : ExitMove s (setReasons e r s).1 := by
  unfold setReasons
  split
  · exact ⟨_, _, _, rfl⟩
  · exact .refl s

theorem deriveHazard_frame (e : ExitIdx) (s : State) : ExitMove s (deriveHazard e s).1 := setReasons_frame ..
theorem deriveDoor_frame (e : ExitIdx) (s : State) : ExitMove s (deriveDoor e s).1 := setReasons_frame ..
theorem deriveStale_frame (e : ExitIdx) (s : State) : ExitMove s (deriveStale e s).1 := setReasons_frame ..

theorem deriveDoorsOf_frame (l : LineIdx) (s : State) : ExitMove s (deriveDoorsOf l s).1 :=
  .each (fun e _ => deriveDoor_frame e) s

theorem deriveStaleOf_frame (p : PassageIdx) (s : State) : ExitMove s (deriveStaleOf p s).1 :=
  .each (fun e _ => deriveStale_frame e) s

theorem enterElapsed_frame (s : State) : ExitMove (s.setGrace .elapsed) (enterElapsed s).1 :=
  .each (fun e _ => deriveDoor_frame e) _

theorem endGrace_frame (s : State) : ExitMove (s.setGrace .idle) (endGrace s).1 :=
  .each (fun e _ t => setReasons_frame e _ t) _

/-- The Door Grace at a change of mode (R64, R66): its own state, then exits and lines. -/
theorem moveGrace_frame (m : HallMode) (s : State) : ∃ g, ExitMove (s.setGrace g) (moveGrace m s).1 := by
  cases m with
  | standby => exact ⟨_, endGrace_frame s⟩
  | evacuate =>
    simp only [moveGrace, startGrace]
    split
    · exact ⟨_, enterElapsed_frame s⟩
    · exact ⟨_, .refl _⟩

/-- A base source cost formed anew changes its exit's record alone (R58). -/
theorem State.reformBase_frame (s : State) (e : ExitIdx) : ExitMove s (s.reformBase e) := by
  unfold State.reformBase
  split
  · exact ⟨_, _, _, rfl⟩
  · exact .refl s

/-- A changed remote cost reaches exit records and change pending (R154). -/
theorem State.remoteChanged_frame (s : State) (p : PassageIdx) : ExitMove s (s.remoteChanged p) := by
  unfold State.remoteChanged
  have h (l : List ExitIdx) (t : State) : ExitMove t (l.foldl State.reformBase t) := by
    induction l generalizing t with
    | nil => exact .refl t
    | cons e l ih => exact (t.reformBase_frame e).trans (ih _)
  exact ExitMove.trans ⟨_, _, _, rfl⟩ (h _ _)

/-! ## Zones and beams -/

/-- A zone takes inputs: its own record and change pending (R29, R30). -/
theorem formZone_frame (z : ZoneIdx) (r : ZoneRec) (s : State) :
    ∃ x, ExitMove { s with zones := s.zones.set z x } (formZone z r s).1 := by
  unfold formZone
  dsimp only
  split
  · exact ⟨_, .refl _⟩
  · exact ⟨_, _, _, _, rfl⟩

/-- A zone event: its own record, then the exits whose nodes lie in it (R61). -/
theorem zoneEvent_frame (z : ZoneIdx) (r : ZoneRec) (s : State) :
    ∃ x, ExitMove { s with zones := s.zones.set z x } (zoneEvent z r s).1 := by
  obtain ⟨x, h⟩ := formZone_frame z r s
  refine ⟨x, ?_⟩
  unfold zoneEvent
  dsimp only
  split
  · exact h
  · exact h.trans (.each (fun e _ => deriveHazard_frame e) _)

/-- A channel takes a record: its own record, then perhaps its zone's event (R28, R48). -/
theorem beamEvent_frame (ch : BeamIdx) (b : BeamRec) (s : State) :
    ∃ zs, ExitMove { s with beams := s.beams.set ch b, zones := zs } (beamEvent ch b s).1 := by
  unfold beamEvent
  dsimp only
  split
  · exact ⟨_, .refl _⟩
  · obtain ⟨x, h⟩ := zoneEvent_frame (s.active.beams.get ch).zone
      { s.zones.get (s.active.beams.get ch).zone with
        beamLevel := { s with beams := s.beams.set ch b }.beamLevel (s.active.beams.get ch).zone }
      { s with beams := s.beams.set ch b }
    exact ⟨_, h⟩

/-! ## The alarm link -/

/-- The link derived anew: the link state, the sticky flags and the lines (R166). -/
theorem deriveLink_frame (s : State) :
    ∃ k f n l, (deriveLink s).1 = { s with
      alarm := { s.alarm with link := k }
      port := { s.port with flags := f, snapshot := n }
      exits := { s.exits with lines := l } } := by
  unfold deriveLink
  dsimp only
  split
  · exact ⟨_, _, _, _, rfl⟩
  · split
    · exact ⟨_, _, _, _, rfl⟩
    · exact ⟨_, _, _, _, rfl⟩

/-! ## Signs, heads and trunks -/

/-- Offering a sign changes the change queue alone (R129). -/
theorem State.offer_frame (s : State) (i : SignIdx) : ∃ q, s.offer i = s.setQueue q := by
  unfold State.offer
  split
  · exact ⟨_, rfl⟩
  · split
    · exact ⟨_, rfl⟩
    · exact ⟨_, rfl⟩

theorem State.offers_frame (l : List SignIdx) (s : State) : ∃ q, l.foldl State.offer s = s.setQueue q := by
  induction l generalizing s with
  | nil => exact ⟨_, rfl⟩
  | cons i l ih =>
    obtain ⟨q, h⟩ := s.offer_frame i
    obtain ⟨q', h'⟩ := ih (s.setQueue q)
    exact ⟨q', by rw [List.foldl_cons, h, h']; rfl⟩

/-- A sign shown changes the signs and the change queue (R114). -/
theorem State.showSign_frame (s : State) (i : SignIdx) (r : SignRec) :
    ∃ q, s.showSign i r = (s.setSign i r).setQueue q := by
  unfold State.showSign
  dsimp only
  split
  · exact ⟨_, rfl⟩
  · exact State.offer_frame _ i

/-- The evaluation of the signs changes them and the change queue (R102). -/
theorem State.evalSigns_frame (s : State) (p : Published) :
    ∃ signs q, s.evalSigns p = { s with aspect := { s.aspect with signs := signs } }.setQueue q := by
  unfold State.evalSigns
  generalize s.active.signs.defined = l
  have h (t : State) (ht : ∃ signs q, t = { s with aspect := { s.aspect with signs := signs } }.setQueue q) :
      ∃ signs q, l.foldl (fun t e => t.showSign e.1
        (evalSign s.active p s.alarm.mode s.port.clock e.2 (t.aspect.signs.get e.1))) t
          = { s with aspect := { s.aspect with signs := signs } }.setQueue q := by
    induction l generalizing t with
    | nil => exact ht
    | cons e l ih =>
      refine ih _ ?_
      obtain ⟨signs, q, rfl⟩ := ht
      obtain ⟨q', h'⟩ := State.showSign_frame ({ s with aspect := { s.aspect with signs := signs } }.setQueue q) e.1
        (evalSign s.active p s.alarm.mode s.port.clock e.2
          (({ s with aspect := { s.aspect with signs := signs } }.setQueue q).aspect.signs.get e.1))
      exact ⟨_, q', h'⟩
  exact h s ⟨_, _, rfl⟩

/-- The re-coding of the signs changes them and the change queue (R113). -/
theorem State.recodeSigns_frame (s : State) (m : HallMode) :
    ∃ q, s.recodeSigns m = { s with aspect := { s.aspect with
      signs := Table.ofFn fun i => (s.aspect.signs.get i).recode m } }.setQueue q :=
  State.offers_frame _ _

/-- The egress accounting changes the egress set and the lines (R115). -/
theorem formEgress_frame (p : Published) (s : State) :
    ∃ set l, (formEgress p s).1 = { s with
      aspect := { s.aspect with egressSet := set }
      exits := { s.exits with lines := l } } := by
  unfold formEgress
  dsimp only
  split
  · exact ⟨_, _, rfl⟩
  · unfold State.takeEgress
    split
    · exact ⟨_, _, rfl⟩
    · exact ⟨_, _, rfl⟩

/-- A trunk that starts an exchange changes trunk and head records alone (R120, R127). -/
theorem State.kick_frame (s : State) (t : TrunkIdx) :
    ∃ ts hs, s.kick t = { s with signLine := { s.signLine with trunks := ts, heads := hs } } := by
  unfold State.kick
  dsimp only
  split
  · split
    · exact ⟨_, _, rfl⟩
    · split
      · exact ⟨_, _, rfl⟩
      · split
        · exact ⟨_, _, rfl⟩
        · exact ⟨_, _, rfl⟩
  · exact ⟨_, _, rfl⟩

theorem State.kickAll_frame (s : State) :
    ∃ ts hs, s.kickAll = { s with signLine := { s.signLine with trunks := ts, heads := hs } } := by
  obtain ⟨ts, hs, h⟩ := s.kick_frame 0
  obtain ⟨ts', hs', h'⟩ := (s.kick 0).kick_frame 1
  exact ⟨ts', hs', by rw [State.kickAll, h', h]⟩

/-- The end of an exchange changes trunks, heads and the change queue (R123). -/
theorem endExchange_frame (t : TrunkIdx) (x : Exchange) (o : ReplyOutcome) (s : State) :
    ∃ l, (endExchange t x o s).1 = { s with signLine := l } := by
  unfold endExchange
  dsimp only
  split
  · obtain ⟨ts, hs, h⟩ := State.kick_frame (s.setTrunk t { s.signLine.trunks.get t with exchange := none }) t
    exact ⟨_, h⟩
  · obtain ⟨ts, hs, h⟩ := State.kick_frame
      (applyOutcome x.sign x.frame o (s.setTrunk t { s.signLine.trunks.get t with exchange := none })).1 t
    exact ⟨_, h⟩

/-! ## The boundary link -/

/-- An advert taken changes the controller and, through its passages, the exits (R151 to R154). -/
theorem takeAdvert_frame (a : Advert) (s : State) :
    ∃ b, ExitMove { s with boundary := b } (takeAdvert a s).1 := by
  have record (s : State) (p : PassageIdx) (r : PassageRec) : ∃ b, ExitMove { s with boundary := b } (s.takeRecord p r) := by
    unfold State.takeRecord
    dsimp only
    split
    · exact ⟨_, .refl _⟩
    · exact ⟨_, State.remoteChanged_frame _ p⟩
  have entry (e : AdvertEntry) (s : State) : ∃ b, ExitMove { s with boundary := b } (takeEntry a e s).1 := by
    unfold takeEntry
    split
    · exact ⟨_, .refl _⟩
    · split
      · obtain ⟨b, h⟩ := record s e.passage (s.usedRecord a.generation e)
        refine ⟨b, ?_⟩
        unfold useEntry
        dsimp only
        split
        · exact h
        · exact h.trans (deriveStaleOf_frame e.passage _)
      · exact ⟨_, .refl _⟩
  unfold takeAdvert
  split
  · unfold seeDuplicate
    dsimp only
    split
    · exact ⟨_, .refl _⟩
    · exact ⟨_, .refl _⟩
  · refine Emit.each_keeps (P := fun t => ∃ b, ExitMove { s with boundary := b } t) ?_ ⟨_, .refl _⟩
    rintro e - t ⟨b, _, _, _, rfl⟩
    obtain ⟨b', _, _, _, h⟩ := entry e
      { s with boundary := b, exits := { s.exits with exits := _, lines := _ }, engine := { s.engine with changePending := _ } }
    exact ⟨b', by rw [h]; exact ⟨_, _, _, rfl⟩⟩

/-- A passage that goes STALE changes its entry and the exits that use it (R155). -/
theorem goStale_frame (p : PassageIdx) (s : State) :
    ExitMove (s.setPassage p { s.boundary.passages.get p with state := .stale }) (goStale p s).1 :=
  deriveStaleOf_frame p _

end Machine
end Sys2Proof
end

