-- ==== Sys2Proof/Laws/Exits.lean ====
section
/-!
SUPPORT. What driving the lines and taking one reason set do, said once in the terms of Safety's `LinesFollow` and `ExitsFollow`, and the
Sum Check as a sum.
-/

namespace Sys2Proof
namespace Machine

/-! ## The Sum Check (R201) -/

theorem byteSum_eq_sum (bs : List Byte) : byteSum bs = bs.sum := by
  have h : ∀ (l : List Byte) (a : Byte), l.foldl (· + ·) a = a + l.sum := by
    intro l
    induction l with
    | nil => simp
    | cons b l ih => intro a; rw [List.foldl_cons, ih, List.sum_cons, add_assoc]
  rw [byteSum, h, zero_add]

theorem checkOk_iff (bs : List Byte) : checkOk bs = true ↔ bs.sum = 0 := by
  rw [checkOk, byteSum_eq_sum, decide_eq_true_eq]

/-! ## Lines and exits -/

/-- The source of a line reads no line (R68). -/
theorem State.sourceTrue_lines (s : State) (ls : Table LineRec 32) (src : OutputSource) :
    ({ s with exits := { s.exits with lines := ls } } : State).sourceTrue src = s.sourceTrue src := by
  cases src <;> rfl

/-- Driving the lines of some sources (R68). -/
theorem State.drive_follows (s : State) (p : OutputSource → Bool) : LinesFollow s (s.drive p) (fun src => p src = true) := by
  have line (l : LineIdx) : (s.drive p).exits.lines.get l = s.drivenLine p l := Table.get_ofFn ..
  constructor
  · intro l src d ha hs hp
    rw [line, State.drivenLine, ha, hs]
    simp only [if_pos hp]
    exact congrArg LineRec.output (s.sourceTrue_lines _ src).symm
  · intro l src ha hp
    rw [line, State.drivenLine, ha]
    cases s.exits.lines.get l with
    | input v start => rfl
    | output d => simp only [if_neg hp]
  · intro l v start hs
    rw [line, State.drivenLine, hs]
    cases s.active.lines.get l <;> rfl
  · intro l ha
    rw [line, State.drivenLine]
    cases h : s.active.lines.get l with
    | output src => exact absurd h (ha src)
    | inputPlain => rfl
    | inputDoor => rfl

/-- The reason sets with one exit's replaced. -/
def State.withReasons (s : State) (e : ExitIdx) (r : ReasonSet) (f : ExitIdx) : ReasonSet :=
  if f = e then r else (s.exits.exits.get f).reasons

/-- Only the exit whose set is replaced can move. -/
theorem State.moves_withReasons (s : State) (e f : ExitIdx) (r : ReasonSet) :
    s.moves (s.withReasons e r) f = (decide (f = e) && (s.active.exits.has e && decide (r ≠ (s.exits.exits.get e).reasons))) := by
  by_cases h : f = e
  · subst h
    simp [State.moves, State.withReasons]
  · simp [State.moves, State.withReasons, h]

/-- A reason set taken (R57): its exit, the lines that name it and change pending follow. -/
theorem setReasons_follows (e : ExitIdx) (r : ReasonSet) (s : State) :
    ExitsFollow s (setReasons e r s).1 (s.withReasons e r) (fun _ => False) := by
  unfold setReasons
  by_cases h : (s.active.exits.has e && r ≠ (s.exits.exits.get e).reasons) = true
  · have moved (f : ExitIdx) : s.moves (s.withReasons e r) f = true ↔ f = e := by
      rw [State.moves_withReasons, h]
      simp
    rw [if_pos h]
    constructor
    · intro f
      show (s.exits.exits.set e (s.exitRecord e r)).get f = _
      rw [Table.get_set]
      by_cases hf : f = e
      · subst hf
        rw [if_pos rfl, if_pos ((moved f).2 rfl)]
        simp only [State.withReasons, if_true]
        rfl
      · rw [if_neg hf, if_neg (fun k => hf ((moved f).1 k))]
    · have k := State.drive_follows
        ({ s with exits := { s.exits with exits := s.exits.exits.set e (s.exitRecord e r) } } : State).setPending
        (OutputSource.names e)
      have names (src : OutputSource) :
          (False ∨ ∃ f, s.moves (s.withReasons e r) f = true ∧ OutputSource.names f src = true)
            ↔ OutputSource.names e src = true := by
        simp [moved]
      exact ⟨fun l src d ha hs hp => k.shown l src d ha hs ((names src).1 hp),
        fun l src ha hp => k.held l src ha fun hn => hp ((names src).2 hn), k.inputs, k.unnamed⟩
    · exact ⟨fun _ => .inr ⟨e, (moved e).2 rfl⟩, fun _ => rfl⟩
  · have still (f : ExitIdx) : ¬ s.moves (s.withReasons e r) f = true := by
      rw [State.moves_withReasons]
      simp only [Bool.and_eq_true]
      exact fun k => h (by simpa using k.2)
    rw [if_neg h]
    constructor
    · intro f
      rw [if_neg (still f)]
    · refine ⟨fun l src d ha hs hp => ?_, fun _ _ _ _ => rfl, fun _ _ _ hs => hs, fun _ _ => rfl⟩
      rcases hp with hp | ⟨f, hf, -⟩
      · exact hp.elim
      · exact absurd hf (still f)
    · exact ⟨.inl, fun k => k.elim id fun ⟨f, hf⟩ => absurd hf (still f)⟩

end Machine
end Sys2Proof
end

