-- ==== Sys2Proof/Laws/Requests.lean ====
section
/-!
SUPPORT. What a request's completion can do (`State.serve`): leave the state, answer a refusal, or act on the body.
-/

namespace Sys2Proof
namespace Machine

/-- Everything a completion can do: nothing, when no request of this code waits; UNKNOWN for a code outside the catalogue; RANGE for
a body of the wrong length; or the request's own act on its body. -/
theorem State.serve_cases (s : State) (code : Byte) (ok : List Byte → Bool) (bad : List Byte)
    (act : List Byte → State) :
    s.serve code ok bad act = s
      ∨ (s.port.state = .taking ∧ s.serve code ok bad act = s.respond .unknown [])
      ∨ (s.port.state = .taking ∧ s.serve code ok bad act = s.respond .range bad)
      ∨ ∃ body, s.port.state = .taking ∧ ok body = true ∧ s.serve code ok bad act = act body := by
  unfold State.serve
  split
  · rename_i ht
    split
    · split
      · exact .inr (.inl ⟨ht, rfl⟩)
      · split
        · split
          · rename_i h
            exact .inr (.inr (.inr ⟨_, ht, h, rfl⟩))
          · exact .inr (.inr (.inl ⟨ht, rfl⟩))
        · exact .inl rfl
    · exact .inl rfl
  · exact .inl rfl

/-- What the answers and the act keep, the completion keeps. -/
theorem State.serve_keeps {P : State → Prop} {s : State} {code : Byte} {ok : List Byte → Bool} {bad : List Byte}
    {act : List Byte → State} (hs : P s) (answer : s.port.state = .taking → ∀ st b, P (s.respond st b))
    (acted : ∀ body, s.port.state = .taking → ok body = true → P (act body)) :
    P (s.serve code ok bad act) := by
  rcases s.serve_cases code ok bad act with h | ⟨ht, h⟩ | ⟨ht, h⟩ | ⟨body, ht, hok, h⟩ <;> rw [h]
  · exact hs
  · exact answer ht _ _
  · exact answer ht _ _
  · exact acted body ht hok

/-- A request of a catalogue code with a body of the right length acts on that body. -/
theorem State.serve_asks {s : State} {code : Byte} {body : List Byte} (h : s.asks code body)
    (hc : inCatalogue code = true) {ok : List Byte → Bool} (hok : ok body = true) (bad : List Byte)
    (act : List Byte → State) : s.serve code ok bad act = act body := by
  obtain ⟨ht, length, check, hb⟩ := h
  unfold State.serve
  rw [if_pos ht, hb]
  simp [hc, hok]

/-- A request of a catalogue code with a body of the wrong length is refused with RANGE. -/
theorem State.serve_badLength {s : State} {code : Byte} {body : List Byte} (h : s.asks code body)
    (hc : inCatalogue code = true) {ok : List Byte → Bool} (hok : ok body = false) (bad : List Byte)
    (act : List Byte → State) : s.serve code ok bad act = s.respond .range bad := by
  obtain ⟨ht, length, check, hb⟩ := h
  unfold State.serve
  rw [if_pos ht, hb]
  simp [hc, hok]

/-- A request whose code is outside the catalogue is answered UNKNOWN by the completion of any row. -/
theorem State.serve_unknown {s : State} {code c : Byte} {body : List Byte} (h : s.asks c body)
    (hc : inCatalogue c = false) (ok : List Byte → Bool) (bad : List Byte)
    (act : List Byte → State) : s.serve code ok bad act = s.respond .unknown [] := by
  obtain ⟨ht, length, check, hb⟩ := h
  unfold State.serve
  rw [if_pos ht, hb]
  simp [hc]

/-- The answer of `respond` is the answered port. -/
theorem State.respond_eq_answered (s : State) (st : Status) (b : List Byte) : s.respond st b = s.answered st b := rfl

end Machine
end Sys2Proof
end

