-- ==== Sys2Proof/Laws/Trunks.lean ====
section
/-!
SUPPORT. What the three steps of R127 find: the searches of SignOps, said once in the terms of Safety's `TrunkStarts`.
-/

namespace Sys2Proof
namespace Machine

/-- The sign whose address stands below every other of a list is the one found. -/
theorem lowestAddress_of_least (l : List (SignIdx × SignCfg)) (e) (he : e ∈ l) (h : ∀ f ∈ l, f ≠ e → e.2.address < f.2.address) :
    lowestAddress l = some e := by
  induction l with
  | nil => cases he
  | cons a l ih =>
    unfold lowestAddress
    by_cases hel : e ∈ l
    · rw [ih hel fun f hf => h f (List.mem_cons_of_mem _ hf)]
      simp only
      by_cases hae : a = e
      · subst hae; simp
      · rw [if_pos (h a List.mem_cons_self hae)]
    · have hae : a = e := by rcases List.mem_cons.1 he with h | h; exact h.symm; exact absurd h hel
      subst hae
      cases hl : lowestAddress l with
      | none => rfl
      | some f =>
        have hf : f ∈ l := by
          clear ih he h hel
          induction l generalizing f with
          | nil => cases hl
          | cons b l ih =>
            unfold lowestAddress at hl
            cases hb : lowestAddress l with
            | none => rw [hb] at hl; simp at hl; subst hl; exact List.mem_cons_self
            | some g =>
              rw [hb] at hl; simp only at hl; split at hl
              · simp at hl; subst hl; exact List.mem_cons_of_mem _ (ih _ hb)
              · simp at hl; subst hl; exact List.mem_cons_self
        have := h f (List.mem_cons_of_mem _ hf) (by rintro rfl; exact hel hf)
        simp; omega

/-- The signs of a trunk are those defined on it. -/
theorem Layout.mem_onTrunk (s : State) (t i c) : (i, c) ∈ s.active.onTrunk t ↔ s.signOn t i c := by
  unfold Layout.onTrunk State.signOn
  rw [List.mem_filter, Table.mem_defined]
  simp

/-- A queue with no sign of the trunk gives step 1 of R127 nothing to send. -/
theorem State.queuedOn_eq_none (s : State) (t) (h : ∀ j ∈ s.signLine.queue, ∀ d, ¬ s.signOn t j d) : s.queuedOn t = none := by
  unfold State.queuedOn
  rw [List.findSome?_eq_none_iff]
  intro j hj
  have := h j hj
  unfold State.signOn at this
  cases hs : s.active.signs.get j with
  | none => rfl
  | some c => simp only; rw [if_neg]; exact fun e => this c ⟨hs, e⟩

/-- Step 1 of R127 finds the oldest entry of the trunk. -/
theorem State.queuedOn_eq_some (s : State) (t i c) (h : s.oldestOn t i c) : s.queuedOn t = some (i, c) := by
  obtain ⟨⟨h1, h2⟩, o, n, h3, h4⟩ := h
  have ho : ∀ j ∈ o, ∀ d, ¬ s.signOn t j d := h4
  unfold State.queuedOn
  rw [h3]
  clear h3
  induction o with
  | nil => simp [h1, h2]
  | cons a o ih =>
    rw [List.cons_append, List.findSome?_cons]
    have := ho a List.mem_cons_self
    unfold State.signOn at this
    cases hs : s.active.signs.get a with
    | none => simp only; exact ih (fun j hj => h4 j (List.mem_cons_of_mem _ hj)) (fun j hj => ho j (List.mem_cons_of_mem _ hj))
    | some d =>
      simp only; rw [if_neg (fun e => this d ⟨hs, e⟩)]
      exact ih (fun j hj => h4 j (List.mem_cons_of_mem _ hj)) (fun j hj => ho j (List.mem_cons_of_mem _ hj))

/-- Step 2 of R127 finds the lowest address that owes its default. -/
theorem State.defaultOn_eq_some (s : State) (t i c) (h : hasLowestAddress (s.owesDefault t) i c) : s.defaultOn t = some (i, c) := by
  unfold State.defaultOn
  have hm : ∀ e, e ∈ ((s.active.onTrunk t).filter fun e => (s.signLine.heads.get e.1).defaultPending && (s.signLine.heads.get e.1).state ≠ .lost) ↔ s.owesDefault t e.1 e.2 := by
    intro e; rw [List.mem_filter, Layout.mem_onTrunk]; unfold State.owesDefault; simp
  apply lowestAddress_of_least
  · exact (hm _).2 h.1
  · intro f hf hne
    have := (hm _).1 hf
    refine h.2 _ _ this ?_
    intro e; apply hne
    have h1 := this.1.1; have h2 := h.1.1.1
    rw [e, h2] at h1; cases f; simp at *; exact ⟨e, h1.symm⟩

/-- An empty list has no lowest address. -/
theorem lowestAddress_nil (l : List (SignIdx × SignCfg)) (h : l = []) : lowestAddress l = none := by subst h; rfl

/-- With no default owed on the trunk, step 2 of R127 finds nothing. -/
theorem State.defaultOn_eq_none (s : State) (t) (h : ∀ j d, ¬ s.owesDefault t j d) : s.defaultOn t = none := by
  unfold State.defaultOn
  apply lowestAddress_nil
  rw [List.filter_eq_nil_iff]
  intro e he
  rw [Layout.mem_onTrunk] at he
  have := h e.1 e.2
  unfold State.owesDefault at this
  simp only [he, true_and] at this
  simpa using this

/-- Step 3 of R127 finds the next address of the round robin (R128). -/
theorem State.roundRobinOn_eq_some (s : State) (t i c) (h : s.polledNext t i c) : s.roundRobinOn t = some (i, c) := by
  have inj : ∀ (f : SignIdx × SignCfg), s.signOn t f.1 f.2 → s.signOn t i c → f ≠ (i, c) → f.1 ≠ i := by
    intro f h1 h2 hne e
    apply hne
    have h1 := h1.1; have h2 := h2.1; rw [e, h2] at h1; cases f; simp at *; exact ⟨e, h1.symm⟩
  unfold State.roundRobinOn
  simp only
  rcases h with h | ⟨h1, h⟩
  · rw [lowestAddress_of_least _ (i, c)]
    · rw [List.mem_filter, Layout.mem_onTrunk]; exact ⟨h.1.1, by simpa using h.1.2⟩
    · intro f hf hne
      rw [List.mem_filter, Layout.mem_onTrunk] at hf
      exact h.2 _ _ ⟨hf.1, by simpa using hf.2⟩ (inj f hf.1 h.1.1 hne)
  · have : (s.active.onTrunk t).filter (fun e => decide ((s.signLine.trunks.get t).roundRobin < e.2.address)) = [] := by
      rw [List.filter_eq_nil_iff]; intro e he; rw [Layout.mem_onTrunk] at he; have := h1 _ _ he; simp; omega
    rw [this]; simp only [lowestAddress]
    apply lowestAddress_of_least
    · rw [Layout.mem_onTrunk]; exact h.1
    · intro f hf hne; rw [Layout.mem_onTrunk] at hf; exact h.2 _ _ hf (inj f hf h.1 hne)

/-- The sequence bit of an ASPECT frame, as the machine forms it (R124). -/
theorem HeadRec.seqFor_eq (h : HeadRec) (x : Shown) : (if h.lastSent = some x then h.seq else !h.seq) = h.seqFor x := by
  unfold HeadRec.seqFor
  cases h.lastSent with
  | none => rfl
  | some y => simp only [Option.some.injEq]; by_cases e : y = x <;> simp [e]
              intro e'; exact absurd e'.symm e

end Machine
end Sys2Proof
end

