-- ==== Sys2Proof/WellFormed.lean ====
section
/-!
DEFINITION. Which commands could be spelled by the lines at all: the lengths of the byte and bit runs a
command carries. The ranges of indices and readings are in the types of the operands.
-/

namespace Sys2Proof

/-- A command whose operands the lines could carry. A request counts at most 254 bytes (R204), a REPLY
completes at its fifth byte (R202), a panel frame has at most five bytes after its start byte and at least
one (R201), an advert has at most 500 bits after stuffing (R203). -/
def Instr.wf : Instr → Bool
  | .requestEnd bytes => bytes.length ≤ 254
  | .replyComplete _ bytes => bytes.length = 5
  | .alarmFrameEnd _ bytes => 1 ≤ bytes.length && bytes.length ≤ 5
  | .advertReceived bits => bits.length ≤ 500
  | .coldReset => true
  | .loadEvent => true
  | .hallClockTick => true
  | .clockWrap => true
  | .transferFirstClock => true
  | .lostTransfer => true
  | .firstByte _ => true
  | .consoleGapLimit => true
  | .fetchEnd => true
  | .readStatus => true
  | .fetchNotices => true
  | .readRoute => true
  | .readExits => true
  | .readZones => true
  | .readSigns => true
  | .readLines => true
  | .readLayout => true
  | .writeLayout => true
  | .stageFromActive => true
  | .commitLayout => true
  | .setZoneLevel => true
  | .setExitClosure => true
  | .calibrateBeam => true
  | .storeLayout => true
  | .reinit => true
  | .eraseComplete => true
  | .writeComplete _ => true
  | .verifyComplete => true
  | .runStart => true
  | .refreshIntervalExpiry => true
  | .snapshotComplete => true
  | .pass1Complete => true
  | .loadComplete => true
  | .pass2Complete => true
  | .nexthopComplete => true
  | .handover => true
  | .beamSample _ _ => true
  | .discretePinChange _ _ => true
  | .debounceExpiry _ => true
  | .doorGraceExpiry => true
  | .trunkFrameEnd _ => true
  | .replyWindowExpiry _ _ => true
  | .trunkOvercurrent _ => true
  | .holdOffExpiry _ => true
  | .trunkRestored _ => true
  | .trunkRecheckOvercurrent _ => true
  | .busFree _ => true
  | .lostArbitration => true
  | .advertSent => true
  | .advertIntervalExpiry => true
  | .passageAgeExpiry _ => true
  | .duplicateWatchExpiry => true
  | .alarmGapLimit _ => true
  | .supervisionExpiry _ => true
  | .zoneReport => true
  | .hallMode => true
  | .supervise => true
  | .statusRequest => true
  | .egressStatusSent _ => true
  | .alarmStartByte _ => true

end Sys2Proof
end

