-- ==== Sys2Proof/Tests/Slice0.lean ====
section
/-!
SUPPORT. Tests: ill-formed commands that the checks refuse, the manual's worked figures, and for every statement of Certificates/ that
has hypotheses a state and operands that meet them, clause by clause.
-/

namespace Sys2Proof
namespace Tests

open Sys2Proof.Machine

/-! ## Well-formed commands: each check refuses an ill-formed one -/

theorem test_wf_requestEnd_refuses_255_bytes : (Instr.requestEnd (List.replicate 255 0)).wf = false := by decide +kernel
theorem test_wf_requestEnd_takes_254_bytes : (Instr.requestEnd (List.replicate 254 0)).wf = true := by decide +kernel
theorem test_wf_reply_refuses_four_bytes : (Instr.replyComplete 0 (List.replicate 4 ⟨0, false⟩)).wf = false := by decide
theorem test_wf_reply_refuses_six_bytes : (Instr.replyComplete 0 (List.replicate 6 ⟨0, false⟩)).wf = false := by decide
theorem test_wf_alarm_refuses_no_byte : (Instr.alarmFrameEnd .a []).wf = false := by decide
theorem test_wf_alarm_refuses_six_bytes : (Instr.alarmFrameEnd .a (List.replicate 6 ⟨0, false⟩)).wf = false := by decide
theorem test_wf_advert_refuses_501_bits : (Instr.advertReceived (List.replicate 501 false)).wf = false := by decide +kernel

/-! ## The hall of the worked case in chapter 5, with two signs, a beam channel, a passage and lines -/

/-- Five nodes, five segments and the exits E0 and E1 of the worked case, with a passage exit E2 at the third node. -/
def hall : Layout where
  params := { HallParams.default with hallId := 1, gain := 60 }
  nodes := ((((Table.replicate 256 none).set 0 (some ⟨0, 2⟩)).set 1 (some ⟨1, 8⟩)).set 2 (some ⟨1, 6⟩)).set 3 (some ⟨1, 5⟩)
    |>.set 4 (some ⟨2, 3⟩)
  segments := ((((Table.replicate 768 none).set 0 (some ⟨0, 1, 200, 0, .both, 0⟩)).set 1 (some ⟨1, 2, 150, 1, .both, 1⟩)).set 2
    (some ⟨2, 4, 250, 0, .both, 2⟩)).set 3 (some ⟨1, 3, 100, 0, .both, 1⟩) |>.set 4 (some ⟨3, 4, 250, 2, .both, 2⟩)
  exits := ((Table.replicate 24 none).set 0 (some ⟨0, .door, some 4, 20, 0, none⟩)).set 1 (some ⟨4, .door, some 5, 10, 100, none⟩)
    |>.set 2 (some ⟨3, .passage, none, 10, 0, some 0⟩)
  signs := ((Table.replicate 192 none).set 0 (some ⟨0, 12, 2, .wayfinder, true, .cross, [(1, 6), (2, 2)]⟩)).set 1
    (some ⟨0, 13, 4, .door, true, .exitHere, [(2, 6), (4, 0)]⟩)
  passages := (Table.replicate 8 none).set 0 (some ⟨2, 2⟩)
  beams := (Table.replicate 8 BeamCfg.empty).set 3 ⟨true, 2, 200, 2400, 26, 51, 102, 2, 4, 6, 16, 10⟩
  lines := ((Table.replicate 32 .inputPlain).set 4 .inputDoor).set 20 (.output (.exitClosed 1)) |>.set 21 (.output .hallEvacuate)
    |>.set 22 (.output (.exitInUse 0))

theorem test_hall_passes_every_check : hall.firstFailure = none := by decide +kernel

/-- The levels of the worked case: zone 2 at level 1. -/
def levels : Table Level 48 := (Table.replicate 48 0).set 2 1

/-- A run at the worked case's inputs: E0 and E1 usable, E2 closed. -/
def run : Run where
  phase := .pass1
  snapshot := {
    levels := levels
    exits := ((Table.replicate 24 ⟨false, Config.inf⟩).set 0 ⟨true, 0⟩).set 1 ⟨true, 100⟩ }
  frontier := []
  nodes := Table.replicate 256 NodeWork.fresh
  exits := Table.replicate 24 ExitWork.zero

/-- The hall loaded, in service, with the state of its lines and its channel. -/
def ready : State := { State.reset with
  layout := { active := hall, staging := hall }
  loaded := true
  beams := (Table.replicate 8 BeamRec.cold).set 3
    { BeamRec.cold with state := .measuring, history := [2600, 2600, 2600, 1800], working := some 2400, corrected := some 2200 }
  exits := { State.reset.exits with
    exits := ((Table.replicate 24 ExitRec.undefined).set 0 ⟨ReasonSet.none, true, 0⟩).set 1 ⟨ReasonSet.none, true, 100⟩
    lines := ((Table.replicate 32 (.input false none)).set 20 (.output false)).set 21 (.output false) |>.set 22 (.output false) }
  port := { Port.cold with ready := true } }

/-- A request of a code and a body waiting in TAKING. -/
def asking (code : Byte) (body : List Byte) : State := { ready with
  port := { Port.cold with state := .taking, buffer := byte (body.length + 2) :: code :: (body ++ [0]) } }

theorem asking_asks (code : Byte) (body : List Byte) : (asking code body).asks code body := ⟨rfl, _, _, rfl⟩

/-- A request waiting in EVACUATE. -/
def asking_in_evacuate (code : Byte) (body : List Byte) : State := { asking code body with
  alarm := { State.reset.alarm with mode := .evacuate } }

theorem asking_in_evacuate_asks (code : Byte) (body : List Byte) : (asking_in_evacuate code body).asks code body :=
  ⟨rfl, _, _, rfl⟩

/-- A request waiting while a store erases. -/
def asking_in_store (code : Byte) (body : List Byte) : State := { asking code body with
  store := { state := .erasing, copy := some hall, image := .erased } }

theorem asking_in_store_asks (code : Byte) (body : List Byte) : (asking_in_store code body).asks code body :=
  ⟨rfl, _, _, rfl⟩

/-- The hall at a time, with a number of notices waiting. -/
def at_time (clock : Ticks) (queued : Nat) : State := { ready with
  port := { Port.cold with
    clock := clock
    notices := List.replicate queued { kind := .noLayout, time := 0, subject := none, value := [] } } }

/-- The hall with the run of the worked case in a phase. -/
def running (p : Phase) : State := { ready with
  engine := { State.reset.engine with run := some { run with phase := p }, lastStart := some 0 } }

/-- The hall with an exchange in flight on trunk 0, its reply window open. -/
def exchanging (discard : Bool) : State := { ready with
  signLine := { ready.signLine with
    trunks := ready.signLine.trunks.set 0 { TrunkRec.cold with
      exchange := some
        { sign := 0, address := 12, frame := .aspect ⟨.dark, .steady⟩ true, windowOpen := true, discard := discard } } } }

/-- The hall with a frame taken from line A. -/
def taking (body : FrameBody) (last : Option Byte) : State := { ready with
  alarm := { State.reset.alarm with
    intake := [{ line := .a, seq := 7, body := body }], handler := .taking, lastSeq := last } }

/-- The hall with line A's record replaced. -/
def lineA (r : AlarmLineRec) : State := { ready with alarm := { State.reset.alarm with lineA := r } }

/-- The hall with its first passage heard at time 0. -/
def heard (clock : Ticks) : State := { at_time clock 0 with
  boundary := { State.reset.boundary with
    passages := State.reset.boundary.passages.set 0 ⟨.heard, 700, some [2], some 0, some 9⟩ } }

/-- An advert of hall 2 that offers its passage 0 at cost 700. -/
def advert : Advert where
  sender := 2
  generation := 9
  entries := [{ passage := 0, cost := 700, path := [2] }]

/-- The field the worked case hands over. -/
def published : Published where
  field := run.field 1 0
  basis := run.basis hall

/-! ## The manual's worked figures -/

/-- R193: the CRC-16 of the nine characters 123456789 is 29B1. -/
theorem test_crc16_of_123456789 : crc16 [0x31, 0x32, 0x33, 0x34, 0x35, 0x36, 0x37, 0x38, 0x39] = 0x29B1 := by decide +kernel
/-- R201: covered bytes and check byte sum to 0 modulo 256. -/
theorem test_sumCheck_of_supervise : sumCheck [0xA5, 0x10, 0x03] = 0x48 := by decide
/-- R202: kind, direction, modifier and sequence bit of an aspect byte. -/
theorem test_aspect_byte_of_pulsed_arrow : Shown.code ⟨.arrow 6, .pulse⟩ true = 0x76 := by decide
/-- R202: a SET_DEFAULT frame to address 12 whose default is CROSS, closed by its check. -/
theorem test_setDefault_frame : TrunkFrame.bytes (.setDefault .cross) 12 = [0x02, 0x0C, 0xC0, 0x32] := by decide
/-- Chapter 5, "Segment costs": C = ceil(L × F × H / 64). -/
theorem test_segment_costs :
    (hall.segments.defined.map fun g => hall.segCost levels g.2) = [200, 169, 313, 100, 430] := by decide +kernel
/-- R81: at level 7 a 10 m segment of class 0 costs 3188. -/
theorem test_segment_cost_at_level_7 :
    hall.segCost (Table.replicate 48 7) ⟨0, 1, 100, 0, .both, 0⟩ = 3188 := by decide
/-- R83: 1,000,000 and 50,000 sum to INF. -/
theorem test_sum_above_maxc_is_inf : sumCost 1000000 50000 = Config.inf := by decide
/-- Chapter 5, "Pass 1" and "Final field": the costs of the five nodes after each pass. -/
theorem test_pass_costs :
    ((Run.doPass1 hall run).nodes.toList.take 5).map NodeWork.cost = [0, 200, 369, 300, 100]
    ∧ ((Run.doPass2 hall (Run.doLoad hall (Run.doPass1 hall run))).nodes.toList.take 5).map NodeWork.cost
      = [60, 260, 413, 360, 100] := by decide +kernel
/-- Chapter 5, "Loads and penalties" and "Final field": the loads and penalties of E0 and E1. -/
theorem test_loads_and_penalties :
    ((Run.doNexthop hall (Run.doPass2 hall (Run.doLoad hall (Run.doPass1 hall run)))).exits.toList.take 2)
      = [⟨21, 60, 15⟩, ⟨3, 0, 9⟩] := by decide +kernel
/-- Chapter 5, "Final field": the next segments and route exits. -/
theorem test_next_hops :
    ((Run.doNexthop hall (Run.doPass2 hall (Run.doLoad hall (Run.doPass1 hall run)))).nodes.toList.take 5).map
      (fun w => (w.next, w.route)) = [(none, some 0), (some 0, some 0), (some 2, some 1), (some 3, some 0), (none, some 1)] := by
  decide +kernel
/-- Chapter 3, "Arithmetic": outcomes of a corrected value, with zone and channel at 0. -/
theorem test_beam_outcomes :
    [3100, 2800, 2200, 2100, 1800, 1200, 100].map (fun c => (hall.beams.get 3).evaluate c 0 0)
      = [.overRange, .measuring 0, .measuring 0, .measuring 2, .measuring 4, .measuring 6, .blocked] := by decide
/-- Chapter 3, "Smoke arrives and thins": the hold starts at 8020, steps at 9020 and clears at 10020. -/
theorem test_decay_hold_steps :
    moveLevel 4 2 none 1000 8020 = (4, some ⟨8020, 2⟩)
    ∧ moveLevel 4 2 (some ⟨8020, 2⟩) 1000 9020 = (3, some ⟨9020, 2⟩)
    ∧ moveLevel 3 2 (some ⟨9020, 2⟩) 1000 10020 = (2, none) := by decide
/-- R203: an advert of one entry comes back from its bits on the bus. -/
theorem test_advert_reads_back : readAdvert advert.bits = some advert := by decide +kernel
/-- R201: a ZONE_REPORT of zone 5 in ALARM is good, and one whose check is off by one is void. -/
theorem test_zone_report_frame :
    readAlarm [] ([0x10, 1, 5, 2, 0x43].map fun b => ⟨b, false⟩) = some (.good 0x10 (.zoneReport 5 .alarm))
    ∧ readAlarm [] ([0x10, 1, 5, 2, 0x44].map fun b => ⟨b, false⟩) = some .void := by decide
/-- R202: a REPLY is read with its lamp, supply and tamper; a supply of 3 makes it garbled. -/
theorem test_reply :
    readReply 12 [⟨0x80, false⟩, ⟨12, false⟩, ⟨0xC2, false⟩, ⟨0xA0, false⟩, ⟨0x12, false⟩] = .good 0xC2 true .battery false
    ∧ readReply 12 [⟨0x80, false⟩, ⟨12, false⟩, ⟨0xC2, false⟩, ⟨0x60, false⟩, ⟨0x52, false⟩] = .garbled := by decide
/-- R11: a node's weight of 16 is the third field out of range; with defined at no it is not checked. -/
theorem test_range_check_positions :
    readNode [1, 0, 16] = .error 3 ∧ readNode [0, 0, 16] = .ok none := by decide
/-- R165, R166: under BOTH, one LIVE line is DEGRADED. -/
theorem test_link_states :
    linkOf .both .live .silent = .degraded ∧ linkOf .either .live .silent = .healthy
    ∧ linkOf .either .silent .silent = .lost := by decide

/-- R204: FE is the check of an OK response with no body (length 2, status 0); FF follows it. -/
theorem test_clocks_out :
    ((List.range 5).map ({ Port.cold with state := .fetching, response := some ⟨.ok, []⟩ } : Port).clocksOut)
      = [0x02, 0x00, 0xFE, 0xFF, 0xFF] := by decide
/-- R70: an exit that ACTIVE does not define reads loads of 0, whatever the published field holds. -/
theorem test_undefined_exit_reads_no_load :
    ({ ready with aspect := { ready.aspect with
        published := some { published with field := { published.field with exits := Table.replicate 24 ⟨9, 9, 9⟩ } } } } : State).publishedExit 23
      = ⟨0, 0, 0⟩ := by decide
/-- R145: an advert that ends on the bus while the part sends its own is not taken. -/
theorem test_own_frame_is_not_taken :
    exec (.advertReceived advert.bits) { ready with boundary := { State.reset.boundary with inFlight := some advert } }
      = .next { ready with boundary := { State.reset.boundary with inFlight := some advert } } := rfl

/-! ## Witnesses: for each statement with hypotheses, clause by clause, states and operands that meet them -/

theorem witness_StepTakesFrontCommand : State.reset.pending = [] := rfl

theorem witness_LoadEventTakesUpTheImage : State.reset.loaded = false := rfl

theorem witness_ClockTicks :
    (at_time 0xFFFFFFFE 0).port.clock ≠ 0xFFFFFFFF
    ∧ ((at_time 0xFFFFFFFF 63).port.clock = 0xFFFFFFFF ∧ (at_time 0xFFFFFFFF 63).port.notices.length < 64)
    ∧ ((at_time 0xFFFFFFFF 64).port.clock = 0xFFFFFFFF ∧ 64 ≤ (at_time 0xFFFFFFFF 64).port.notices.length) := by decide

/-- The port waiting for a first byte, perhaps with a response held. -/
def awaitingByte (r : Option Response) : State := { ready with
  port := { Port.cold with state := if r.isSome then .held else .free, awaiting := true, response := r } }

theorem witness_TransfersBegin :
    ready.port.ready = true
    ∧ (State.reset.port.ready = false ∧ State.reset.port.awaiting = false ∧ State.reset.port.state ≠ .receiving
      ∧ State.reset.port.state ≠ .fetching)
    ∧ ((awaitingByte none).port.awaiting = true ∧ (0xFE : Byte) ≠ 0xFF ∧ (awaitingByte none).port.response = none)
    ∧ ((awaitingByte (some ⟨.ok, []⟩)).port.awaiting = true
      ∧ (awaitingByte (some ⟨.ok, []⟩)).port.response.isSome = true) := by decide

/-- The port receiving a request whose length byte is `n`. -/
def receiving (n : Byte) : State := { ready with port := { Port.cold with state := .receiving, buffer := [n] } }

theorem witness_RequestEnds :
    ((receiving 2).port.state = .receiving ∧ (receiving 2).port.buffer = [2] ∧ ([0x01, 0xFD] : List Byte).length = (2 : Byte).toNat
      ∧ 2 ≤ (2 : Byte).toNat ∧ ([2, 0x01, 0xFD] : List Byte).sum = 0)
    ∧ ((receiving 1).port.buffer = [1] ∧ ([0xFF] : List Byte).length = (1 : Byte).toNat ∧ (1 : Byte).toNat < 2)
    ∧ ((receiving 0).port.buffer = [0] ∧ ([] : List Byte).length = (0 : Byte).toNat ∧ (0 : Byte).toNat < 2)
    ∧ (([0x01, 0xFC] : List Byte).length = (2 : Byte).toNat ∧ ([2, 0x01, 0xFC] : List Byte).sum ≠ 0) := by decide

/-- The port in a fetch, perhaps with a response held. -/
def fetching (r : Option Response) : State := { ready with port := { Port.cold with state := .fetching, response := r } }

theorem witness_TransfersEnd :
    ({ ready with port := { Port.cold with lost := true } } : State).port.lost = true
    ∧ ((awaitingByte none).port.lost = false ∧ (awaitingByte none).port.awaiting = true)
    ∧ ((receiving 2).port.lost = false ∧ (receiving 2).port.awaiting = false ∧ (receiving 2).port.state = .receiving)
    ∧ ((fetching (some ⟨.ok, []⟩)).port.state = .fetching ∧ (fetching (some ⟨.ok, []⟩)).port.response = some ⟨.ok, []⟩)
    ∧ ((fetching none).port.state = .fetching ∧ (fetching none).port.response = none ∧ (receiving 2).port.state ≠ .fetching)
    ∧ (⟨.ok, []⟩ : Response).bytes[2]? = some 0xFE ∧ (⟨.ok, []⟩ : Response).bytes.length ≤ 3 := by decide

theorem witness_MalformedRequestsAreRefused :
    ((asking 0 []).asks 0 [] ∧ (asking 0x11 []).asks 0x11 [] ∧ 16 < (0x11 : Byte).toNat)
    ∧ ((asking 0x01 [0]).asks 0x01 [0] ∧ ([0] : List Byte).length ≠ 0)
    ∧ ((asking 0x09 [8, 0, 0]).asks 0x09 [8, 0, 0] ∧ writeRef [8, 0, 0] = none)
    ∧ ((asking 0x09 [1, 0, 0, 1, 0]).asks 0x09 [1, 0, 0, 1, 0] ∧ writeRef [1, 0, 0, 1, 0] = some (.node 0)
      ∧ ([1, 0, 0, 1, 0] : List Byte).length ≠ 3 + (ItemRef.node 0).size [1, 0]) :=
  ⟨⟨asking_asks .., asking_asks .., by decide⟩, ⟨asking_asks .., by decide⟩, ⟨asking_asks .., by decide⟩,
    asking_asks .., by decide, by decide⟩

theorem witness_StatusAndNoticesAreRead :
    (asking 0x01 []).asks 0x01 []
    ∧ ((asking 0x02 [1]).asks 0x02 [1] ∧ 1 ≤ (1 : Byte).toNat ∧ (1 : Byte).toNat ≤ 8)
    ∧ ((asking 0x02 [8]).asks 0x02 [8] ∧ 1 ≤ (8 : Byte).toNat ∧ (8 : Byte).toNat ≤ 8)
    ∧ ((asking 0x02 [0]).asks 0x02 [0] ∧ (asking 0x02 [9]).asks 0x02 [9] ∧ 8 < (9 : Byte).toNat) :=
  ⟨asking_asks .., ⟨asking_asks .., by decide, by decide⟩, ⟨asking_asks .., by decide, by decide⟩, asking_asks ..,
    asking_asks .., by decide⟩

theorem witness_RangesAreRead :
    ((asking 0x03 [224, 32]).asks 0x03 [224, 32] ∧ (asking 0x03 [225, 32]).asks 0x03 [225, 32])
    ∧ ((asking 0x05 [47, 1]).asks 0x05 [47, 1] ∧ (asking 0x05 [47, 2]).asks 0x05 [47, 2])
    ∧ ((asking 0x06 [176, 16]).asks 0x06 [176, 16] ∧ (asking 0x06 [0, 0]).asks 0x06 [0, 0]) :=
  ⟨⟨asking_asks .., asking_asks ..⟩, ⟨asking_asks .., asking_asks ..⟩, asking_asks .., asking_asks ..⟩

theorem witness_ExitsAndLinesAreRead :
    (asking 0x04 []).asks 0x04 [] ∧ (asking 0x07 []).asks 0x07 []
    ∧ (({ ready with aspect := { ready.aspect with published := some published } } : State).aspect.published = some published
      ∧ hall.exits.has 0 = true)
    ∧ ready.aspect.published = none ∧ hall.exits.has 23 = false :=
  ⟨asking_asks .., asking_asks .., ⟨rfl, by decide⟩, rfl, by decide⟩

theorem witness_LayoutIsRead :
    ((asking 0x08 [0, 2, 2, 255]).asks 0x08 [0, 2, 2, 255] ∧ ([0, 2, 2, 255] : List Byte) = 0 :: (ItemRef.segment 767).bytes)
    ∧ ((asking 0x08 [1, 0, 0, 0]).asks 0x08 [1, 0, 0, 0] ∧ ([1, 0, 0, 0] : List Byte) = 1 :: ItemRef.params.bytes)
    ∧ ((asking 0x08 [2, 0, 0, 0]).asks 0x08 [2, 0, 0, 0] ∧ 1 < (2 : Byte).toNat)
    ∧ ((asking 0x08 [0, 2, 3, 0]).asks 0x08 [0, 2, 3, 0] ∧ ItemRef.read 2 (read16 3 0) = none) :=
  ⟨⟨asking_asks .., by decide⟩, ⟨asking_asks .., by decide⟩, ⟨asking_asks .., by decide⟩, asking_asks .., by decide⟩

theorem witness_StagingIsWritten :
    ((asking 0x09 [1, 0, 0, 1, 47, 15]).asks 0x09 [1, 0, 0, 1, 47, 15]
      ∧ writeRef [1, 0, 0, 1, 47, 15] = some (.node 0)
      ∧ ([1, 0, 0, 1, 47, 15] : List Byte).length = 3 + (ItemRef.node 0).size [1, 47, 15]
      ∧ readItem (.node 0) [1, 47, 15] = .ok (.node 0 (some ⟨47, 15⟩)))
    ∧ ((asking 0x09 [1, 0, 0, 1, 48, 15]).asks 0x09 [1, 0, 0, 1, 48, 15]
      ∧ readItem (.node 0) [1, 48, 15] = .error 2)
    ∧ (asking 0x0A []).asks 0x0A [] :=
  ⟨⟨asking_asks .., by decide, by decide, by decide⟩, ⟨asking_asks .., by decide⟩, asking_asks ..⟩

theorem witness_CommitIsRefused :
    ((asking_in_evacuate 0x0B []).asks 0x0B [] ∧ (asking_in_evacuate 0x0B []).alarm.mode = .evacuate)
    ∧ ((asking_in_store 0x0B []).asks 0x0B [] ∧ (asking_in_store 0x0B []).alarm.mode = .standby
      ∧ (asking_in_store 0x0B []).store.state.inProgress = true)
    ∧ (({ asking 0x0B [] with layout := { active := hall, staging := Layout.empty } } : State).asks 0x0B []
      ∧ Layout.empty.firstFailure = some (5, 0))
    ∧ Layout.empty.Fails 5 0 :=
  ⟨⟨asking_in_evacuate_asks .., rfl⟩, ⟨asking_in_store_asks .., rfl, rfl⟩, ⟨⟨rfl, _, _, rfl⟩, by decide +kernel⟩,
    .noExit fun e => by simp [Layout.empty]⟩

theorem witness_CommitTakesEffect :
    (asking 0x0B []).asks 0x0B [] ∧ (asking 0x0B []).alarm.mode = .standby
    ∧ (asking 0x0B []).store.state.inProgress = false ∧ (asking 0x0B []).layout.staging.firstFailure = none :=
  ⟨asking_asks .., rfl, rfl, test_hall_passes_every_check⟩

theorem witness_ZoneLevelIsSet :
    ((asking 0x0C [48, 0]).asks 0x0C [48, 0] ∧ (asking 0x0C [47, 8]).asks 0x0C [47, 8])
    ∧ (({ asking_in_evacuate 0x0C [2, 3] with zones := ready.zones.set 2 { ZoneRec.cold with consoleLevel := 4 } } : State).asks 0x0C
        [byte (2 : ZoneIdx).val, byte (3 : Level).val]
      ∧ (3 : Level) < ((ready.zones.set 2 { ZoneRec.cold with consoleLevel := 4 }).get 2).consoleLevel)
    ∧ ((asking 0x0C [2, 0]).asks 0x0C [byte (2 : ZoneIdx).val, byte (0 : Level).val]
      ∧ (asking 0x0C [2, 0]).alarm.mode ≠ .evacuate ∧ ((asking 0x0C [2, 0]).zones.get 2).effective = 0)
    ∧ (asking 0x0C [2, 6]).asks 0x0C [byte (2 : ZoneIdx).val, byte (6 : Level).val]
    ∧ hall.exits.has 1 = true ∧ hall.exitZone 1 = some 2 :=
  ⟨⟨asking_asks .., asking_asks ..⟩, ⟨⟨rfl, _, _, rfl⟩, by decide⟩, ⟨asking_asks .., by decide, by decide⟩, asking_asks ..,
    by decide, by decide⟩

theorem witness_ExitClosureIsSet :
    ((asking 0x0D [24, 0]).asks 0x0D [24, 0] ∧ (asking 0x0D [0, 2]).asks 0x0D [0, 2] ∧ (asking 0x0D [23, 0]).asks 0x0D [23, 0]
      ∧ hall.exits.has 23 = false)
    ∧ ((asking_in_evacuate 0x0D [1, 1]).asks 0x0D [byte (1 : ExitIdx).val, 1] ∧ hall.exits.has 1 = true)
    ∧ ((asking 0x0D [1, 0]).asks 0x0D [byte (1 : ExitIdx).val, 0]
      ∧ ({ ((asking 0x0D [1, 0]).exits.exits.get 1).reasons with console := false } : ReasonSet)
        = ((asking 0x0D [1, 0]).exits.exits.get 1).reasons)
    ∧ ((asking 0x0D [1, 1]).asks 0x0D [byte (1 : ExitIdx).val, 1] ∧ (asking 0x0D [1, 1]).alarm.mode = .standby
      ∧ ({ ((asking 0x0D [1, 1]).exits.exits.get 1).reasons with console := true } : ReasonSet)
        ≠ ((asking 0x0D [1, 1]).exits.exits.get 1).reasons
      ∧ hall.lines.get 20 = .output (.exitClosed 1) ∧ OutputSource.names 1 (.exitClosed 1) = true) :=
  ⟨⟨asking_asks .., asking_asks .., asking_asks .., by decide⟩, ⟨asking_in_evacuate_asks .., by decide⟩,
    ⟨asking_asks .., by decide⟩, asking_asks .., rfl, by decide, by decide, by decide⟩

theorem witness_BeamIsCalibrated :
    ((asking 0x0E [8]).asks 0x0E [8] ∧ (asking 0x0E [7]).asks 0x0E [7] ∧ (hall.beams.get 7).enabled = false)
    ∧ ((asking_in_evacuate 0x0E [3]).asks 0x0E [byte (3 : BeamIdx).val] ∧ (hall.beams.get 3).enabled = true)
    ∧ (({ asking 0x0E [3] with beams := ready.beams.set 3 { BeamRec.cold with state := .measuring, corrected := some 511 } } : State).asks
        0x0E [byte (3 : BeamIdx).val]
      ∧ ((ready.beams.set 3 { BeamRec.cold with state := .measuring, corrected := some 511 }).get 3).corrected.getD 0 < 512)
    ∧ ((asking 0x0E [3]).asks 0x0E [byte (3 : BeamIdx).val] ∧ (asking 0x0E [3]).alarm.mode = .standby
      ∧ ((asking 0x0E [3]).zones.get 2).effective = 0 ∧ ((asking 0x0E [3]).beams.get 3).corrected = some 2200) :=
  ⟨⟨asking_asks .., asking_asks .., by decide⟩, ⟨asking_in_evacuate_asks .., by decide⟩, ⟨⟨rfl, _, _, rfl⟩, by decide⟩,
    asking_asks .., rfl, by decide, by decide⟩

/-- The hall storing itself, in a phase with an image. -/
def storing (state : StoreState) (image : Image) : State := { ready with
  store := { state := state, copy := some hall, image := image } }

theorem witness_LayoutIsStored :
    ((asking_in_evacuate 0x0F []).asks 0x0F [] ∧ (asking_in_store 0x0F []).asks 0x0F []
      ∧ (asking_in_store 0x0F []).store.state.inProgress = true)
    ∧ (({ asking 0x0F [] with layout := { active := Layout.empty, staging := hall } } : State).asks 0x0F []
      ∧ Layout.empty.isEmpty = true)
    ∧ ((asking 0x0F []).asks 0x0F [] ∧ (asking 0x0F []).store.state.inProgress = false ∧ hall.isEmpty = false)
    ∧ (storing .erasing .erased).store.state = .erasing
    ∧ ((storing .writing .erased).store.state = .writing ∧ (storing .writing .erased).store.copy = some hall)
    ∧ ((storing .verifying (.written hall.imageBytes)).store.state = .verifying
      ∧ (storing .verifying (.written hall.imageBytes)).store.image = .written (hall.bytes ++ word16 (crc16 hall.bytes).toNat))
    ∧ (storing .verifying .erased).store.image ≠ .written (hall.bytes ++ word16 (crc16 hall.bytes).toNat) :=
  ⟨⟨asking_in_evacuate_asks .., asking_in_store_asks .., rfl⟩, ⟨⟨rfl, _, _, rfl⟩, by decide +kernel⟩,
    ⟨asking_asks .., rfl, by decide +kernel⟩, rfl, ⟨rfl, rfl⟩, ⟨rfl, rfl⟩, fun h => by cases h⟩

theorem witness_ReinitTakesEffect :
    ((asking_in_store 0x10 []).asks 0x10 [] ∧ (asking_in_store 0x10 []).store.state.inProgress = true)
    ∧ ((asking 0x10 []).asks 0x10 [] ∧ (asking 0x10 []).store.state.inProgress = false
      ∧ (asking 0x10 []).port.notices.length < 63 ∧ (asking 0x10 []).store.image.load = none) :=
  ⟨⟨asking_in_store_asks .., rfl⟩, asking_asks .., rfl, by decide, by decide⟩

/-- The hall with a run due, its last start at time 0, at a time. -/
def between_runs (pending : Bool) (clock : Ticks) : State := { at_time clock 0 with
  engine := { State.reset.engine with changePending := pending, lastStart := some 0 } }

theorem witness_RunsAdvance :
    ((between_runs true 0).engine.run = none ∧ (between_runs true 0).engine.changePending = true)
    ∧ ((between_runs false 100).engine.run = none ∧ (between_runs false 100).engine.lastStart = some 0
      ∧ 100 ≤ ((between_runs false 100).port.clock - 0).toNat)
    ∧ ({ running .load with port := (at_time 100 0).port } : State).engine.run.isSome = true
    ∧ ∀ p : Phase, (running p).engine.run = some { run with phase := p } :=
  ⟨⟨rfl, rfl⟩, ⟨rfl, rfl, by decide⟩, rfl, fun _ => rfl⟩

theorem witness_FieldIsHandedOver :
    (running .handover).engine.run = some { run with phase := .handover }
    ∧ hall.signs.get 0 = some ⟨0, 12, 2, .wayfinder, true, .cross, [(1, 6), (2, 2)]⟩
    ∧ hall.lines.get 22 = .output (.exitInUse 0) ∧ (running .handover).exits.lines.get 22 = .output false :=
  ⟨rfl, by decide⟩

theorem witness_BeamIsSampled :
    (ready.beams.get 0).state = .disabled
    ∧ ((ready.beams.get 3).state ≠ .disabled ∧ (ready.beams.get 3).history.length ≤ 4
      ∧ ((ready.beams.get 3).history.drop ((ready.beams.get 3).history.length - 3) ++ [(4095 : Fin 4096).val]).length = 4)
    ∧ (({ ready.beams.get 3 with level := 4 } : BeamRec).decay = none ∧ (2 : Level) < 4)
    ∧ ((2 : Level) ≤ (⟨20, 2⟩ : DecayHold).lastTarget ∧ 100 * (hall.beams.get 3).decayHold ≤ ((1020 : Ticks) - 20).toNat)
    ∧ ((1019 : Ticks) - 20).toNat < 100 * (hall.beams.get 3).decayHold := by decide

/-- A channel that measures: a dark sample raises its contribution, a bright one leaves it. -/
theorem witness_BeamIsSampled_contribution :
    (∃ t, exec (.beamSample 3 600) ready = .next t ∧ (t.beams.get 3).contribution ≠ (ready.beams.get 3).contribution)
    ∧ ∃ t, exec (.beamSample 3 2600) ready = .next t ∧ (t.beams.get 3).contribution = (ready.beams.get 3).contribution :=
  ⟨⟨_, rfl, by decide +kernel⟩, _, rfl, by decide +kernel⟩

theorem witness_LinesAndGraceMove :
    ((({ at_time 50 0 with exits := { ready.exits with lines := ready.exits.lines.set 4 (.input false (some 0)) } } : State).exits.lines.get 4
        = .input false (some 0)) ∧ 50 ≤ ((at_time 50 0).port.clock - 0).toNat ∧ hall.doorLineOf 0 4 = true)
    ∧ (({ at_time 300 0 with exits := { ready.exits with grace := .running 0 } } : State).exits.grace = .running 0
      ∧ hall.params.doorGrace * 100 ≤ ((at_time 300 0).port.clock - 0).toNat) := by decide

/-- The hall with trunk 0 shut down at time 0, at a time. -/
def shutDown (driver : Bool) (clock : Ticks) : State := { at_time clock 0 with
  signLine := { ready.signLine with
    trunks := ready.signLine.trunks.set 0 { TrunkRec.cold with state := .shutdown, driverOn := driver, holdOff := some 0 } } }

theorem witness_TrunksShutAndReturn :
    ((exchanging false).signLine.trunks.get 0).exchange.isSome = true
    ∧ (ready.signLine.trunks.get 1).state = .inService
    ∧ (((shutDown false 200).signLine.trunks.get 0).state = .shutdown
      ∧ ((shutDown false 200).signLine.trunks.get 0).driverOn = false
      ∧ ((shutDown false 200).signLine.trunks.get 0).holdOff = some 0 ∧ 200 ≤ ((shutDown false 200).port.clock - 0).toNat)
    ∧ (((shutDown true 200).signLine.trunks.get 0).state = .shutdown
      ∧ ((shutDown true 200).signLine.trunks.get 0).driverOn = true) := by decide

/-- The sign of the hall at address 12. -/
def sign12 : SignCfg := ⟨0, 12, 2, .wayfinder, true, .cross, [(1, 6), (2, 2)]⟩

/-- Each step of R127 finds the sign at address 12: as the oldest entry of the queue, as the lowest address that owes its default, and
as the lowest address above the round robin; trunk 1 has no sign. -/
theorem witness_TrunkStarts :
    ({ ready with signLine := { ready.signLine with queue := [0, 1] } } : State).oldestOn 0 0 sign12
    ∧ hasLowestAddress (({ ready with signLine := { ready.signLine with
        heads := ready.signLine.heads.set 0 { HeadRec.cold with defaultPending := true } } } : State).owesDefault 0) 0 sign12
    ∧ ready.polledNext 0 0 sign12 ∧ ∀ j d, ¬ ready.signOn 1 j d := by
  have only : ∀ (j : SignIdx) (d : SignCfg), hall.signs.get j = some d →
      j = 0 ∧ d = sign12 ∨ j = 1 ∧ d.trunk = 0 ∧ d.address = 13 := by
    have h : (hall.signs.defined.map fun e => (e.1, e.2)) = [(0, sign12), (1, ⟨0, 13, 4, .door, true, .exitHere, [(2, 6), (4, 0)]⟩)] := by
      decide +kernel
    intro j d hj
    have hm : (j, d) ∈ hall.signs.defined.map fun e => (e.1, e.2) := by
      simpa using Table.mem_defined.2 hj
    rw [h] at hm
    simp only [List.mem_cons, Prod.mk.injEq, List.not_mem_nil, or_false] at hm
    rcases hm with hm | ⟨rfl, rfl⟩
    · exact .inl hm
    · exact .inr ⟨rfl, rfl, rfl⟩
  have zero : hall.signs.get 0 = some sign12 := by decide
  refine ⟨⟨⟨zero, rfl⟩, [], [1], rfl, by simp⟩, ⟨⟨⟨zero, rfl⟩, rfl, by decide +kernel⟩, ?_⟩, .inl ⟨⟨⟨zero, rfl⟩, by decide⟩, ?_⟩, ?_⟩
  · rintro j d ⟨⟨hj, -⟩, -⟩ hne
    rcases only j d hj with ⟨rfl, -⟩ | ⟨-, -, ha⟩
    · exact absurd rfl hne
    · rw [ha]; decide
  · rintro j d ⟨⟨hj, -⟩, -⟩ hne
    rcases only j d hj with ⟨rfl, -⟩ | ⟨-, -, ha⟩
    · exact absurd rfl hne
    · rw [ha]; decide
  · rintro j d ⟨hj, ht⟩
    rcases only j d hj with ⟨-, rfl⟩ | ⟨-, h0, -⟩
    · exact absurd ht (by decide)
    · rw [h0] at ht; exact absurd ht (by decide)

theorem witness_ExchangesEnd :
    ((exchanging false).signLine.trunks.get 0).exchange = some
      { sign := 0, address := 12, frame := .aspect ⟨.dark, .steady⟩ true, windowOpen := true, discard := false }
    ∧ ((exchanging true).signLine.trunks.get 0).exchange = some
      { sign := 0, address := 12, frame := .aspect ⟨.dark, .steady⟩ true, windowOpen := true, discard := true }
    ∧ readReply 12 [⟨0x80, false⟩, ⟨12, false⟩, ⟨0x00, false⟩, ⟨0x00, false⟩, ⟨0x74, false⟩] = .good 0x00 false .mains false
    ∧ (0x00 : Byte).toNat / 2 = (((exchanging false).aspect.signs.get 0).shown.code false).toNat / 2 := by decide

/-- A REPLY from address 12 that is good, and one from another address that is not. -/
theorem witness_GoodReply :
    GoodReply 12 ([0x80, 12, 0xC2, 0xA0, 0x12].map fun b => ⟨b, false⟩) 0xC2 true .battery false
    ∧ readReply 13 ([0x80, 12, 0xC2, 0xA0, 0x12].map fun b => ⟨b, false⟩) = .garbled :=
  ⟨⟨12, 0xA0, 0x12, rfl, rfl, by decide, by decide, rfl, by decide⟩, by decide⟩

theorem witness_BusTurnsAndIntervals :
    (({ ready with boundary := { State.reset.boundary with waiting := some advert } } : State).boundary.waiting = some advert
      ∧ ({ ready with boundary := { State.reset.boundary with waiting := some advert } } : State).boundary.inFlight = none)
    ∧ ready.aspect.published = none ∧ hall.exits.get 2 = some ⟨3, .passage, none, 10, 0, some 0⟩
    ∧ ({ ready with aspect := { ready.aspect with published := some published } } : State).aspect.published = some published
    ∧ (({ ready with boundary := { State.reset.boundary with inFlight := some advert } } : State).boundary.inFlight = some advert
      ∧ ready.active.params.hallId ≠ 0)
    ∧ (({ State.reset with boundary := { State.reset.boundary with inFlight := some advert } } : State).active.params.hallId = 0)
    ∧ (({ at_time 100 0 with
        boundary := { State.reset.boundary with lastBuild := some 0, owed := true } } : State).boundary.lastBuild = some 0
      ∧ 100 ≤ ((at_time 100 0).port.clock - 0).toNat)
    ∧ (({ at_time 300 0 with boundary := { State.reset.boundary with watch := .seen 0 } } : State).boundary.watch = .seen 0
      ∧ 300 ≤ ((at_time 300 0).port.clock - 0).toNat) :=
  ⟨⟨rfl, rfl⟩, rfl, rfl, rfl, by decide⟩

theorem witness_AdvertsAreTaken :
    ready.boundary.inFlight = none
    ∧ ({ ready with boundary := { State.reset.boundary with inFlight := some advert } } : State).boundary.inFlight.isSome = true
    ∧ (ready.boundary.passages.get 0).state = .stale
    ∧ readAdvert [] = none
    ∧ (readAdvert { advert with sender := 1, entries := [] }.bits = some { advert with sender := 1, entries := [] }
      ∧ (1 : HallId) = ready.active.params.hallId)
    ∧ (readAdvert advert.bits = some advert ∧ advert.sender ≠ ready.active.params.hallId
      ∧ ready.active.passages.get 0 = some ⟨2, 2⟩) := by decide +kernel

/-- The worked advert with its padding half byte and bits 23 to 20 of its cost set is good; with its first path id not its sender it is
bad. -/
theorem witness_GoodAdvert :
    GoodAdvert (stuff 0 (([0x21, 0, 9, 0x01, 0xF0, 0x02, 0xBC, 0x27, 0x00] : List Byte).flatMap byteBits)) advert
    ∧ readAdvert (stuff 0 (([0x21, 0, 9, 0x01, 0xF0, 0x02, 0xBC, 0x37, 0xF0] : List Byte).flatMap byteBits)) = none := by
  refine ⟨⟨⟨[0x21, 0, 9, 0x01, 0xF0, 0x02, 0xBC, 0x27, 0x00], [], by simp, [[0x01, 0xF0, 0x02, 0xBC, 0x27]], 0x00, ?_, by decide, by decide⟩,
    by decide, by decide, by decide, by decide, by decide, by decide, by decide⟩, by decide +kernel⟩
  exact .cons ⟨15, 7, by decide, by decide⟩ .nil

theorem witness_PassageGoesStale :
    ((heard 299).boundary.passages.get 0).state = .heard ∧ ((heard 299).boundary.passages.get 0).lastHeard = some 0
    ∧ ((heard 299).port.clock - 0).toNat < 300 ∧ 300 ≤ ((heard 300).port.clock - 0).toNat
    ∧ hall.exits.get 2 = some ⟨3, .passage, none, 10, 0, some 0⟩ := by decide

theorem witness_AlarmFramesBeginAndFail :
    (ready.loaded = true ∧ (ready.alarm.line .b).receiver = .hunt)
    ∧ ((lineA { AlarmLineRec.cold with receiver := .frame }).alarm.line .a).receiver = .frame
    ∧ readAlarm [] [⟨0x10, false⟩, ⟨0x81, false⟩] = some .void := by decide

/-- A byte with an error, an EGRESS_STATUS received, a wrong check, a zone of 48; a good frame, with a byte behind it; a frame going on. -/
theorem witness_VoidFrame :
    VoidFrame [⟨0x10, false⟩, ⟨3, true⟩] ∧ VoidFrame (cleanBytes [0x10, 0x81]) ∧ VoidFrame (cleanBytes [0x10, 3, 0x49])
    ∧ VoidFrame (cleanBytes [0x10, 1, 48, 2, 0x18])
    ∧ GoodFrame (cleanBytes [0x10, 1, 5, 2, 0x43, 0xA5]) 0x10 (.zoneReport 5 .alarm)
    ∧ FrameGoesOn [0x10, 1, 5, 2] ∧ readAlarm [] (cleanBytes [0x10, 1, 5, 2]) = none := by
  refine ⟨.error [0x10] ⟨3, true⟩ [] rfl rfl (.inl (by decide)), .type 0x10 0x81 [] rfl ?_, .check 0x10 3 0x49 [] [] .supervise rfl (by decide),
    .range 0x10 1 0x18 [48, 2] [] .zoneReport rfl ?_, ⟨0x43, cleanBytes [0xA5], rfl, by decide⟩,
    .inr ⟨0x10, 1, [5, 2], 2, rfl, .zoneReport, by decide⟩, by decide⟩
  · rintro n ⟨⟩
  · rintro (⟨z, st⟩ | m | _ | _) h
    · have ne : ∀ z : ZoneIdx, byte z.val ≠ 48 := by decide
      have hz : byte z.val = 48 := by
        simp only [FrameBody.wire, List.cons.injEq] at h
        exact h.2.1
      exact ne z hz
    · simp [FrameBody.wire] at h
    · simp [FrameBody.wire] at h
    · simp [FrameBody.wire] at h

theorem witness_AlarmFramesAreTaken :
    ((lineA { AlarmLineRec.cold with receiver := .frame }).alarm.line .a).receiver = .frame
    ∧ (lineA { AlarmLineRec.cold with receiver := .frame }).alarm.intake.length < 8
    ∧ readAlarm [] ([0x10, 3, 0x48].map fun b => ⟨b, false⟩) = some (.good 0x10 .supervise)
    ∧ 8 ≤ ({ ready with alarm := { State.reset.alarm with
        intake := List.replicate 8 ⟨.a, 0, .supervise⟩ } } : State).alarm.intake.length := by decide

theorem witness_LineFallsSilent :
    (ready.alarm.line .a).expiry = none
    ∧ ((lineA { AlarmLineRec.cold with state := .live, expiry := some 0 }).alarm.line .a).expiry = some 0
    ∧ ((lineA { AlarmLineRec.cold with state := .live, expiry := some 0 }).port.clock - 0).toNat < 2147483648 := by decide

theorem witness_ZoneReportIsTaken :
    (taking (.zoneReport 2 .alarm) (some 7)).alarm.handler = .taking
    ∧ (taking (.zoneReport 2 .alarm) (some 7)).alarm.intake = [{ line := .a, seq := 7, body := .zoneReport 2 .alarm }]
    ∧ (taking (.zoneReport 2 .alarm) (some 7)).alarm.lastSeq = some 7
    ∧ (taking (.zoneReport 2 .alarm) none).alarm.lastSeq ≠ some 7
    ∧ ((taking (.zoneReport 2 .alarm) none).zones.get 2).effective ≠ hall.params.alarmLevel
    ∧ ((taking (.zoneReport 2 .normal) none).zones.get 2).effective = 0 := by decide

theorem witness_HallModeIsTaken :
    (taking (.hallMode .evacuate) none).alarm.handler = .taking
    ∧ (taking (.hallMode .evacuate) none).alarm.intake = [{ line := .a, seq := 7, body := .hallMode .evacuate }]
    ∧ (taking (.hallMode .evacuate) (some 7)).alarm.lastSeq = some 7
    ∧ (taking (.hallMode .standby) none).alarm.mode = .standby
    ∧ (taking (.hallMode .evacuate) none).alarm.mode ≠ .evacuate
    ∧ hall.lines.get 21 = .output .hallEvacuate
    ∧ (∃ t, exec .hallMode (taking (.hallMode .evacuate) none) = .next t ∧ t.alarm.mode = .evacuate)
    ∧ ∃ t, exec .coldReset (asking_in_evacuate 0x01 []) = .next t ∧ t.alarm.mode = .standby :=
  ⟨by decide, by decide, by decide, by decide, by decide, by decide, ⟨_, rfl, by decide +kernel⟩, _, rfl, by decide⟩

/-- The hall with plain input lines only, its exits as their conditions have them, a mode change in the intake. -/
def lawful : State := { taking (.hallMode .evacuate) none with
  layout := { active := { hall with lines := Table.replicate 32 .inputPlain }, staging := hall }
  exits := { State.reset.exits with
    lines := Table.replicate 32 (.input false none)
    exits := (((Table.replicate 24 ExitRec.undefined).set 0 ⟨ReasonSet.none, true, 0⟩).set 1 ⟨ReasonSet.none, true, 100⟩).set 2
      ⟨{ ReasonSet.none with stale := true }, false, Config.inf⟩ } }

theorem witness_HallModeIsTaken_lawful : ExitLaw lawful ∧ LineLaw lawful ∧ lawful.active.exits.has 0 = true := by
  refine ⟨?_, ?_, by decide⟩
  · constructor <;> decide +kernel
  · constructor <;> simp [lawful, State.active, State.reset, State.cold, taking]

theorem witness_EgressStatusIsSent :
    (taking .supervise none).alarm.intake = [{ line := .a, seq := 7, body := .supervise }]
    ∧ (taking .statusRequest none).alarm.intake = [{ line := .a, seq := 7, body := .statusRequest }]
    ∧ ((taking .statusRequest none).alarm.line .a).transmitter = none
    ∧ ((lineA { AlarmLineRec.cold with transmitter := some (ready.egressStatus 7) }).alarm.line .a).transmitter.isSome = true
    ∧ ((lineA { AlarmLineRec.cold with transmitter := some (ready.egressStatus 7), request := some 8 }).alarm.line .a).request = some 8 :=
  ⟨rfl, rfl, rfl, rfl, rfl⟩

theorem witness_PassCostsAreCheapest :
    hall.exits.get 1 = some ⟨4, .door, some 5, 10, 100, none⟩ ∧ hall.segments.get 0 = some ⟨0, 1, 200, 0, .both, 0⟩
    ∧ hall.wayCost levels (Run.doPass1 hall run).nodes 1 ⟨0, 1, 200, 0, .both, 0⟩ = some 200 := by decide +kernel

theorem witness_NextHopsDescend :
    (hall.segments.defined.all fun g => decide (0 < hall.segCost levels g.2)) = true := by decide +kernel

theorem witness_LoadsSumToWeights :
    (hall.segments.defined.all fun g => decide (0 < hall.segCost run.snapshot.levels g.2)) = true
    ∧ hall.params.gain ≠ 0 ∧ Layout.empty.params.gain = 0 := by decide +kernel

theorem witness_AdvertsReadBack :
    advert.sender ≠ 0 ∧ advert.entries.length ≤ 8 ∧ (advert.entries.map AdvertEntry.passage).Pairwise (· < ·)
    ∧ ∀ e ∈ advert.entries, e.cost ≤ Config.inf ∧ 1 ≤ e.path.length ∧ e.path.length ≤ 4 ∧ e.path.head? = some advert.sender
      ∧ 0 ∉ e.path ∧ e.path.Nodup := by decide

theorem witness_ItemsReadBack :
    readItem (.line 31) [3, 23] = .ok (.line 31 (.output (.exitClosed 23))) ∧ ([3, 23] : List Byte).length = (ItemRef.line 31).size [3, 23]
    ∧ (ItemRef.line 30) ≠ .line 31 := by decide

theorem witness_ImagesReadBack : Layout.empty.InRange := by
  intro ref
  cases ref <;> simp only [Layout.fields, Layout.item, Layout.empty, Table.get_replicate] <;> exact ⟨rfl, rfl⟩

/-- The part right after a cold reset, its clock about to tick. -/
def ticking : State := { State.reset with pending := [.hallClockTick] }

theorem ticking_steps : ∃ t, step ticking = .next t := ⟨_, rfl⟩

theorem witness_BlocksAwaitTheLoad : AwaitingLoad ticking := by
  constructor <;> simp [ticking, State.reset, State.cold, Port.cold, TrunkRec.cold]

theorem witness_PortLawIsKept : PortLaw ticking := by
  constructor <;> simp [ticking, State.reset, State.cold, Port.cold]

theorem witness_ZoneLawIsKept : ZoneLaw ticking := by
  intro z
  simp [ticking, State.reset, State.cold, ZoneRec.cold]

theorem witness_BeamLevelLawIsKept : AwaitingLoad ticking ∧ BeamLevelLaw ticking := by
  refine ⟨witness_BlocksAwaitTheLoad, fun z => ?_⟩
  have h : ∀ c, (ticking.active.beams.get c).enabled = false := by
    intro c
    simp [ticking, State.active, State.reset, State.cold, Layout.empty, BeamCfg.empty]
  have : ticking.beamLevel z = 0 := by
    unfold State.beamLevel
    simp [h]
  rw [this]
  simp [ticking, State.reset, State.cold, ZoneRec.cold]

theorem witness_BeamLawIsKept : AwaitingLoad ticking ∧ BeamLaw ticking := by
  refine ⟨witness_BlocksAwaitTheLoad, ?_⟩
  constructor <;> simp [ticking, State.active, State.reset, State.cold, Layout.empty, BeamCfg.empty, BeamRec.cold]

theorem witness_LineLawIsKept : AwaitingLoad ticking ∧ LineLaw ticking := by
  refine ⟨witness_BlocksAwaitTheLoad, ?_⟩
  constructor <;> simp [ticking, State.active, State.reset, State.cold, Layout.empty]

theorem witness_ExitLawIsKept : AwaitingLoad ticking ∧ LineLaw ticking ∧ ExitLaw ticking := by
  refine ⟨witness_BlocksAwaitTheLoad, witness_LineLawIsKept.2, ?_⟩
  constructor <;> simp [ticking, State.active, State.reset, State.cold, Layout.empty, Table.has]

theorem witness_OutputLawIsKept : OutputLaw ticking := by
  intro l src d h
  simp [ticking, State.active, State.reset, State.cold, Layout.empty] at h

theorem witness_SignLawIsKept : SignLaw ticking := by
  constructor <;> simp [ticking, State.reset, State.cold, SignRec.dark]

theorem witness_HeadLawIsKept : HeadLaw ticking := by
  constructor <;> simp [ticking, State.reset, State.cold, HeadRec.cold]

theorem witness_TrunkLawIsKept : TrunkLaw ticking := by
  constructor <;> simp [ticking, State.reset, State.cold, TrunkRec.cold]

theorem witness_PassageLawIsKept : AwaitingLoad ticking ∧ PassageLaw ticking := by
  refine ⟨witness_BlocksAwaitTheLoad, ?_⟩
  constructor <;> simp [ticking, State.active, State.reset, State.cold, PassageRec.cold, Layout.empty, Config.inf]

theorem witness_AlarmLawIsKept : AwaitingLoad ticking ∧ AlarmLaw ticking := by
  have h : ∀ l, ticking.alarm.line l = AlarmLineRec.cold := by
    intro l
    cases l <;> rfl
  refine ⟨witness_BlocksAwaitTheLoad, by decide, by decide, fun l => ?_, by decide, fun l => ?_, fun l => ?_, fun l => ?_⟩ <;>
    rw [h l] <;> decide

theorem witness_FieldLawIsKept : FieldLaw ticking := by
  constructor <;> simp [ticking, State.reset, State.cold]

theorem witness_StoreLawIsKept : AwaitingLoad ticking ∧ StoreLaw ticking := by
  refine ⟨witness_BlocksAwaitTheLoad, ?_⟩
  constructor <;> simp [ticking, State.reset, State.cold, StoreState.inProgress]

theorem witness_LayoutLawIsKept : BeamLaw ticking ∧ LayoutLaw ticking :=
  ⟨witness_BeamLawIsKept.2, witness_ImagesReadBack, witness_ImagesReadBack, fun a h => by cases h⟩

end Tests
end Sys2Proof
end

/-!
The zone and beam level laws (R28, R29), part 1: what every command that is neither a reset, a load, a sample, a report nor a request on
a zone, a reference or a layout leaves of the hazard levels and of what they are formed from.
-/
section
namespace Sys2Proof
namespace Machine

/-! ## What the hazard levels are formed from -/

/-- All that the laws R28 and R29 speak of: the zones, the channels and the layout that assigns the one to the other. -/
structure Hazards where
  zones : Table ZoneRec 48
  beams : Table BeamRec 8
  active : Layout

/-- The hazard levels of a state, with what they are formed from. -/
def State.hazards (s : State) : Hazards where
  zones := s.zones
  beams := s.beams
  active := s.active

/-- The command answers a next state, with the hazard levels and what they are formed from as they stood. -/
def LeavesHazards (s : State) (o : Host.Outcome State Fault Refusal) : Prop :=
  ∃ t, o = .next t ∧ t.hazards = s.hazards

/-! ## Shared operations that leave them -/

@[simp] theorem State.postAll_hazards (s : State) (ns : List Notice) : (s.postAll ns).hazards = s.hazards := rfl
@[simp] theorem State.drive_hazards (s : State) (p : OutputSource → Bool) : (s.drive p).hazards = s.hazards := rfl
@[simp] theorem State.respond_hazards (s : State) (st : Status) (b : List Byte) :
    (s.respond st b).hazards = s.hazards := rfl
@[simp] theorem State.setEngine_hazards (s : State) (g : Engine) : (s.setEngine g).hazards = s.hazards := rfl
@[simp] theorem State.setTrunk_hazards (s : State) (t : TrunkIdx) (r : TrunkRec) :
    (s.setTrunk t r).hazards = s.hazards := rfl
@[simp] theorem State.accept_hazards (s : State) (seq : Byte) : (s.accept seq).hazards = s.hazards := rfl
@[simp] theorem State.dropFrame_hazards (s : State) : s.dropFrame.hazards = s.hazards := rfl
@[simp] theorem Emit.run_hazards (f : Emit) (s : State) : (f.run s).hazards = (f s).1.hazards := rfl

theorem ExitMove.hazards {s t : State} (h : ExitMove s t) : t.hazards = s.hazards := by
  obtain ⟨_, _, _, rfl⟩ := h
  rfl

theorem State.kick_hazards (s : State) (t : TrunkIdx) : (s.kick t).hazards = s.hazards := by
  obtain ⟨_, _, h⟩ := s.kick_frame t
  rw [h]; rfl

theorem State.kickAll_hazards (s : State) : s.kickAll.hazards = s.hazards :=
  ((s.kick 0).kick_hazards 1).trans (s.kick_hazards 0)

theorem State.offers_hazards (l : List SignIdx) (s : State) : (l.foldl State.offer s).hazards = s.hazards := by
  obtain ⟨_, h⟩ := State.offers_frame l s
  rw [h]; rfl

theorem State.evalSigns_hazards (s : State) (p : Published) : (s.evalSigns p).hazards = s.hazards := by
  obtain ⟨_, _, h⟩ := s.evalSigns_frame p
  rw [h]; rfl

theorem formEgress_hazards (p : Published) (s : State) : (formEgress p s).1.hazards = s.hazards := by
  obtain ⟨_, _, h⟩ := formEgress_frame p s
  rw [h]; rfl

theorem deriveLink_hazards (s : State) : (deriveLink s).1.hazards = s.hazards := by
  obtain ⟨_, _, _, _, h⟩ := deriveLink_frame s
  rw [h]; rfl

theorem endExchange_hazards (t : TrunkIdx) (x : Exchange) (o : ReplyOutcome) (s : State) :
    (endExchange t x o s).1.hazards = s.hazards := by
  obtain ⟨_, h⟩ := endExchange_frame t x o s
  rw [h]; rfl

theorem takeAdvert_hazards (a : Advert) (s : State) : (takeAdvert a s).1.hazards = s.hazards := by
  obtain ⟨_, h⟩ := takeAdvert_frame a s
  exact h.hazards

theorem State.takeField_hazards (s : State) (p : Published) : (s.takeField p).hazards = s.hazards := by
  unfold State.takeField
  split
  · rfl
  · split <;> rfl

theorem adoptField_hazards (p : Published) (s : State) : (adoptField p s).1.hazards = s.hazards := by
  unfold adoptField
  dsimp only
  rw [State.takeField_hazards, State.drive_hazards, formEgress_hazards, State.evalSigns_hazards]
  rfl

theorem State.nextRun_hazards (s : State) : s.nextRun.hazards = s.hazards := by
  unfold State.nextRun
  split <;> rfl

theorem State.advanceRun_hazards (s : State) (phase : Phase) (work : Layout → Run → Run) :
    (s.advanceRun phase work).hazards = s.hazards := by
  unfold State.advanceRun
  split
  · rfl
  · split <;> rfl

theorem hearLine_hazards (l : AlarmLine) (s : State) : (hearLine l s).1.hazards = s.hazards := by
  unfold hearLine
  dsimp only
  split
  · rfl
  · exact deriveLink_hazards _

theorem loseLine_hazards (l : AlarmLine) (s : State) : (loseLine l s).1.hazards = s.hazards := by
  unfold loseLine
  dsimp only
  split
  · rfl
  · exact deriveLink_hazards _

theorem takeGood_hazards (l : AlarmLine) (seq : Byte) (body : FrameBody) (s : State) :
    (takeGood l seq body s).1.hazards = s.hazards := by
  refine Eq.trans ?_ (hearLine_hazards l s)
  unfold takeGood State.offerFrame
  dsimp only
  split <;> rfl

theorem changeMode_hazards (m : HallMode) (s : State) : (changeMode m s).1.hazards = s.hazards := by
  obtain ⟨_, h⟩ := moveGrace_frame m (s.setMode m)
  exact (State.offers_hazards _ _).trans h.hazards

theorem State.request_hazards (s : State) (l : AlarmLine) (seq : Byte) : (s.request l seq).hazards = s.hazards := by
  unfold State.request
  dsimp only
  split <;> rfl

/-! ## Requests that leave them -/

/-- A completion leaves the hazard levels when its act does: no answer touches them. -/
theorem State.serve_leavesHazards {s : State} {code : Byte} {ok : List Byte → Bool} {bad : List Byte}
    {act : List Byte → State} (h : ∀ body, (act body).hazards = s.hazards) :
    LeavesHazards s (.next (s.serve code ok bad act)) :=
  ⟨_, rfl, State.serve_keeps (P := fun t => t.hazards = s.hazards) rfl (fun _ _ _ => rfl) fun body _ _ => h body⟩

theorem execFetchNotices_leavesHazards (s : State) : LeavesHazards s (execFetchNotices s) :=
  State.serve_leavesHazards fun _ => by dsimp only; split <;> rfl

theorem execReadRoute_leavesHazards (s : State) : LeavesHazards s (execReadRoute s) :=
  State.serve_leavesHazards fun _ => by split <;> rfl

theorem execReadZones_leavesHazards (s : State) : LeavesHazards s (execReadZones s) :=
  State.serve_leavesHazards fun _ => by split <;> rfl

theorem execReadSigns_leavesHazards (s : State) : LeavesHazards s (execReadSigns s) :=
  State.serve_leavesHazards fun _ => by split <;> rfl

theorem execReadLayout_leavesHazards (s : State) : LeavesHazards s (execReadLayout s) :=
  State.serve_leavesHazards fun _ => by split <;> rfl

/-- A write replaces an item of STAGING, which no level is formed from (R10). -/
theorem execWriteLayout_leavesHazards (s : State) : LeavesHazards s (execWriteLayout s) :=
  State.serve_leavesHazards fun _ => by
    split
    · rfl
    · split <;> rfl

theorem State.takeClosure_hazards (s : State) (e : ExitIdx) (closed : Bool) :
    (s.takeClosure e closed).hazards = s.hazards :=
  (setReasons_frame e _ s).hazards

theorem execSetExitClosure_leavesHazards (s : State) : LeavesHazards s (execSetExitClosure s) :=
  State.serve_leavesHazards fun body => by
    split
    · dsimp only
      split
      · split
        · rfl
        · exact s.takeClosure_hazards _ _
      · rfl
    · rfl

theorem execStoreLayout_leavesHazards (s : State) : LeavesHazards s (execStoreLayout s) :=
  State.serve_leavesHazards fun _ => by
    split
    · rfl
    · split
      · rfl
      · split <;> rfl

/-! ## Events that leave them -/

theorem execConsoleGapLimit_leavesHazards (s : State) : LeavesHazards s (execConsoleGapLimit s) := by
  refine ⟨_, rfl, ?_⟩
  split
  · rfl
  · split
    · rfl
    · split <;> rfl

theorem execFirstByte_leavesHazards (b : Byte) (s : State) : LeavesHazards s (execFirstByte b s) := by
  refine ⟨_, rfl, ?_⟩
  split
  · split <;> rfl
  · rfl

theorem execRequestEnd_leavesHazards (bytes : List Byte) (s : State) : LeavesHazards s (execRequestEnd bytes s) := by
  refine ⟨_, rfl, ?_⟩
  split
  · dsimp only
    split <;> rfl
  · rfl

theorem execVerifyComplete_leavesHazards (s : State) : LeavesHazards s (execVerifyComplete s) := by
  refine ⟨_, rfl, ?_⟩
  split
  · split <;> rfl
  · rfl

theorem execRefreshIntervalExpiry_leavesHazards (s : State) : LeavesHazards s (execRefreshIntervalExpiry s) := by
  refine ⟨_, rfl, ?_⟩
  split
  · split <;> rfl
  · rfl

theorem execHandover_leavesHazards (s : State) : LeavesHazards s (execHandover s) := by
  refine ⟨_, rfl, ?_⟩
  split
  · rfl
  · split
    · rw [State.postAll_hazards, State.kickAll_hazards, State.nextRun_hazards, adoptField_hazards,
        State.setEngine_hazards]
    · rfl

theorem execDebounceExpiry_leavesHazards (l : LineIdx) (s : State) : LeavesHazards s (execDebounceExpiry l s) := by
  refine ⟨_, rfl, ?_⟩
  split
  · split
    · exact (deriveDoorsOf_frame l _).hazards
    · rfl
  · rfl
  · rfl

theorem execDoorGraceExpiry_leavesHazards (s : State) : LeavesHazards s (execDoorGraceExpiry s) := by
  refine ⟨_, rfl, ?_⟩
  split
  · split
    · exact (enterElapsed_frame s).hazards
    · rfl
  · rfl
  · rfl

theorem execReplyComplete_leavesHazards (t : TrunkIdx) (bytes : List TrunkByte) (s : State) :
    LeavesHazards s (execReplyComplete t bytes s) := by
  refine ⟨_, rfl, ?_⟩
  split
  · rfl
  · split
    · rw [Emit.run_hazards, endExchange_hazards]
    · rfl

theorem execReplyWindowExpiry_leavesHazards (t : TrunkIdx) (anyByte : Bool) (s : State) :
    LeavesHazards s (execReplyWindowExpiry t anyByte s) := by
  refine ⟨_, rfl, ?_⟩
  split
  · rfl
  · rw [Emit.run_hazards, endExchange_hazards]

theorem execTrunkRestored_leavesHazards (t : TrunkIdx) (s : State) : LeavesHazards s (execTrunkRestored t s) := by
  refine ⟨_, rfl, ?_⟩
  split
  · dsimp only
    rw [State.postAll_hazards, State.kick_hazards, State.setTrunk_hazards]
  · rfl

theorem execBusFree_leavesHazards (cutOff : Bool) (s : State) : LeavesHazards s (execBusFree cutOff s) := by
  refine ⟨_, rfl, ?_⟩
  split
  · rfl
  · split <;> rfl

theorem execAdvertReceived_leavesHazards (bits : List Bool) (s : State) :
    LeavesHazards s (execAdvertReceived bits s) := by
  refine ⟨_, rfl, ?_⟩
  split
  · rfl
  · split
    · rfl
    · exact takeAdvert_hazards _ s

theorem execAdvertIntervalExpiry_leavesHazards (s : State) : LeavesHazards s (execAdvertIntervalExpiry s) := by
  refine ⟨_, rfl, ?_⟩
  split
  · rfl
  · split <;> rfl

theorem execPassageAgeExpiry_leavesHazards (p : PassageIdx) (s : State) :
    LeavesHazards s (execPassageAgeExpiry p s) := by
  refine ⟨_, rfl, ?_⟩
  split
  · exact (goStale_frame p s).hazards
  · rfl

theorem execDuplicateWatchExpiry_leavesHazards (s : State) : LeavesHazards s (execDuplicateWatchExpiry s) := by
  refine ⟨_, rfl, ?_⟩
  split
  · rfl
  · split <;> rfl

theorem execAlarmFrameEnd_leavesHazards (l : AlarmLine) (bytes : List AlarmByte) (s : State) :
    LeavesHazards s (execAlarmFrameEnd l bytes s) := by
  refine ⟨_, rfl, ?_⟩
  dsimp only
  split
  · split
    · rfl
    · rfl
    · rw [Emit.run_hazards, takeGood_hazards]
  · rfl

theorem execSupervisionExpiry_leavesHazards (l : AlarmLine) (s : State) :
    LeavesHazards s (execSupervisionExpiry l s) := by
  refine ⟨_, rfl, ?_⟩
  split
  · exact loseLine_hazards l s
  · rfl

theorem execHallMode_leavesHazards (s : State) : LeavesHazards s (execHallMode s) := by
  refine ⟨_, rfl, ?_⟩
  split
  · split
    · rfl
    · split
      · rfl
      · rw [State.dropFrame_hazards, State.kickAll_hazards, Emit.run_hazards, changeMode_hazards,
          State.accept_hazards]
  · rfl

theorem execStatusRequest_leavesHazards (s : State) : LeavesHazards s (execStatusRequest s) := by
  refine ⟨_, rfl, ?_⟩
  split
  · exact s.request_hazards _ _
  · rfl

/-- The commands that reach the zones, the channels or ACTIVE. -/
def reachesHazards : Instr → Bool
  | .coldReset | .loadEvent | .beamSample _ _ | .zoneReport => true
  | .setZoneLevel | .calibrateBeam | .commitLayout | .reinit => true
  | _ => false

/-- Every other command leaves them as they stood. -/
theorem exec_leavesHazards (c : Instr) (h : reachesHazards c = false) (s : State) :
    LeavesHazards s (exec c s) := by
  cases c with
  | coldReset => cases h
  | loadEvent => cases h
  | beamSample _ _ => cases h
  | zoneReport => cases h
  | setZoneLevel => cases h
  | calibrateBeam => cases h
  | commitLayout => cases h
  | reinit => cases h
  | hallClockTick => exact ⟨_, rfl, rfl⟩
  | clockWrap => exact ⟨_, rfl, by split <;> rfl⟩
  | transferFirstClock => exact ⟨_, rfl, by split <;> rfl⟩
  | lostTransfer => exact ⟨_, rfl, by split <;> rfl⟩
  | firstByte b => exact execFirstByte_leavesHazards b s
  | requestEnd bytes => exact execRequestEnd_leavesHazards bytes s
  | consoleGapLimit => exact execConsoleGapLimit_leavesHazards s
  | fetchEnd => exact ⟨_, rfl, by split <;> rfl⟩
  | readStatus => exact State.serve_leavesHazards fun _ => rfl
  | fetchNotices => exact execFetchNotices_leavesHazards s
  | readRoute => exact execReadRoute_leavesHazards s
  | readExits => exact State.serve_leavesHazards fun _ => rfl
  | readZones => exact execReadZones_leavesHazards s
  | readSigns => exact execReadSigns_leavesHazards s
  | readLines => exact State.serve_leavesHazards fun _ => rfl
  | readLayout => exact execReadLayout_leavesHazards s
  | writeLayout => exact execWriteLayout_leavesHazards s
  | stageFromActive => exact State.serve_leavesHazards fun _ => rfl
  | setExitClosure => exact execSetExitClosure_leavesHazards s
  | storeLayout => exact execStoreLayout_leavesHazards s
  | eraseComplete => exact ⟨_, rfl, by split <;> rfl⟩
  | writeComplete _ => exact ⟨_, rfl, by split <;> rfl⟩
  | verifyComplete => exact execVerifyComplete_leavesHazards s
  | runStart => exact ⟨_, rfl, by split <;> rfl⟩
  | refreshIntervalExpiry => exact execRefreshIntervalExpiry_leavesHazards s
  | snapshotComplete => exact ⟨_, rfl, s.advanceRun_hazards _ _⟩
  | pass1Complete => exact ⟨_, rfl, s.advanceRun_hazards _ _⟩
  | loadComplete => exact ⟨_, rfl, s.advanceRun_hazards _ _⟩
  | pass2Complete => exact ⟨_, rfl, s.advanceRun_hazards _ _⟩
  | nexthopComplete => exact ⟨_, rfl, s.advanceRun_hazards _ _⟩
  | handover => exact execHandover_leavesHazards s
  | discretePinChange _ _ => exact ⟨_, rfl, rfl⟩
  | debounceExpiry l => exact execDebounceExpiry_leavesHazards l s
  | doorGraceExpiry => exact execDoorGraceExpiry_leavesHazards s
  | trunkFrameEnd _ => exact ⟨_, rfl, by split <;> rfl⟩
  | replyComplete t bytes => exact execReplyComplete_leavesHazards t bytes s
  | replyWindowExpiry t anyByte => exact execReplyWindowExpiry_leavesHazards t anyByte s
  | trunkOvercurrent _ => exact ⟨_, rfl, by split <;> rfl⟩
  | holdOffExpiry _ => exact ⟨_, rfl, by split <;> rfl⟩
  | trunkRestored t => exact execTrunkRestored_leavesHazards t s
  | trunkRecheckOvercurrent _ => exact ⟨_, rfl, by split <;> rfl⟩
  | busFree cutOff => exact execBusFree_leavesHazards cutOff s
  | lostArbitration => exact ⟨_, rfl, by split <;> rfl⟩
  | advertSent => exact ⟨_, rfl, rfl⟩
  | advertReceived bits => exact execAdvertReceived_leavesHazards bits s
  | advertIntervalExpiry => exact execAdvertIntervalExpiry_leavesHazards s
  | passageAgeExpiry p => exact execPassageAgeExpiry_leavesHazards p s
  | duplicateWatchExpiry => exact execDuplicateWatchExpiry_leavesHazards s
  | alarmFrameEnd l bytes => exact execAlarmFrameEnd_leavesHazards l bytes s
  | alarmGapLimit _ => exact ⟨_, rfl, by dsimp only; split <;> rfl⟩
  | supervisionExpiry l => exact execSupervisionExpiry_leavesHazards l s
  | hallMode => exact execHallMode_leavesHazards s
  | supervise => exact ⟨_, rfl, by split <;> rfl⟩
  | statusRequest => exact execStatusRequest_leavesHazards s
  | egressStatusSent _ => exact ⟨_, rfl, by dsimp only; split <;> rfl⟩
  | alarmStartByte _ => exact ⟨_, rfl, by dsimp only; split <;> rfl⟩

end Machine
end Sys2Proof
end

/-!
The zone and beam level laws (R28, R29), part 2: how an event forms a zone's levels, what each command can do to them, and the two laws.
-/
section
namespace Sys2Proof
namespace Machine

/-! ## The effective level (R29) -/

/-- The effective level is the greatest of the three inputs (R29). -/
def ZoneRec.Lawful (r : ZoneRec) : Prop := r.effective = max r.panelLevel (max r.consoleLevel r.beamLevel)

/-- The record with its effective level formed from its inputs, last changed at a time (R29, R30). -/
def ZoneRec.formed (r : ZoneRec) (changed : Ticks) : ZoneRec :=
  { r with effective := max r.panelLevel (max r.consoleLevel r.beamLevel), lastChange := changed }

theorem ZoneRec.formed_lawful (r : ZoneRec) (changed : Ticks) : (r.formed changed).Lawful := rfl

@[simp] theorem ZoneRec.formed_beamLevel (r : ZoneRec) (changed : Ticks) :
    (r.formed changed).beamLevel = r.beamLevel := rfl

theorem zoneLaw_iff (s : State) : ZoneLaw s ↔ ∀ z, (s.zones.get z).Lawful := .rfl

/-! ## The beam level (R28) -/

/-- What a channel brings to a zone: its contribution where ACTIVE enables it for that zone (R28). -/
def State.share (s : State) (z : ZoneIdx) (c : BeamIdx) : Level :=
  if (s.active.beams.get c).enabled && (s.active.beams.get c).zone = z then (s.beams.get c).contribution else 0

theorem State.beamLevel_eq_foldl_share (s : State) (z : ZoneIdx) :
    s.beamLevel z = (List.finRange 8).foldl (fun m c => max m (s.share z c)) 0 := by
  unfold State.beamLevel State.share
  congr
  funext m c
  dsimp only
  split
  · rfl
  · exact (max_eq_left (Fin.zero_le m)).symm

/-- Equal shares give equal beam levels. -/
theorem State.beamLevel_congr {s t : State} {z : ZoneIdx} (h : ∀ c, t.share z c = s.share z c) :
    t.beamLevel z = s.beamLevel z := by
  simp only [State.beamLevel_eq_foldl_share, h]

/-- With no channel contributing, the beam level is 0. -/
theorem State.beamLevel_eq_zero {s : State} {z : ZoneIdx} (h : ∀ c, s.share z c = 0) : s.beamLevel z = 0 := by
  simp [State.beamLevel_eq_foldl_share, h]

theorem State.share_eq_zero_of_contribution {s : State} {z : ZoneIdx} {c : BeamIdx}
    (h : (s.beams.get c).contribution = 0) : s.share z c = 0 := by
  simp [State.share, h]

theorem State.share_eq_zero_of_disabled {s : State} {z : ZoneIdx} {c : BeamIdx}
    (h : (s.active.beams.get c).enabled = false) : s.share z c = 0 := by
  simp [State.share, h]

/-- A replaced channel record that contributes as before, or belongs to another zone, moves no share of a zone. -/
theorem State.share_of_set {s t : State} {z : ZoneIdx} {ch : BeamIdx} {b : BeamRec} (active : t.active = s.active)
    (beams : t.beams = s.beams.set ch b)
    (h : b.contribution = (s.beams.get ch).contribution ∨ z ≠ (s.active.beams.get ch).zone) (c : BeamIdx) :
    t.share z c = s.share z c := by
  unfold State.share
  rw [active, beams, Table.get_set]
  by_cases hc : c = ch
  · subst hc
    rw [if_pos rfl]
    rcases h with same | other
    · rw [same]
    · simp [Ne.symm other]
  · rw [if_neg hc]

/-! ## The laws read the hazard levels alone -/

theorem State.zones_of_hazards {s t : State} (h : t.hazards = s.hazards) : t.zones = s.zones :=
  congrArg Hazards.zones h

theorem State.beamLevel_of_beams {s t : State} (active : t.active = s.active) (beams : t.beams = s.beams)
    (z : ZoneIdx) : t.beamLevel z = s.beamLevel z := by
  unfold State.beamLevel
  rw [beams, active]

theorem State.beamLevel_of_hazards {s t : State} (h : t.hazards = s.hazards) (z : ZoneIdx) :
    t.beamLevel z = s.beamLevel z :=
  State.beamLevel_of_beams (congrArg Hazards.active h) (congrArg Hazards.beams h) z

/-! ## How an event forms them -/

/-- A zone takes inputs: its record with the effective level formed, and nothing else of the hazard levels (R29). -/
theorem formZone_hazards (z : ZoneIdx) (r : ZoneRec) (s : State) :
    ∃ changed, (formZone z r s).1.hazards = { s.hazards with zones := s.zones.set z (r.formed changed) } := by
  unfold formZone
  dsimp only
  split
  · exact ⟨_, rfl⟩
  · exact ⟨_, rfl⟩

/-- The exits that follow a zone's event move no level (R61). -/
theorem zoneEvent_hazards (z : ZoneIdx) (r : ZoneRec) (s : State) :
    ∃ changed, (zoneEvent z r s).1.hazards = { s.hazards with zones := s.zones.set z (r.formed changed) } := by
  obtain ⟨changed, h⟩ := formZone_hazards z r s
  refine ⟨changed, ?_⟩
  unfold zoneEvent
  dsimp only
  split
  · exact h
  · exact (ExitMove.each (fun e _ => deriveHazard_frame e) _).hazards.trans h

/-- The adoption of a layout has a zone gather its beam level and form its effective level (R21, R39). -/
theorem zoneAdopt_hazards (z : ZoneIdx) (s : State) :
    ∃ r changed, r.beamLevel = s.beamLevel z ∧
      (zoneAdopt z s).1.hazards = { s.hazards with zones := s.zones.set z (ZoneRec.formed r changed) } := by
  obtain ⟨changed, h⟩ := formZone_hazards z _ s
  exact ⟨_, changed, rfl, h⟩

/-! ## Every zone formed anew by an adoption -/

/-- The zone's record obeys both laws: R29 within itself, R28 against the channels. -/
def State.ZoneFormed (s : State) (z : ZoneIdx) : Prop :=
  (s.zones.get z).Lawful ∧ (s.zones.get z).beamLevel = s.beamLevel z

theorem State.ZoneFormed.of_hazards {s t : State} (h : t.hazards = s.hazards) {z : ZoneIdx} (hz : s.ZoneFormed z) :
    t.ZoneFormed z := by
  unfold State.ZoneFormed
  rw [State.zones_of_hazards h, State.beamLevel_of_hazards h]
  exact hz

/-- The adoption of one zone forms it. -/
theorem zoneAdopt_forms (z y : ZoneIdx) (s : State) (h : y = z ∨ s.ZoneFormed y) :
    (zoneAdopt z s).1.ZoneFormed y := by
  obtain ⟨r, changed, gathered, hz⟩ := zoneAdopt_hazards z s
  refine State.ZoneFormed.of_hazards (s := { s with zones := s.zones.set z (r.formed changed) }) hz ?_
  unfold State.ZoneFormed
  dsimp only
  rw [Table.get_set]
  split
  · rename_i hy
    exact ⟨r.formed_lawful changed, hy ▸ gathered⟩
  · rename_i hy
    exact h.resolve_left hy

/-- After a list of parts, each member has left its mark when no part takes one away. -/
theorem Emit.each_marks {α : Type} {f : α → Emit} {Q : α → State → Prop}
    (h : ∀ a b s, b = a ∨ Q b s → Q b (f a s).1) (l : List α) (b : α) (s : State) (hb : b ∈ l ∨ Q b s) :
    Q b (Emit.each l f s).1 := by
  induction l generalizing s with
  | nil => exact hb.resolve_left (by simp)
  | cons a l ih =>
    rw [Emit.each_cons]
    refine ih _ ?_
    rcases hb with hb | hb
    · rcases List.mem_cons.1 hb with rfl | hb
      · exact .inr (h b b s (.inl rfl))
      · exact .inl hb
    · exact .inr (h a b s (.inr hb))

/-- The adoption of the zones forms every one of them, whatever they held. -/
theorem adoptZones_forms (s : State) (z : ZoneIdx) : (adoptZones s).1.ZoneFormed z :=
  Emit.each_marks (Q := fun z s => s.ZoneFormed z) zoneAdopt_forms _ z s (.inl (List.mem_finRange z))

theorem passageAdopt_hazards (old : Layout) (p : PassageIdx) (s : State) :
    (passageAdopt old p s).1.hazards = s.hazards := by
  unfold passageAdopt
  dsimp only
  split <;> rfl

theorem exitAdopt_hazards (old : Layout) (e : ExitIdx) (s : State) : (exitAdopt old e s).1.hazards = s.hazards := by
  unfold exitAdopt
  dsimp only
  split
  · split <;> rfl
  · split <;> rfl

theorem State.adoptGrace_hazards (s : State) : s.adoptGrace.hazards = s.hazards := by
  unfold State.adoptGrace
  split
  · split <;> rfl
  · rfl
  · rfl

theorem adoptPassages_hazards (old : Layout) (s : State) : (adoptPassages old s).1.hazards = s.hazards :=
  Emit.each_field State.hazards (fun p _ t => passageAdopt_hazards old p t) s

theorem adoptExits_hazards (old : Layout) (s : State) : (adoptExits old s).1.hazards = s.hazards :=
  Emit.each_field State.hazards (fun e _ t => exitAdopt_hazards old e t) s

theorem adoptHeads_hazards (old : Layout) (s : State) : (adoptHeads old s).1.hazards = s.hazards :=
  Emit.each_field State.hazards (fun _ _ _ => rfl) s

@[simp] theorem State.recount_hazards (s : State) (n : Nat) :
    ({ s with freeCount := n } : State).hazards = s.hazards := rfl
@[simp] theorem State.adoptLines_hazards (s : State) : s.adoptLines.hazards = s.hazards := rfl
@[simp] theorem State.adoptTrunks_hazards (s : State) : s.adoptTrunks.hazards = s.hazards := rfl
@[simp] theorem State.dropAdvert_hazards (s : State) : s.dropAdvert.hazards = s.hazards := rfl

/-- The blocks that adopt a layout after the zones leave the levels as the zones' adoption formed them. -/
theorem adopt_hazards (old : Layout) (s : State) :
    (adopt old s).1.hazards = (adoptZones (adoptBeams old s).1).1.hazards := by
  unfold adopt
  dsimp only
  rw [State.dropAdvert_hazards, State.adoptTrunks_hazards, adoptHeads_hazards, adoptExits_hazards,
    State.adoptGrace_hazards, State.adoptLines_hazards, deriveLink_hazards, adoptPassages_hazards]

/-- A layout adopted leaves every zone formed. -/
theorem adopt_forms (old : Layout) (s : State) (z : ZoneIdx) : (adopt old s).1.ZoneFormed z :=
  (adoptZones_forms _ z).of_hazards (adopt_hazards old s)

/-- What an accepted commit does after the blocks have adopted STAGING moves no level (R19). -/
theorem State.commit_hazards (s : State) :
    s.commit.hazards
      = (adopt s.active ((s.setActive s.layout.staging).restartEngine.adoptSigns s.active)).1.hazards := by
  unfold State.commit
  dsimp only
  rw [State.postAll_hazards, State.kickAll_hazards, State.drive_hazards, State.recount_hazards]

theorem State.darken_hazards (s : State) : s.darken.hazards = s.hazards :=
  State.offers_hazards _ _

/-- What REINIT does after the blocks have adopted the layout loaded moves no level (R199). -/
theorem State.restart_hazards (s : State) :
    s.restart.hazards = (adopt s.active s.loadBanks.restartEngine).1.hazards := by
  unfold State.restart
  dsimp only
  rw [State.postAll_hazards, State.kickAll_hazards, State.drive_hazards, State.darken_hazards]

/-! ## All a command can do to them -/

/-- Everything a command can do to the hazard levels and to what they are formed from. -/
inductive HazardMove (s : State) : State → Prop where
  /-- Nothing. -/
  | kept {t : State} (h : t.hazards = s.hazards) : HazardMove s t
  /-- Every zone is formed: a cold reset, a commit or REINIT. -/
  | formed {t : State} (h : ∀ z, t.ZoneFormed z) : HazardMove s t
  /-- The load event: the zones stay, and no channel contributes yet (R54). -/
  | loaded {t : State} (awaiting : s.loaded = false) (zones : t.zones = s.zones)
      (silent : ∀ c, (t.beams.get c).contribution = 0) : HazardMove s t
  /-- A zone takes a panel or a console level (R24, R32). -/
  | input {t : State} (z : ZoneIdx) (r : ZoneRec) (changed : Ticks) (beam : r.beamLevel = (s.zones.get z).beamLevel)
      (h : t.hazards = { s.hazards with zones := s.zones.set z (r.formed changed) }) : HazardMove s t
  /-- A channel takes a sample and contributes as before (R41). -/
  | sampled {t : State} (ch : BeamIdx) (b : BeamRec) (same : b.contribution = (s.beams.get ch).contribution)
      (h : t.hazards = { s.hazards with beams := s.beams.set ch b }) : HazardMove s t
  /-- A channel's contribution changes, and its zone gathers its beam level (R28, R48). -/
  | gathered {t : State} (ch : BeamIdx) (b : BeamRec) (r : ZoneRec) (changed : Ticks)
      (beam : r.beamLevel = t.beamLevel (s.active.beams.get ch).zone)
      (h : t.hazards = { s.hazards with
        beams := s.beams.set ch b, zones := s.zones.set (s.active.beams.get ch).zone (r.formed changed) }) :
      HazardMove s t
  /-- A channel's reference is calibrated (R53). -/
  | calibrated {t : State} (ch : BeamIdx) (reference : Nat)
      (h : t.hazards = (s.setReference ch reference).hazards) : HazardMove s t

/-- A zone's event with the beam level as it stood, whatever else of the machine has moved before or after, is an input. -/
theorem zoneEvent_hazardMove {s : State} {z : ZoneIdx} {r : ZoneRec} (beam : r.beamLevel = (s.zones.get z).beamLevel)
    {u t : State} (hu : u.hazards = s.hazards) (ht : t.hazards = (zoneEvent z r u).1.hazards) : HazardMove s t := by
  obtain ⟨changed, h⟩ := zoneEvent_hazards z r u
  rw [hu, State.zones_of_hazards hu] at h
  exact .input z r changed beam (ht.trans h)

/-- A cold reset leaves every zone formed: all levels are 0 and ACTIVE enables no channel (R22, R38). -/
theorem State.cold_forms (image : Image) (pins : Table Bool 32) (n : Nat) (q : List Instr) (z : ZoneIdx) :
    (State.cold image pins n q).ZoneFormed z := by
  have silent : (State.cold image pins n q).beamLevel z = 0 := State.beamLevel_eq_zero fun _ =>
    State.share_eq_zero_of_disabled (by simp [State.cold, State.active, Layout.empty, BeamCfg.empty])
  unfold State.ZoneFormed
  rw [silent]
  simp [State.cold, ZoneRec.cold, ZoneRec.Lawful]

/-- A channel as the load event leaves it contributes nothing: it is WARMING or DISABLED (R40, R54). -/
theorem State.loadBeam_contribution (s : State) (ch : BeamIdx) : (s.loadBeam ch).contribution = 0 := by
  unfold State.loadBeam
  split <;> rfl

/-- The load event sets the channels under the layout loaded, and no zone (R54, R198). -/
theorem State.takeUp_hazards (s : State) : s.takeUp.hazards = s.loadBanks.loadBeams.hazards := by
  unfold State.takeUp
  rw [State.kickAll_hazards, State.drive_hazards]
  rfl

theorem State.takeUp_hazardMove {s : State} (awaiting : s.loaded = false) (ns : List Notice) :
    HazardMove s (s.takeUp.postAll ns) := by
  have zones : s.takeUp.zones = s.zones := congrArg Hazards.zones s.takeUp_hazards
  have beams : s.takeUp.beams = Table.ofFn s.loadBanks.loadBeam := congrArg Hazards.beams s.takeUp_hazards
  refine .loaded awaiting ((State.postAll_zones ..).trans zones) fun c => ?_
  rw [State.postAll_beams, beams, Table.get_ofFn]
  exact s.loadBanks.loadBeam_contribution c

theorem execLoadEvent_hazardMove (s : State) : ∃ t, execLoadEvent s = .next t ∧ HazardMove s t := by
  refine ⟨_, rfl, ?_⟩
  split
  · exact .kept rfl
  · rename_i awaiting
    exact s.takeUp_hazardMove (by simpa using awaiting) _

/-- A channel's record replaced. -/
def State.setBeam (s : State) (ch : BeamIdx) (b : BeamRec) : State := { s with beams := s.beams.set ch b }

/-- The zone's record with its beam level gathered from the channels (R28). -/
def State.gather (s : State) (z : ZoneIdx) : ZoneRec := { s.zones.get z with beamLevel := s.beamLevel z }

/-- A channel that contributes as before changes its own record alone. -/
theorem beamEvent_hazards_of_same {ch : BeamIdx} {b : BeamRec} {s : State}
    (same : b.contribution = (s.beams.get ch).contribution) :
    (beamEvent ch b s).1.hazards = (s.setBeam ch b).hazards := by
  unfold beamEvent
  dsimp only
  rw [if_pos same]
  rfl

/-- A changed contribution has the channel's zone gather its beam level from the channels as they now stand (R28). -/
theorem beamEvent_hazards_of_changed {ch : BeamIdx} {b : BeamRec} {s : State}
    (change : b.contribution ≠ (s.beams.get ch).contribution) :
    ∃ changed, (beamEvent ch b s).1.hazards = { (s.setBeam ch b).hazards with
      zones := s.zones.set (s.active.beams.get ch).zone
        (((s.setBeam ch b).gather (s.active.beams.get ch).zone).formed changed) } := by
  obtain ⟨changed, h⟩ := zoneEvent_hazards (s.active.beams.get ch).zone
    ((s.setBeam ch b).gather (s.active.beams.get ch).zone) (s.setBeam ch b)
  refine ⟨changed, ?_⟩
  unfold beamEvent
  dsimp only
  rw [if_neg change]
  exact h

theorem beamEvent_hazardMove (ch : BeamIdx) (b : BeamRec) (s : State) :
    HazardMove s (Emit.run (beamEvent ch b) s) := by
  by_cases same : b.contribution = (s.beams.get ch).contribution
  · exact .sampled ch b same ((Emit.run_hazards ..).trans (beamEvent_hazards_of_same same))
  · obtain ⟨changed, h⟩ := beamEvent_hazards_of_changed same
    rw [← Emit.run_hazards] at h
    have level := State.beamLevel_of_beams (s := s.setBeam ch b) (congrArg Hazards.active h) (congrArg Hazards.beams h)
      (s.active.beams.get ch).zone
    exact .gathered ch b _ changed level.symm h

theorem execBeamSample_hazardMove (ch : BeamIdx) (reading : Fin 4096) (s : State) :
    ∃ t, execBeamSample ch reading s = .next t ∧ HazardMove s t := by
  refine ⟨_, rfl, ?_⟩
  split
  · exact .kept rfl
  · exact beamEvent_hazardMove ch _ s

theorem execZoneReport_hazardMove (s : State) : ∃ t, execZoneReport s = .next t ∧ HazardMove s t := by
  refine ⟨_, rfl, ?_⟩
  split
  · rename_i seq z st _
    split
    · exact .kept rfl
    · refine zoneEvent_hazardMove (z := z) (u := s.accept seq)
        (r := { s.zones.get z with panelState := st, panelLevel := s.panelLevel (s.zones.get z).panelLevel st }) rfl rfl ?_
      rw [State.dropFrame_hazards, Emit.run_hazards]
      rfl
  · exact .kept rfl

/-- A completion does what its act does: no answer touches the hazard levels. -/
theorem State.serve_hazardMove {s : State} {code : Byte} {ok : List Byte → Bool} {bad : List Byte}
    {act : List Byte → State} (h : ∀ body, HazardMove s (act body)) :
    ∃ t, (.next (s.serve code ok bad act) : Host.Outcome State Fault Refusal) = .next t ∧ HazardMove s t :=
  ⟨_, rfl, State.serve_keeps (P := HazardMove s) (.kept rfl) (fun _ _ _ => .kept rfl) fun body _ _ => h body⟩

/-- A console level taken, and perhaps answered, is an input of its zone (R32). -/
theorem State.takeConsoleLevel_hazardMove (s : State) (z : ZoneIdx) (l : Level) {t : State}
    (h : t.hazards = (s.takeConsoleLevel z l).hazards) : HazardMove s t := by
  rw [State.takeConsoleLevel, Emit.run_hazards] at h
  refine zoneEvent_hazardMove ?_ rfl h
  rfl

theorem execSetZoneLevel_hazardMove (s : State) : ∃ t, execSetZoneLevel s = .next t ∧ HazardMove s t :=
  State.serve_hazardMove fun body => by
    split
    · split
      · dsimp only
        split
        · exact .kept rfl
        · exact s.takeConsoleLevel_hazardMove _ _ (State.respond_hazards ..)
      · exact .kept rfl
    · exact .kept rfl

theorem execCalibrateBeam_hazardMove (s : State) : ∃ t, execCalibrateBeam s = .next t ∧ HazardMove s t :=
  State.serve_hazardMove fun body => by
    split
    · dsimp only
      split
      · exact .kept rfl
      · split
        · exact .kept rfl
        · split
          · exact .kept rfl
          · split
            · exact .kept rfl
            · split
              · exact .kept rfl
              · exact .calibrated _ _ rfl
    · exact .kept rfl

theorem execCommitLayout_hazardMove (s : State) : ∃ t, execCommitLayout s = .next t ∧ HazardMove s t :=
  State.serve_hazardMove fun _ => by
    split
    · exact .kept rfl
    · split
      · exact .kept rfl
      · split
        · exact .kept rfl
        · exact .formed fun z => (adopt_forms _ _ z).of_hazards ((State.respond_hazards ..).trans s.commit_hazards)

theorem execReinit_hazardMove (s : State) : ∃ t, execReinit s = .next t ∧ HazardMove s t :=
  State.serve_hazardMove fun _ => by
    split
    · exact .kept rfl
    · exact .formed fun z => (adopt_forms _ _ z).of_hazards ((State.respond_hazards ..).trans s.restart_hazards)

/-- Every command answers a next state, and does one of these to the hazard levels. -/
theorem exec_hazardMove (c : Instr) (s : State) : ∃ t, exec c s = .next t ∧ HazardMove s t := by
  by_cases hc : reachesHazards c = true
  · cases c with
    | coldReset => exact ⟨_, rfl, .formed (State.cold_forms _ _ _ _)⟩
    | loadEvent => exact execLoadEvent_hazardMove s
    | beamSample ch reading => exact execBeamSample_hazardMove ch reading s
    | zoneReport => exact execZoneReport_hazardMove s
    | setZoneLevel => exact execSetZoneLevel_hazardMove s
    | calibrateBeam => exact execCalibrateBeam_hazardMove s
    | commitLayout => exact execCommitLayout_hazardMove s
    | reinit => exact execReinit_hazardMove s
    | _ => cases hc
  · obtain ⟨t, ht, h⟩ := exec_leavesHazards c (by simpa using hc) s
    exact ⟨t, ht, .kept h⟩

/-- A step does one of these too: taking a command from the queue moves no level. -/
theorem step_hazardMove {s t : State} (h : step s = .next t) : ∃ q, HazardMove (s.withPending q) t := by
  unfold step at h
  split at h
  · cases h
    exact ⟨[], .kept rfl⟩
  · rename_i c rest _
    obtain ⟨u, hu, move⟩ := exec_hazardMove c (s.withPending rest)
    rw [hu] at h
    cases h
    exact ⟨rest, move⟩

/-! ## The laws -/

/-- R29 across all a command can do: a zone is left as it was or formed. -/
theorem HazardMove.keeps_zoneLaw {s t : State} (move : HazardMove s t) (hs : ZoneLaw s) : ZoneLaw t := by
  have replaced {z : ZoneIdx} {r : ZoneRec} {changed : Ticks} (h : t.zones = s.zones.set z (r.formed changed)) :
      ZoneLaw t := by
    rw [zoneLaw_iff, h]
    intro y
    rw [Table.get_set]
    split
    · exact r.formed_lawful changed
    · exact hs y
  have same (h : t.zones = s.zones) : ZoneLaw t := by
    rw [zoneLaw_iff, h]
    exact hs
  cases move with
  | kept h => exact same (State.zones_of_hazards h)
  | formed h => exact fun z => (h z).1
  | loaded _ zones _ => exact same zones
  | input _ _ _ _ h => exact replaced (congrArg Hazards.zones h)
  | sampled _ _ _ h => exact same (congrArg Hazards.zones h)
  | gathered _ _ _ _ _ h => exact replaced (congrArg Hazards.zones h)
  | calibrated _ _ h => exact same (congrArg Hazards.zones h)

/-- A calibrated reference is no part of a share. -/
theorem State.setReference_share (s : State) (ch : BeamIdx) (reference : Nat) (z : ZoneIdx) (c : BeamIdx) :
    (s.setReference ch reference).share z c = s.share z c := by
  have beams : (s.setReference ch reference).active.beams
      = s.active.beams.set ch { s.active.beams.get ch with reference := reference } := rfl
  unfold State.share
  rw [beams, Table.get_set]
  split
  · rename_i hc
    subst hc
    rfl
  · rfl

/-- R28 across all a command can do: where shares of a zone move, the zone gathers its beam level. -/
theorem HazardMove.keeps_beamLevelLaw {s t : State} (move : HazardMove s t)
    (cold : s.loaded = false → s.zones = Table.replicate 48 ZoneRec.cold) (hs : BeamLevelLaw s) : BeamLevelLaw t := by
  intro y
  cases move with
  | kept h =>
    rw [State.zones_of_hazards h, State.beamLevel_of_hazards h]
    exact hs y
  | formed h => exact (h y).2
  | loaded awaiting zones silent =>
    rw [zones, cold awaiting, Table.get_replicate,
      State.beamLevel_eq_zero fun c => State.share_eq_zero_of_contribution (silent c)]
    rfl
  | input z r changed beam h =>
    have zones : t.zones = s.zones.set z (r.formed changed) := congrArg Hazards.zones h
    have level : t.beamLevel y = s.beamLevel y := State.beamLevel_of_beams (congrArg Hazards.active h) (congrArg Hazards.beams h) y
    rw [level, zones, Table.get_set]
    split
    · rename_i hy
      rw [ZoneRec.formed_beamLevel, beam, ← hy]
      exact hs y
    · exact hs y
  | sampled ch b same h =>
    have zones : t.zones = s.zones := congrArg Hazards.zones h
    rw [zones, State.beamLevel_congr
      (State.share_of_set (congrArg Hazards.active h) (congrArg Hazards.beams h) (.inl same))]
    exact hs y
  | gathered ch b r changed beam h =>
    have zones : t.zones = s.zones.set (s.active.beams.get ch).zone (r.formed changed) := congrArg Hazards.zones h
    rw [zones, Table.get_set]
    split
    · rename_i hy
      rw [ZoneRec.formed_beamLevel, beam, hy]
    · rename_i hy
      rw [State.beamLevel_congr
        (State.share_of_set (congrArg Hazards.active h) (congrArg Hazards.beams h) (.inr hy))]
      exact hs y
  | calibrated ch reference h =>
    have zones : t.zones = s.zones := congrArg Hazards.zones h
    rw [zones, State.beamLevel_of_hazards h, State.beamLevel_congr (s.setReference_share ch reference y)]
    exact hs y

/-- Settles O47: a step leaves each zone as it was or forms its effective level. -/
theorem zoneLawIsKept : Obligations.ZoneLawIsKept := by
  intro s t hs h
  obtain ⟨_, move⟩ := step_hazardMove h
  exact move.keeps_zoneLaw hs

/-- Settles O48: a step that moves a share of a zone has the zone gather its beam level, and the load event meets cold zones. -/
theorem beamLevelLawIsKept : Obligations.BeamLevelLawIsKept := by
  intro s t awaiting hs h
  obtain ⟨_, move⟩ := step_hazardMove h
  exact move.keeps_beamLevelLaw (fun unloaded => (awaiting unloaded).zones) hs

end Machine
end Sys2Proof
end

/-!
The penalty of an exit (R93): what the LOAD phase writes for it, and the bounds of the clamped product.
-/
section
namespace Sys2Proof
namespace Machine

/-! ## The penalty at a load -/

theorem Layout.penaltyOf_undefined {a : Layout} {e : ExitIdx} (undefined : a.exits.get e = none) (load : Nat) :
    a.penaltyOf e load = 0 := by
  simp [Layout.penaltyOf, undefined]

theorem Layout.penaltyOf_defined {a : Layout} {e : ExitIdx} {x : ExitCfg} (defined : a.exits.get e = some x) (load : Nat) :
    a.penaltyOf e load = min Config.penaltyMax ((load - x.capacity) * a.params.gain) := by
  simp [Layout.penaltyOf, defined]

theorem Layout.penaltyOf_le (a : Layout) (e : ExitIdx) (load : Nat) : a.penaltyOf e load ≤ Config.penaltyMax := by
  cases hx : a.exits.get e with
  | none => exact (Layout.penaltyOf_undefined hx load).trans_le (Nat.zero_le _)
  | some x => exact (Layout.penaltyOf_defined hx load).trans_le (Nat.min_le_left ..)

/-- With the congestion gain 0 no load costs anything (R93). -/
theorem Layout.penaltyOf_of_gain_eq_zero {a : Layout} (gain : a.params.gain = 0) (e : ExitIdx) (load : Nat) :
    a.penaltyOf e load = 0 := by
  cases hx : a.exits.get e with
  | none => exact Layout.penaltyOf_undefined hx load
  | some x => simp [Layout.penaltyOf_defined hx, gain]

/-! ## The LOAD phase -/

/-- LOAD takes each exit's penalty at the load the run's nodes give it (R92, R93). -/
@[simp] theorem Run.doLoad_penalty (a : Layout) (r : Run) (e : ExitIdx) :
    ((Run.doLoad a r).exits.get e).penalty = a.penaltyOf e (a.loadOf r.nodes e) := by
  simp [Run.doLoad]

/-- Settles O40: LOAD writes each penalty at the exit's load, whether the exit is defined or not, and the clamp bounds it. -/
theorem penaltyIsClamped : Obligations.PenaltyIsClamped := by
  intro a r e
  rw [Run.doLoad_penalty]
  refine ⟨?_, a.penaltyOf_le e _, fun gain => a.penaltyOf_of_gain_eq_zero gain e _⟩
  cases hx : a.exits.get e with
  | none => exact Layout.penaltyOf_undefined hx _
  | some x => exact Layout.penaltyOf_defined hx _

end Machine
end Sys2Proof
end

/-!
The footprint of every command, part 1: how the port moves in an event (R188, R189), that every notice of an event carries the event's
time, and what the parts of an adoption may change.
-/
section
namespace Sys2Proof
namespace Machine

/-! ## Outcomes -/

/-- The command answers a next state of which something holds. -/
def After (o : Host.Outcome State Fault Refusal) (P : State → Prop) : Prop := ∃ t, o = .next t ∧ P t

theorem After.of_next {P : State → Prop} {t : State} (h : P t) : After (.next t) P := ⟨t, rfl, h⟩

theorem After.elim {o : Host.Outcome State Fault Refusal} {P : State → Prop} {t : State} (h : After o P)
    (ht : o = .next t) : P t := by
  obtain ⟨u, hu, hP⟩ := h
  rw [hu] at ht
  cases ht
  exact hP

theorem After.imp {o : Host.Outcome State Fault Refusal} {P Q : State → Prop} (h : After o P) (f : ∀ t, P t → Q t) :
    After o Q := by
  obtain ⟨t, ht, hP⟩ := h
  exact ⟨t, ht, f t hP⟩

/-- What every command keeps, a step keeps: the queue of waiting commands is no part of it. -/
theorem step_keeps {P Q : State → Prop} (idle : ∀ s, P s → Q s) (queue : ∀ s q, P s → P (s.withPending q))
    (command : ∀ c s, P s → After (exec c s) Q) {s t : State} (hs : P s) (h : step s = .next t) : Q t := by
  unfold step at h
  split at h
  · cases h
    exact idle s hs
  · exact (command _ _ (queue s _ hs)).elim h

/-! ## The port in an event -/

/-- The port `q` is `p` with notices of the present time posted and sticky flags set. -/
inductive Posted (p : Port) : Port → Prop where
  | refl : Posted p p
  | post {q : Port} (n : Notice) : Posted p q → n.time = q.clock → Posted p (q.post n)
  | flag {q : Port} (f : Flag) : Posted p q → Posted p (q.setFlag f)

theorem Posted.trans {p q r : Port} (h : Posted p q) (k : Posted q r) : Posted p r := by
  induction k with
  | refl => exact h
  | post n _ hn ih => exact ih.post n hn
  | flag f _ ih => exact ih.flag f

/-- Nothing else of the port moves in an event. -/
theorem Posted.other {p q : Port} (h : Posted p q) :
    q = { p with notices := q.notices, flags := q.flags, snapshot := q.snapshot } := by
  induction h with
  | refl => rfl
  | @post q n _ _ ih => rw [Port.post_other, ih]
  | flag f _ ih => rw [ih]; rfl

theorem Posted.clock {p q : Port} (h : Posted p q) : q.clock = p.clock := by
  rw [h.other]

theorem Posted.postAll {p q : Port} (h : Posted p q) (ns : List Notice) (hn : ∀ n ∈ ns, n.time = p.clock) :
    Posted p (q.postAll ns) := by
  induction ns generalizing q with
  | nil => exact h
  | cons n ns ih =>
    rw [Port.postAll_cons]
    refine ih (h.post n ?_) fun m hm => hn m (List.mem_cons_of_mem _ hm)
    rw [h.clock]
    exact hn n List.mem_cons_self

/-- A part of an event posts at the event's time: it moves the port by posts and flags alone, and its notices carry the time. -/
def Timely (f : Emit) : Prop :=
  ∀ s, Posted s.port (f s).1.port ∧ ∀ n ∈ (f s).2, n.time = s.port.clock

/-- A part that leaves the port, and posts with the event's time. -/
theorem Timely.of_port {f : Emit} (port : ∀ s, (f s).1.port = s.port) (time : ∀ s, ∀ n ∈ (f s).2, n.time = s.port.clock) :
    Timely f := fun s => ⟨by rw [port]; exact .refl, time s⟩

theorem Timely.clock {f : Emit} (h : Timely f) (s : State) : (f s).1.port.clock = s.port.clock := (h s).1.clock

/-- Parts in order. -/
theorem Timely.each {α : Type} {f : α → Emit} (h : ∀ a, Timely (f a)) (l : List α) : Timely (Emit.each l f) := by
  intro s
  induction l generalizing s with
  | nil => exact ⟨.refl, by simp⟩
  | cons a l ih =>
    rw [Emit.each_cons]
    obtain ⟨hp, hn⟩ := h a s
    obtain ⟨kp, kn⟩ := ih (f a s).1
    refine ⟨hp.trans kp, fun n hn' => ?_⟩
    rcases List.mem_append.1 hn' with hm | hm
    · exact hn n hm
    · rw [kn n hm, hp.clock]

/-- A whole event moves the port by posts of its time and flags. -/
theorem Timely.run {f : Emit} (h : Timely f) (s : State) : Posted s.port (f.run s).port :=
  (h s).1.postAll _ (h s).2

/-! ## Every event posts at its time -/

theorem setReasons_timely (e : ExitIdx) (r : ReasonSet) : Timely (setReasons e r) := by
  refine .of_port (fun s => ?_) fun s n hn => ?_
  · obtain ⟨_, _, _, h⟩ := setReasons_frame e r s
    rw [h]
  · unfold setReasons at hn
    split at hn
    · obtain rfl := List.mem_singleton.1 hn
      rfl
    · cases hn

theorem deriveHazard_timely (e : ExitIdx) : Timely (deriveHazard e) := fun s => setReasons_timely e _ s
theorem deriveDoor_timely (e : ExitIdx) : Timely (deriveDoor e) := fun s => setReasons_timely e _ s
theorem deriveStale_timely (e : ExitIdx) : Timely (deriveStale e) := fun s => setReasons_timely e _ s

theorem formZone_timely (z : ZoneIdx) (r : ZoneRec) : Timely (formZone z r) := by
  intro s
  unfold formZone
  dsimp only
  split
  · exact ⟨.refl, by simp⟩
  · exact ⟨.refl, by simp [State.notice]⟩

theorem zoneEvent_timely (z : ZoneIdx) (r : ZoneRec) : Timely (zoneEvent z r) := by
  intro s
  obtain ⟨hp, hn⟩ := formZone_timely z r s
  obtain ⟨kp, kn⟩ := Timely.each deriveHazard_timely (exitsWhere fun e => s.active.exitZone e = some z) (formZone z r s).1
  unfold zoneEvent
  dsimp only
  split
  · exact ⟨hp, hn⟩
  · refine ⟨hp.trans kp, fun n hm => ?_⟩
    rcases List.mem_append.1 hm with hm | hm
    · exact hn n hm
    · rw [kn n hm, hp.clock]

theorem beamEvent_timely (ch : BeamIdx) (b : BeamRec) : Timely (beamEvent ch b) := by
  intro s
  have posted : ∀ n ∈ (if b.state = (s.beams.get ch).state then []
      else [s.beamNotice ch (s.beams.get ch).state b.state]), n.time = s.port.clock := by
    split <;> simp [State.beamNotice, State.notice]
  unfold beamEvent
  dsimp only
  split
  · exact ⟨.refl, posted⟩
  · obtain ⟨hp, hn⟩ := zoneEvent_timely (s.active.beams.get ch).zone
      { s.zones.get (s.active.beams.get ch).zone with
        beamLevel := { s with beams := s.beams.set ch b }.beamLevel (s.active.beams.get ch).zone }
      { s with beams := s.beams.set ch b }
    refine ⟨hp, fun n hm => ?_⟩
    rcases List.mem_append.1 hm with hm | hm
    · exact posted n hm
    · exact hn n hm

theorem deriveLink_timely : Timely deriveLink := by
  intro s
  unfold deriveLink
  dsimp only
  split
  · exact ⟨.refl, by simp⟩
  · split
    · exact ⟨Posted.refl.flag _, by simp [State.notice, Port.setFlag]⟩
    · exact ⟨.refl, by simp [State.notice]⟩

/-- A part run on a state with the port as it stood. -/
theorem Timely.after {f g : Emit} {u : State → State} (h : Timely g) (port : ∀ s, (u s).port = s.port)
    (eq : ∀ s, f s = g (u s)) : Timely f := by
  intro s
  obtain ⟨hp, hn⟩ := h (u s)
  rw [eq]
  rw [port] at hp hn
  exact ⟨hp, hn⟩

/-- Two parts of which one runs. -/
theorem Timely.ite {f g h : Emit} {c : State → Prop} [∀ s, Decidable (c s)] (hg : Timely g) (hh : Timely h)
    (eq : ∀ s, f s = if c s then g s else h s) : Timely f := by
  intro s
  rw [eq]
  split
  · exact hg s
  · exact hh s

/-- A change of state that leaves the port and posts nothing. -/
theorem Timely.silent {f : State → State} (port : ∀ s, (f s).port = s.port) : Timely fun s => (f s, []) :=
  .of_port port fun _ _ hn => by cases hn

theorem hearLine_timely (l : AlarmLine) : Timely (hearLine l) := by
  refine Timely.ite (c := fun s => (s.alarm.line l).state = .live)
    (g := fun s => (s.setLine l { s.alarm.line l with receiver := .hunt, state := .live, expiry := some s.supervisionFrom }, []))
    (h := fun s => deriveLink (s.setLine l { s.alarm.line l with receiver := .hunt, state := .live, expiry := some s.supervisionFrom }))
    (Timely.silent fun _ => rfl) (deriveLink_timely.after (fun _ => ?_) fun _ => rfl) fun _ => rfl
  rfl

theorem loseLine_timely (l : AlarmLine) : Timely (loseLine l) := by
  refine Timely.ite (c := fun s => (s.alarm.line l).state = .silent)
    (g := fun s => (s.setLine l { s.alarm.line l with state := .silent, expiry := none }, []))
    (h := fun s => deriveLink (s.setLine l { s.alarm.line l with state := .silent, expiry := none }))
    (Timely.silent fun _ => rfl) (deriveLink_timely.after (fun _ => ?_) fun _ => rfl) fun _ => rfl
  rfl

theorem State.offerFrame_port (s : State) (f : IntakeFrame) : (s.offerFrame f).port = s.port := by
  unfold State.offerFrame
  dsimp only
  split <;> rfl

theorem takeGood_timely (l : AlarmLine) (seq : Byte) (body : FrameBody) : Timely (takeGood l seq body) := by
  intro s
  obtain ⟨hp, hn⟩ := hearLine_timely l s
  refine ⟨?_, hn⟩
  unfold takeGood
  dsimp only
  rw [State.offerFrame_port]
  exact hp

theorem enterElapsed_timely : Timely enterElapsed := fun s =>
  Timely.each deriveDoor_timely s.active.doorExits (s.setGrace .elapsed)

/-- DOOR of one exit is removed (R66). -/
def removeDoor (e : ExitIdx) : Emit := fun t => setReasons e { (t.exits.exits.get e).reasons with door := false } t

theorem removeDoor_timely (e : ExitIdx) : Timely (removeDoor e) := fun s => setReasons_timely e _ s

theorem endGrace_eq (s : State) : endGrace s = Emit.each (List.finRange 24) removeDoor (s.setGrace .idle) := rfl

theorem endGrace_timely : Timely endGrace :=
  (Timely.each removeDoor_timely (List.finRange 24)).after (u := fun s => s.setGrace .idle) (fun _ => rfl) endGrace_eq

theorem moveGrace_timely (m : HallMode) : Timely (moveGrace m) := by
  cases m with
  | standby => exact endGrace_timely
  | evacuate =>
    exact Timely.ite (c := fun s => s.active.params.doorGrace = 0) enterElapsed_timely
      (Timely.silent (f := fun s => s.setGrace (.running s.port.clock)) fun _ => rfl) fun _ => rfl

theorem State.recodeSigns_port (s : State) (m : HallMode) : (s.recodeSigns m).port = s.port := by
  obtain ⟨_, h⟩ := s.recodeSigns_frame m
  rw [h]; rfl

theorem changeMode_timely (m : HallMode) : Timely (changeMode m) := by
  intro s
  obtain ⟨hp, hn⟩ := moveGrace_timely m (s.setMode m)
  unfold changeMode
  dsimp only
  refine ⟨by rw [State.recodeSigns_port]; exact hp, fun n hm => ?_⟩
  rcases List.mem_cons.1 hm with rfl | hm
  · rfl
  · exact hn n hm

theorem applyOutcome_timely (i : SignIdx) (f : TrunkFrame) (o : ReplyOutcome) : Timely (applyOutcome i f o) := by
  refine .of_port (fun _ => rfl) fun s n hn => ?_
  rcases List.mem_append.1 hn with hm | hm
  · split at hm
    · cases hm
    · obtain rfl := List.mem_singleton.1 hm
      rfl
  · split at hm
    · obtain rfl := List.mem_singleton.1 hm
      rfl
    · cases hm

theorem endExchange_timely (t : TrunkIdx) (x : Exchange) (o : ReplyOutcome) : Timely (endExchange t x o) := by
  intro s
  obtain ⟨l, hl⟩ := endExchange_frame t x o s
  refine ⟨by rw [hl]; exact .refl, ?_⟩
  unfold endExchange
  dsimp only
  split
  · simp
  · exact (applyOutcome_timely x.sign x.frame o (s.setTrunk t { s.signLine.trunks.get t with exchange := none })).2

theorem formEgress_timely (p : Published) : Timely (formEgress p) := by
  intro s
  obtain ⟨_, _, h⟩ := formEgress_frame p s
  refine ⟨by rw [h]; exact .refl, ?_⟩
  unfold formEgress
  dsimp only
  split
  · simp
  · intro n hn
    obtain rfl := List.mem_singleton.1 hn
    unfold State.egressNotice
    split <;> rfl

/-- The field taken for the next advert changes the controller alone (R146). -/
theorem State.takeField_frame (s : State) (p : Published) : ∃ b, s.takeField p = s.setBoundary b := by
  unfold State.takeField
  split
  · exact ⟨s.boundary, rfl⟩
  · split
    · exact ⟨_, rfl⟩
    · exact ⟨_, rfl⟩

theorem adoptField_timely (p : Published) : Timely (adoptField p) := by
  intro s
  obtain ⟨signs, q, hs⟩ := ({ s with aspect := { s.aspect with published := some p, lastGeneration := p.field.generation } }
    : State).evalSigns_frame p
  obtain ⟨hp, hn⟩ := formEgress_timely p (({ s with aspect := { s.aspect with
    published := some p, lastGeneration := p.field.generation } } : State).evalSigns p)
  rw [hs] at hp hn
  obtain ⟨b, hb⟩ := ((formEgress p (({ s with aspect := { s.aspect with
    published := some p, lastGeneration := p.field.generation } } : State).evalSigns p)).1.drive OutputSource.isInUse).takeField_frame p
  unfold adoptField
  dsimp only
  rw [hb, hs]
  exact ⟨hp, hn⟩

theorem State.takeRecord_frame (s : State) (p : PassageIdx) (r : PassageRec) :
    ExitMove (s.setPassage p r) (s.takeRecord p r) := by
  unfold State.takeRecord
  dsimp only
  split
  · exact .refl _
  · exact State.remoteChanged_frame _ p

theorem ExitMove.port {s t : State} (h : ExitMove s t) : t.port = s.port := by
  obtain ⟨_, _, _, rfl⟩ := h
  rfl

theorem deriveStaleOf_timely (p : PassageIdx) : Timely (deriveStaleOf p) := fun s =>
  Timely.each deriveStale_timely (exitsWhere (s.active.exitUses p)) s

theorem useEntry_timely (g : Gen) (e : AdvertEntry) : Timely (useEntry g e) := by
  intro s
  have port := (s.takeRecord_frame e.passage (s.usedRecord g e)).port
  obtain ⟨hp, hn⟩ := deriveStaleOf_timely e.passage (s.takeRecord e.passage (s.usedRecord g e))
  rw [port] at hp hn
  unfold useEntry
  dsimp only
  split
  · exact ⟨by rw [port]; exact .refl, by simp⟩
  · refine ⟨hp, fun n hm => ?_⟩
    rcases List.mem_cons.1 hm with rfl | hm
    · rfl
    · exact hn n hm

theorem takeEntry_timely (a : Advert) (e : AdvertEntry) : Timely (takeEntry a e) := by
  intro s
  unfold takeEntry
  split
  · exact ⟨.refl, by simp⟩
  · split
    · exact useEntry_timely a.generation e s
    · exact ⟨.refl, by simp⟩

theorem seeDuplicate_timely : Timely seeDuplicate := by
  intro s
  unfold seeDuplicate
  dsimp only
  split
  · exact ⟨.refl, by simp [State.notice]⟩
  · exact ⟨.refl, by simp⟩

theorem takeAdvert_timely (a : Advert) : Timely (takeAdvert a) :=
  Timely.ite (c := fun s => a.sender = s.active.params.hallId) seeDuplicate_timely
    (Timely.each (takeEntry_timely a) a.entries) fun _ => rfl

theorem goStale_timely (p : PassageIdx) : Timely (goStale p) := by
  intro s
  obtain ⟨hp, hn⟩ := deriveStaleOf_timely p (s.setPassage p { s.boundary.passages.get p with state := .stale })
  refine ⟨hp, fun n hm => ?_⟩
  rcases List.mem_cons.1 hm with rfl | hm
  · rfl
  · exact hn n hm

/-! ## What the parts of an adoption change -/

/-- A channel's adoption changes the channels alone (R55). -/
theorem beamAdopt_frame (old : Layout) (ch : BeamIdx) (s : State) :
    ∃ b, (beamAdopt old ch s).1 = { s with beams := s.beams.set ch b } := by
  unfold beamAdopt
  dsimp only
  split
  · exact ⟨_, rfl⟩
  · exact ⟨_, rfl⟩
  · exact ⟨s.beams.get ch, by rw [Table.set_get_self]⟩

/-- A zone's inputs change its record and change pending (R29, R30). -/
theorem formZone_record (z : ZoneIdx) (r : ZoneRec) (s : State) :
    ∃ x p, (formZone z r s).1 = { s with zones := s.zones.set z x, engine := { s.engine with changePending := p } } := by
  unfold formZone
  dsimp only
  split
  · exact ⟨_, s.engine.changePending, rfl⟩
  · exact ⟨_, _, rfl⟩

/-- A zone's adoption is an input of that zone. -/
theorem zoneAdopt_frame (z : ZoneIdx) (s : State) :
    ∃ r p, (zoneAdopt z s).1 = { s with zones := s.zones.set z r, engine := { s.engine with changePending := p } } :=
  formZone_record z _ s

/-- A passage's adoption changes its entry alone (R156, R158). -/
theorem passageAdopt_frame (old : Layout) (p : PassageIdx) (s : State) :
    ∃ r, (passageAdopt old p s).1 = s.setPassage p r := by
  unfold passageAdopt
  dsimp only
  split
  · exact ⟨s.boundary.passages.get p, by simp [State.setPassage, State.setBoundary]⟩
  · exact ⟨_, rfl⟩

/-- An exit's adoption changes its record and change pending (R57, R72). -/
theorem exitAdopt_frame (old : Layout) (e : ExitIdx) (s : State) :
    ∃ x p, (exitAdopt old e s).1 = { s with
      exits := { s.exits with exits := s.exits.exits.set e x }, engine := { s.engine with changePending := p } } := by
  unfold exitAdopt
  dsimp only
  split
  · split
    · exact ⟨_, s.engine.changePending, rfl⟩
    · exact ⟨_, _, rfl⟩
  · split
    · exact ⟨_, _, rfl⟩
    · exact ⟨s.exits.exits.get e, s.engine.changePending, by simp⟩

/-- A head's adoption changes its record alone (R20). -/
theorem headAdopt_frame (old : Layout) (i : SignIdx) (s : State) : ∃ h, (headAdopt old i s).1 = s.setHead i h := ⟨_, rfl⟩

theorem beamAdopt_timely (old : Layout) (ch : BeamIdx) : Timely (beamAdopt old ch) := by
  intro s
  unfold beamAdopt
  dsimp only
  split
  · exact ⟨.refl, by simp [State.beamNotice, State.notice]⟩
  · exact ⟨.refl, by simp [State.beamNotice, State.notice]⟩
  · exact ⟨.refl, by simp⟩

theorem zoneAdopt_timely (z : ZoneIdx) : Timely (zoneAdopt z) := fun s => formZone_timely z _ s

theorem passageAdopt_timely (old : Layout) (p : PassageIdx) : Timely (passageAdopt old p) := by
  intro s
  unfold passageAdopt
  dsimp only
  split
  · exact ⟨.refl, by simp⟩
  · split
    · exact ⟨.refl, by simp [State.passageNotice, State.notice]⟩
    · exact ⟨.refl, by simp⟩

theorem exitAdopt_timely (old : Layout) (e : ExitIdx) : Timely (exitAdopt old e) := by
  intro s
  unfold exitAdopt
  dsimp only
  split
  · split
    · exact ⟨.refl, by simp⟩
    · exact ⟨.refl, by simp [State.exitNotice, State.notice]⟩
  · split
    · exact ⟨.refl, by simp [State.exitNotice, State.notice]⟩
    · exact ⟨.refl, by simp⟩

theorem headAdopt_timely (old : Layout) (i : SignIdx) : Timely (headAdopt old i) := by
  intro s
  unfold headAdopt
  dsimp only
  split
  · exact ⟨.refl, by simp⟩
  · exact ⟨.refl, by simp [State.notice]⟩

/-- What a list of parts that each change some fields changes: the fields `put` writes, given that `put` absorbs itself. -/
theorem Emit.each_puts {α β : Type} {f : α → Emit} {put : State → β → State} {l : List α}
    (unit : ∀ s, ∃ b, s = put s b) (absorb : ∀ s b c, ∃ d, put (put s b) c = put s d)
    (h : ∀ a s, ∃ b, (f a s).1 = put s b) (s : State) : ∃ b, (Emit.each l f s).1 = put s b := by
  refine Emit.each_keeps (P := fun t => ∃ b, t = put s b) (fun a _ t => ?_) (unit s)
  rintro ⟨b, rfl⟩
  obtain ⟨c, hc⟩ := h a (put s b)
  obtain ⟨d, hd⟩ := absorb s b c
  exact ⟨d, hc.trans hd⟩

theorem adoptBeams_frame (old : Layout) (s : State) : ∃ b, (adoptBeams old s).1 = { s with beams := b } :=
  Emit.each_puts (put := fun s b => { s with beams := b }) (fun s => ⟨s.beams, rfl⟩) (fun _ _ c => ⟨c, rfl⟩)
    (fun ch s => by obtain ⟨b, h⟩ := beamAdopt_frame old ch s; exact ⟨_, h⟩) s

theorem adoptZones_frame (s : State) :
    ∃ z p, (adoptZones s).1 = { s with zones := z, engine := { s.engine with changePending := p } } := by
  obtain ⟨b, h⟩ := Emit.each_puts (l := List.finRange 48) (f := zoneAdopt)
    (put := fun s (b : Table ZoneRec 48 × Bool) => { s with zones := b.1, engine := { s.engine with changePending := b.2 } })
    (fun s => ⟨(s.zones, s.engine.changePending), rfl⟩) (fun _ _ c => ⟨c, rfl⟩)
    (fun z s => by obtain ⟨r, p, h⟩ := zoneAdopt_frame z s; exact ⟨(_, p), h⟩) s
  exact ⟨_, _, h⟩

theorem adoptPassages_frame (old : Layout) (s : State) :
    ∃ p, (adoptPassages old s).1 = s.setBoundary { s.boundary with passages := p } :=
  Emit.each_puts (put := fun s p => s.setBoundary { s.boundary with passages := p }) (fun s => ⟨s.boundary.passages, rfl⟩)
    (fun _ _ c => ⟨c, rfl⟩) (fun p s => by obtain ⟨b, h⟩ := passageAdopt_frame old p s; exact ⟨_, h⟩) s

theorem adoptExits_frame (old : Layout) (s : State) :
    ∃ x p, (adoptExits old s).1 = { s with
      exits := { s.exits with exits := x }, engine := { s.engine with changePending := p } } := by
  obtain ⟨b, h⟩ := Emit.each_puts (l := List.finRange 24) (f := exitAdopt old)
    (put := fun s (b : Table ExitRec 24 × Bool) => { s with
      exits := { s.exits with exits := b.1 }, engine := { s.engine with changePending := b.2 } })
    (fun s => ⟨(s.exits.exits, s.engine.changePending), rfl⟩) (fun _ _ c => ⟨c, rfl⟩)
    (fun e s => by obtain ⟨x, p, h⟩ := exitAdopt_frame old e s; exact ⟨(_, p), h⟩) s
  exact ⟨_, _, h⟩

theorem adoptHeads_frame (old : Layout) (s : State) :
    ∃ h, (adoptHeads old s).1 = { s with signLine := { s.signLine with heads := h } } :=
  Emit.each_puts (put := fun s h => { s with signLine := { s.signLine with heads := h } }) (fun s => ⟨s.signLine.heads, rfl⟩)
    (fun _ _ c => ⟨c, rfl⟩) (fun _ _ => ⟨_, rfl⟩) s

theorem State.adoptGrace_frame (s : State) : ∃ g, s.adoptGrace = s.setGrace g := by
  unfold State.adoptGrace
  split
  · split
    · exact ⟨_, rfl⟩
    · exact ⟨s.exits.grace, rfl⟩
  · exact ⟨s.exits.grace, rfl⟩
  · exact ⟨s.exits.grace, rfl⟩

/-- What a new ACTIVE changes in the blocks, the Aspect Unit, the banks and the store apart (R19 to R21). -/
theorem adopt_frame (old : Layout) (s : State) : ∃ b z x p n c k f m h, (adopt old s).1 = { s with
    beams := b, zones := z, engine := { s.engine with changePending := p }
    exits := { s.exits with exits := x, lines := n, grace := c }
    boundary := { s.boundary with passages := k, waiting := none, owed := false }
    alarm := { s.alarm with link := linkOf s.active.params.healthRule s.alarm.lineA.state s.alarm.lineB.state }
    port := { s.port with flags := f, snapshot := m }
    signLine := h } := by
  have link (s : State) : ∃ f n l, (deriveLink s).1 = { s with
      alarm := { s.alarm with link := linkOf s.active.params.healthRule s.alarm.lineA.state s.alarm.lineB.state }
      port := { s.port with flags := f, snapshot := n }
      exits := { s.exits with lines := l } } := by
    unfold deriveLink
    dsimp only
    split
    · rename_i same
      exact ⟨s.port.flags, s.port.snapshot, s.exits.lines, by rw [same]⟩
    · split
      · exact ⟨_, _, _, rfl⟩
      · exact ⟨_, _, _, rfl⟩
  obtain ⟨b, hb⟩ := adoptBeams_frame old s
  obtain ⟨z, p, hz⟩ := adoptZones_frame (adoptBeams old s).1
  obtain ⟨k, hk⟩ := adoptPassages_frame old (adoptZones (adoptBeams old s).1).1
  obtain ⟨f, m, n, hl⟩ := link (adoptPassages old (adoptZones (adoptBeams old s).1).1).1
  obtain ⟨c, hc⟩ := (deriveLink (adoptPassages old (adoptZones (adoptBeams old s).1).1).1).1.adoptLines.adoptGrace_frame
  obtain ⟨x, q, hx⟩ := adoptExits_frame old
    (deriveLink (adoptPassages old (adoptZones (adoptBeams old s).1).1).1).1.adoptLines.adoptGrace
  obtain ⟨h, hh⟩ := adoptHeads_frame old (adoptExits old
    (deriveLink (adoptPassages old (adoptZones (adoptBeams old s).1).1).1).1.adoptLines.adoptGrace).1
  unfold adopt
  dsimp only
  rw [hh, hx, hc, hl, hk, hz, hb]
  exact ⟨_, _, _, _, _, _, _, _, _, _, rfl⟩

theorem adoptBeams_timely (old : Layout) : Timely (adoptBeams old) := Timely.each (beamAdopt_timely old) _
theorem adoptZones_timely : Timely adoptZones := Timely.each zoneAdopt_timely _
theorem adoptPassages_timely (old : Layout) : Timely (adoptPassages old) := Timely.each (passageAdopt_timely old) _
theorem adoptExits_timely (old : Layout) : Timely (adoptExits old) := Timely.each (exitAdopt_timely old) _
theorem adoptHeads_timely (old : Layout) : Timely (adoptHeads old) := Timely.each (headAdopt_timely old) _

theorem State.adoptGrace_port (s : State) : s.adoptGrace.port = s.port := by
  obtain ⟨_, h⟩ := s.adoptGrace_frame
  rw [h]; rfl

/-- The result of a part, under a name. -/
theorem Timely.of_eq {f : Emit} (h : Timely f) {s : State} {r : State × List Notice} (e : f s = r) :
    Posted s.port r.1.port ∧ ∀ n ∈ r.2, n.time = s.port.clock := by
  rw [← e]
  exact h s

/-- An adoption, part by part: channels, zones, passages, link, exits and heads, each from the state the one before it left. -/
theorem adopt_parts (old : Layout) (s : State) : ∃ b z p k x h,
    adoptBeams old s = b ∧ adoptZones b.1 = z ∧ adoptPassages old z.1 = p ∧ deriveLink p.1 = k
    ∧ adoptExits old k.1.adoptLines.adoptGrace = x ∧ adoptHeads old x.1 = h
    ∧ adopt old s = (h.1.adoptTrunks.dropAdvert, [z.2, b.2, x.2, h.2, p.2, k.2]) :=
  ⟨_, _, _, _, _, _, rfl, rfl, rfl, rfl, rfl, rfl, rfl⟩

/-- Every notice of an adoption carries the event's time, and only a lost link sets a flag. -/
theorem adopt_timely (old : Layout) (s : State) :
    Posted s.port (adopt old s).1.port ∧ ∀ n ∈ (adopt old s).2.flatten, n.time = s.port.clock := by
  obtain ⟨b, z, p, k, x, h, hb, hz, hp, hk, hx, hh, eq⟩ := adopt_parts old s
  rw [eq]
  obtain ⟨b1, b2⟩ := (adoptBeams_timely old).of_eq hb
  obtain ⟨z1, z2⟩ := adoptZones_timely.of_eq hz
  obtain ⟨p1, p2⟩ := (adoptPassages_timely old).of_eq hp
  obtain ⟨k1, k2⟩ := deriveLink_timely.of_eq hk
  obtain ⟨x1, x2⟩ := (adoptExits_timely old).of_eq hx
  obtain ⟨h1, h2⟩ := (adoptHeads_timely old).of_eq hh
  rw [State.adoptGrace_port, State.adoptLines_port] at x1 x2
  have toZones := b1.trans z1
  have toPassages := toZones.trans p1
  have toLink := toPassages.trans k1
  have toExits := toLink.trans x1
  refine ⟨toExits.trans h1, fun n hn => ?_⟩
  simp only [List.flatten_cons, List.flatten_nil, List.append_nil, List.mem_append] at hn
  rcases hn with hn | hn | hn | hn | hn | hn
  · rw [z2 n hn, b1.clock]
  · exact b2 n hn
  · rw [x2 n hn, toLink.clock]
  · rw [h2 n hn, toExits.clock]
  · rw [p2 n hn, toZones.clock]
  · rw [k2 n hn, toPassages.clock]

end Machine
end Sys2Proof
end

/-!
The footprint of every command, part 2: the fields each command can change, and how it moves the port.
-/
section
namespace Sys2Proof
namespace Machine

/-! ## The footprints -/

/-- The groups of fields that commands change together. -/
inductive Reach where
  /-- The port: its transfers, its clock, and the requests that read. -/
  | port
  /-- The banks, with the port: WRITE_LAYOUT, STAGE_FROM_ACTIVE, CALIBRATE_BEAM. -/
  | banks
  /-- A channel or a zone, with the exits: BEAM_SAMPLE, ZONE_REPORT, SET_ZONE_LEVEL. -/
  | zones
  /-- The exits and their lines. -/
  | exits
  /-- The store. -/
  | store
  /-- The engine alone. -/
  | engine
  /-- HANDOVER. -/
  | field
  /-- The trunks, the heads and the change queue. -/
  | signLine
  /-- The boundary link, with the exits. -/
  | boundary
  /-- The alarm lines, the intake and the link. -/
  | alarm
  /-- HALL_MODE. -/
  | mode
  /-- Every block: COLD_RESET, LOAD_EVENT, COMMIT_LAYOUT, REINIT. -/
  | whole

/-- The port of an event, or of a request answered at its end (R180). -/
inductive PortMove (p : Port) : Port → Prop where
  | event {q : Port} (h : Posted p q) : PortMove p q
  | answer {q : Port} (taking : p.state = .taking) (h : Posted p q) (r : Response) : PortMove p (q.hold r)

theorem PortMove.refl (p : Port) : PortMove p p := .event .refl

/-- From `s` to `t` a command of a group changes no field outside it; of the engine, the exits and the alarm interface the fields are
named. -/
def Reach.Allows : Reach → State → State → Prop
  | .port, s, t => ∃ p, t = { s with port := p }
  | .banks, s, t => ∃ a p, PortMove s.port p ∧ t = { s with layout := a, port := p }
  | .zones, s, t => ∃ z b x l c i h q p, PortMove s.port p ∧ t = { s with
      zones := z, beams := b, exits := { s.exits with exits := x, lines := l }
      engine := { s.engine with changePending := c }
      alarm := { s.alarm with intake := i, handler := h, lastSeq := q }, port := p }
  | .exits, s, t => ∃ x c p, PortMove s.port p ∧ t = { s with
      exits := x, engine := { s.engine with changePending := c }, port := p }
  | .store, s, t => ∃ m p, PortMove s.port p ∧ t = { s with store := m, port := p }
  | .engine, s, t => ∃ g, t = { s with engine := g }
  | .field, s, t => ∃ g a k b l p, PortMove s.port p ∧ t = { s with
      engine := g, aspect := a, signLine := k, boundary := b, exits := { s.exits with lines := l }, port := p }
  | .signLine, s, t => ∃ k p, PortMove s.port p ∧ t = { s with signLine := k, port := p }
  | .boundary, s, t => ∃ b x l c p, PortMove s.port p ∧ t = { s with
      boundary := b, exits := { s.exits with exits := x, lines := l }
      engine := { s.engine with changePending := c }, port := p }
  | .alarm, s, t => ∃ a b i h k l p, PortMove s.port p ∧ t = { s with
      alarm := { s.alarm with lineA := a, lineB := b, intake := i, handler := h, link := k }
      exits := { s.exits with lines := l }, port := p }
  | .mode, s, t => ∃ m i h q x l r c g k p, PortMove s.port p ∧ t = { s with
      alarm := { s.alarm with mode := m, intake := i, handler := h, lastSeq := q }
      exits := { s.exits with exits := x, lines := l, grace := r }, engine := { s.engine with changePending := c }
      aspect := { s.aspect with signs := g }, signLine := k, port := p }
  | .whole, s, t => t.pending = s.pending

/-- The group of each command. -/
def reach : Instr → Reach
  | .coldReset | .loadEvent | .commitLayout | .reinit => .whole
  | .hallClockTick | .clockWrap | .transferFirstClock | .lostTransfer | .firstByte _ | .requestEnd _ => .port
  | .consoleGapLimit | .fetchEnd | .readStatus | .fetchNotices | .readRoute | .readExits | .readZones => .port
  | .readSigns | .readLines | .readLayout => .port
  | .writeLayout | .stageFromActive | .calibrateBeam => .banks
  | .setZoneLevel | .beamSample _ _ | .zoneReport => .zones
  | .setExitClosure | .discretePinChange _ _ | .debounceExpiry _ | .doorGraceExpiry => .exits
  | .storeLayout | .eraseComplete | .writeComplete _ | .verifyComplete => .store
  | .runStart | .refreshIntervalExpiry | .snapshotComplete | .pass1Complete | .loadComplete => .engine
  | .pass2Complete | .nexthopComplete => .engine
  | .handover => .field
  | .trunkFrameEnd _ | .replyComplete _ _ | .replyWindowExpiry _ _ | .trunkOvercurrent _ | .holdOffExpiry _ => .signLine
  | .trunkRestored _ | .trunkRecheckOvercurrent _ => .signLine
  | .busFree _ | .lostArbitration | .advertSent | .advertReceived _ | .advertIntervalExpiry => .boundary
  | .passageAgeExpiry _ | .duplicateWatchExpiry => .boundary
  | .alarmFrameEnd _ _ | .alarmGapLimit _ | .supervisionExpiry _ | .supervise | .statusRequest => .alarm
  | .egressStatusSent _ | .alarmStartByte _ => .alarm
  | .hallMode => .mode

/-! ## Commands that change nothing -/

/-- A command may always leave the state as it is. -/
theorem Reach.allows_refl (k : Reach) (s : State) : k.Allows s s := by
  have p := PortMove.refl s.port
  cases k with
  | port => exact ⟨_, rfl⟩
  | banks => exact ⟨_, _, p, rfl⟩
  | zones => exact ⟨_, _, _, _, _, _, _, _, _, p, rfl⟩
  | exits => exact ⟨_, _, _, p, rfl⟩
  | store => exact ⟨_, _, p, rfl⟩
  | engine => exact ⟨_, rfl⟩
  | field => exact ⟨_, _, _, _, _, _, p, rfl⟩
  | signLine => exact ⟨_, _, p, rfl⟩
  | boundary => exact ⟨_, _, _, _, _, p, rfl⟩
  | alarm => exact ⟨_, _, _, _, _, _, _, p, rfl⟩
  | mode => exact ⟨_, _, _, _, _, _, _, _, _, _, _, p, rfl⟩
  | whole => exact (rfl : s.pending = s.pending)

/-- A request of any block may be answered with nothing else changed (R180). -/
theorem Reach.allows_respond {k : Reach} (hk : k ≠ .engine) {s : State} (taking : s.port.state = .taking) (st : Status)
    (b : List Byte) : k.Allows s (s.respond st b) := by
  have p : PortMove s.port (s.respond st b).port := .answer taking .refl _
  cases k with
  | port => exact ⟨_, rfl⟩
  | banks => exact ⟨_, _, p, rfl⟩
  | zones => exact ⟨_, _, _, _, _, _, _, _, _, p, rfl⟩
  | exits => exact ⟨_, _, _, p, rfl⟩
  | store => exact ⟨_, _, p, rfl⟩
  | engine => exact absurd rfl hk
  | field => exact ⟨_, _, _, _, _, _, p, rfl⟩
  | signLine => exact ⟨_, _, p, rfl⟩
  | boundary => exact ⟨_, _, _, _, _, p, rfl⟩
  | alarm => exact ⟨_, _, _, _, _, _, _, p, rfl⟩
  | mode => exact ⟨_, _, _, _, _, _, _, _, _, _, _, p, rfl⟩
  | whole => exact (rfl : s.pending = s.pending)

/-- A completion does what its act does, or only answers. -/
theorem State.serve_allows {k : Reach} (hk : k ≠ .engine) {s : State} {code : Byte} {ok : List Byte → Bool} {bad : List Byte}
    {act : List Byte → State} (h : ∀ body, s.port.state = .taking → k.Allows s (act body)) :
    k.Allows s (s.serve code ok bad act) :=
  State.serve_keeps (P := k.Allows s) (k.allows_refl s) (fun ht st b => Reach.allows_respond hk ht st b)
    fun body ht _ => h body ht

/-- A completion that does nothing but answer reaches the port alone. -/
theorem State.serve_reads {s : State} {code : Byte} {ok : List Byte → Bool} {bad : List Byte}
    {act : List Byte → State} (h : ∀ body, ∃ p, act body = { s with port := p }) :
    Reach.port.Allows s (s.serve code ok bad act) :=
  State.serve_allows (by nofun) fun body _ => h body

/-- A whole event changes what its part changes, and the port. -/
theorem Emit.run_of_eq {f : Emit} {s t : State} (h : (f s).1 = t) : f.run s = { t with port := (f.run s).port } := by
  subst h
  rfl

/-! ## Reads and transfers -/

theorem execFetchNotices_reach (s : State) : After (execFetchNotices s) (Reach.port.Allows s) :=
  .of_next <| State.serve_reads fun _ => by
    dsimp only
    split
    · exact ⟨_, rfl⟩
    · exact ⟨_, rfl⟩

/-- A read of a range answers its records or RANGE. -/
theorem ite_respond_reads (s : State) (c : Prop) [Decidable c] (st st' : Status) (b b' : List Byte) :
    ∃ p, (if c then s.respond st b else s.respond st' b') = { s with port := p } := by
  split
  · exact ⟨_, rfl⟩
  · exact ⟨_, rfl⟩

theorem execReadLayout_reach (s : State) : After (execReadLayout s) (Reach.port.Allows s) :=
  .of_next <| State.serve_reads fun _ => by
    split
    · exact ⟨_, rfl⟩
    · exact ⟨_, rfl⟩

theorem execFirstByte_reach (b : Byte) (s : State) : After (execFirstByte b s) (Reach.port.Allows s) := by
  refine .of_next ?_
  split
  · split
    · exact ⟨_, rfl⟩
    · exact ⟨_, rfl⟩
  · exact ⟨_, rfl⟩

theorem execRequestEnd_reach (bytes : List Byte) (s : State) : After (execRequestEnd bytes s) (Reach.port.Allows s) := by
  refine .of_next ?_
  split
  · dsimp only
    split
    · exact ⟨_, rfl⟩
    · exact ⟨_, rfl⟩
  · exact ⟨_, rfl⟩

theorem execConsoleGapLimit_reach (s : State) : After (execConsoleGapLimit s) (Reach.port.Allows s) := by
  refine .of_next ?_
  split
  · exact ⟨_, rfl⟩
  · split
    · exact ⟨_, rfl⟩
    · split
      · exact ⟨_, rfl⟩
      · exact ⟨_, rfl⟩
      · exact ⟨_, rfl⟩
      · exact ⟨_, rfl⟩
      · exact ⟨_, rfl⟩

/-! ## Banks and store -/

theorem execWriteLayout_reach (s : State) : After (execWriteLayout s) (Reach.banks.Allows s) :=
  .of_next <| State.serve_allows (by nofun) fun _ taking => by
    split
    · exact Reach.allows_respond (by nofun) taking _ _
    · split
      · exact Reach.allows_respond (by nofun) taking _ _
      · exact ⟨_, _, .answer taking .refl _, rfl⟩

theorem execStageFromActive_reach (s : State) : After (execStageFromActive s) (Reach.banks.Allows s) :=
  .of_next <| State.serve_allows (by nofun) fun _ taking => ⟨_, _, .answer taking .refl _, rfl⟩

theorem execCalibrateBeam_reach (s : State) : After (execCalibrateBeam s) (Reach.banks.Allows s) :=
  .of_next <| State.serve_allows (by nofun) fun body taking => by
    have answer st b := Reach.allows_respond (k := .banks) (by nofun) taking st b
    split
    · dsimp only
      split
      · exact answer _ _
      · split
        · exact answer _ _
        · split
          · exact answer _ _
          · split
            · exact answer _ _
            · split
              · exact answer _ _
              · exact ⟨_, _, .answer taking .refl _, rfl⟩
    · exact answer _ _

theorem execStoreLayout_reach (s : State) : After (execStoreLayout s) (Reach.store.Allows s) :=
  .of_next <| State.serve_allows (by nofun) fun _ taking => by
    have answer st b := Reach.allows_respond (k := .store) (by nofun) taking st b
    split
    · exact answer _ _
    · split
      · exact answer _ _
      · split
        · exact answer _ _
        · exact ⟨_, _, .answer taking .refl _, rfl⟩

theorem execWriteComplete_reach (r : WriteResult) (s : State) : After (execWriteComplete r s) (Reach.store.Allows s) := by
  refine .of_next ?_
  split
  · exact ⟨_, _, .refl _, rfl⟩
  · exact Reach.allows_refl ..

theorem execVerifyComplete_reach (s : State) : After (execVerifyComplete s) (Reach.store.Allows s) := by
  refine .of_next ?_
  split
  · split
    · exact ⟨_, _, .event (.post _ .refl rfl), rfl⟩
    · exact ⟨_, _, .event (.post _ (.flag _ .refl) rfl), rfl⟩
  · exact Reach.allows_refl ..

/-! ## Zones and exits -/

/-- A zone's event, whole: its record, the exits and lines that follow, change pending and the port (R61). -/
theorem zoneEvent_reach (z : ZoneIdx) (r : ZoneRec) (s : State) :
    ∃ x l c y, (zoneEvent z r).run s = { s with
      zones := s.zones.set z y, exits := { s.exits with exits := x, lines := l }
      engine := { s.engine with changePending := c }, port := ((zoneEvent z r).run s).port } := by
  obtain ⟨y, x, l, c, h⟩ := zoneEvent_frame z r s
  exact ⟨x, l, c, y, (Emit.run_of_eq h :)⟩

theorem execSetZoneLevel_reach (s : State) : After (execSetZoneLevel s) (Reach.zones.Allows s) :=
  .of_next <| State.serve_allows (by nofun) fun body taking => by
    have answer st b := Reach.allows_respond (k := .zones) (by nofun) taking st b
    split
    · split
      · dsimp only
        split
        · exact answer _ _
        · generalize (⟨arg body 0, _⟩ : ZoneIdx) = z
          generalize (⟨arg body 1, _⟩ : Level) = l
          obtain ⟨x, n, c, y, h⟩ := zoneEvent_reach z { s.zones.get z with consoleLevel := l } s
          refine ⟨_, _, _, _, _, _, _, _, _, .answer taking ((zoneEvent_timely z _).run s) _,
            congrArg (fun u : State => u.respond .ok _) h⟩
      · exact answer _ _
    · exact answer _ _

theorem execBeamSample_reach (ch : BeamIdx) (reading : Fin 4096) (s : State) :
    After (execBeamSample ch reading s) (Reach.zones.Allows s) := by
  refine .of_next ?_
  split
  · exact Reach.allows_refl ..
  · obtain ⟨z, x, l, c, h⟩ := beamEvent_frame ch (s.sampleBeam ch reading.val) s
    exact ⟨_, _, _, _, _, _, _, _, _,
      .event ((beamEvent_timely ch _).run s), (Emit.run_of_eq h :)⟩

theorem execZoneReport_reach (s : State) : After (execZoneReport s) (Reach.zones.Allows s) := by
  refine .of_next ?_
  split
  · rename_i seq z st _
    split
    · exact ⟨_, _, _, _, _, _, _, _, _, .refl _, rfl⟩
    · obtain ⟨x, l, c, y, h⟩ := zoneEvent_reach z
        { s.zones.get z with panelState := st, panelLevel := s.panelLevel (s.zones.get z).panelLevel st } (s.accept seq)
      exact ⟨_, _, _, _, _, _, _, _, _, .event ((zoneEvent_timely z _).run (s.accept seq)), congrArg State.dropFrame h⟩
  · exact Reach.allows_refl ..

theorem execSetExitClosure_reach (s : State) : After (execSetExitClosure s) (Reach.exits.Allows s) :=
  .of_next <| State.serve_allows (by nofun) fun body taking => by
    have answer st b := Reach.allows_respond (k := .exits) (by nofun) taking st b
    split
    · dsimp only
      split
      · split
        · exact answer _ _
        · generalize (⟨arg body 0, _⟩ : ExitIdx) = e
          generalize decide (arg body 1 = 1) = closed
          obtain ⟨x, l, c, h⟩ := setReasons_frame e { (s.exits.exits.get e).reasons with console := closed } s
          exact ⟨_, _, _, .answer taking ((setReasons_timely e _).run s) _,
            congrArg (fun u : State => u.respond .ok _) (Emit.run_of_eq h)⟩
      · exact answer _ _
    · exact answer _ _

theorem execDebounceExpiry_reach (l : LineIdx) (s : State) : After (execDebounceExpiry l s) (Reach.exits.Allows s) := by
  refine .of_next ?_
  split
  · split
    · obtain ⟨x, n, c, h⟩ := deriveDoorsOf_frame l (s.setLineRec l (.input (s.exits.pins.get l) none))
      exact ⟨_, _, _, .event (((Timely.each deriveDoor_timely _).run
        (s.setLineRec l (.input (s.exits.pins.get l) none)))), (Emit.run_of_eq h :)⟩
    · exact Reach.allows_refl ..
  · exact Reach.allows_refl ..
  · exact Reach.allows_refl ..

theorem execDoorGraceExpiry_reach (s : State) : After (execDoorGraceExpiry s) (Reach.exits.Allows s) := by
  refine .of_next ?_
  split
  · split
    · obtain ⟨x, n, c, h⟩ := enterElapsed_frame s
      exact ⟨_, _, _, .event (enterElapsed_timely.run s), (Emit.run_of_eq h :)⟩
    · exact Reach.allows_refl ..
  · exact Reach.allows_refl ..
  · exact Reach.allows_refl ..

/-! ## The engine and the field -/

theorem State.advanceRun_reach (s : State) (phase : Phase) (work : Layout → Run → Run) :
    Reach.engine.Allows s (s.advanceRun phase work) := by
  unfold State.advanceRun
  split
  · exact Reach.allows_refl ..
  · split
    · exact ⟨_, rfl⟩
    · exact Reach.allows_refl ..

theorem execRefreshIntervalExpiry_reach (s : State) : After (execRefreshIntervalExpiry s) (Reach.engine.Allows s) := by
  refine .of_next ?_
  split
  · split
    · exact ⟨_, rfl⟩
    · exact ⟨_, rfl⟩
  · exact Reach.allows_refl ..

theorem State.nextRun_frame (s : State) : ∃ g, s.nextRun = s.setEngine g := by
  unfold State.nextRun
  split
  · exact ⟨_, rfl⟩
  · exact ⟨_, rfl⟩

/-- The adoption of a field: the Aspect Unit, the change queue, the lines and the boundary link (R102). -/
theorem adoptField_frame (p : Published) (s : State) : ∃ signs set q l b, (adoptField p s).1 = { s with
    aspect := { published := some p, lastGeneration := p.field.generation, signs := signs, egressSet := set }
    signLine := { s.signLine with queue := q }, exits := { s.exits with lines := l }, boundary := b } := by
  obtain ⟨signs, q, hs⟩ := ({ s with aspect := { s.aspect with published := some p, lastGeneration := p.field.generation } }
    : State).evalSigns_frame p
  obtain ⟨set, l, he⟩ := formEgress_frame p (({ s with aspect := { s.aspect with
    published := some p, lastGeneration := p.field.generation } } : State).evalSigns p)
  obtain ⟨b, hb⟩ := ((formEgress p (({ s with aspect := { s.aspect with
    published := some p, lastGeneration := p.field.generation } } : State).evalSigns p)).1.drive OutputSource.isInUse).takeField_frame p
  conv at hb => rhs; rw [he, hs]
  exact ⟨signs, set, q, _, b, hb⟩

theorem execHandover_reach (s : State) : After (execHandover s) (Reach.field.Allows s) := by
  refine .of_next ?_
  split
  · exact Reach.allows_refl ..
  · split
    · dsimp only
      generalize s.handedOver _ = p
      obtain ⟨hp, hn⟩ := adoptField_timely p (s.setEngine { s.engine with generation := s.engine.generation + 1 })
      obtain ⟨_, _, _, _, _, hf⟩ := adoptField_frame p (s.setEngine { s.engine with generation := s.engine.generation + 1 })
      obtain ⟨g, hg⟩ := (adoptField p (s.setEngine { s.engine with generation := s.engine.generation + 1 })).1.nextRun_frame
      obtain ⟨_, _, hk⟩ := (adoptField p
        (s.setEngine { s.engine with generation := s.engine.generation + 1 })).1.nextRun.kickAll_frame
      rw [hk, hg, hf]
      exact ⟨_, _, _, _, _, _, .event (Posted.refl.postAll _ hn), rfl⟩
    · exact Reach.allows_refl ..

/-! ## The sign line -/

theorem endExchange_reach (t : TrunkIdx) (x : Exchange) (o : ReplyOutcome) (s : State) :
    Reach.signLine.Allows s ((endExchange t x o).run s) := by
  obtain ⟨l, h⟩ := endExchange_frame t x o s
  exact ⟨_, _, .event ((endExchange_timely t x o).run s), (Emit.run_of_eq h :)⟩

theorem execReplyComplete_reach (t : TrunkIdx) (bytes : List TrunkByte) (s : State) :
    After (execReplyComplete t bytes s) (Reach.signLine.Allows s) := by
  refine .of_next ?_
  split
  · exact Reach.allows_refl ..
  · split
    · exact endExchange_reach ..
    · exact Reach.allows_refl ..

theorem execReplyWindowExpiry_reach (t : TrunkIdx) (anyByte : Bool) (s : State) :
    After (execReplyWindowExpiry t anyByte s) (Reach.signLine.Allows s) := by
  refine .of_next ?_
  split
  · exact Reach.allows_refl ..
  · exact endExchange_reach ..

theorem execTrunkRestored_reach (t : TrunkIdx) (s : State) : After (execTrunkRestored t s) (Reach.signLine.Allows s) := by
  refine .of_next ?_
  split
  · dsimp only
    obtain ⟨_, _, h⟩ := (s.setTrunk t { s.trunk t with state := .inService, holdOff := none }).kick_frame t
    rw [h]
    exact ⟨_, _, .event (.post _ .refl rfl), rfl⟩
  · exact Reach.allows_refl ..

/-! ## The boundary link -/

theorem execBusFree_reach (cutOff : Bool) (s : State) : After (execBusFree cutOff s) (Reach.boundary.Allows s) := by
  refine .of_next ?_
  split
  · exact Reach.allows_refl ..
  · split
    · exact ⟨_, _, _, _, _, .refl _, rfl⟩
    · exact ⟨_, _, _, _, _, .refl _, rfl⟩

theorem execAdvertReceived_reach (bits : List Bool) (s : State) :
    After (execAdvertReceived bits s) (Reach.boundary.Allows s) := by
  refine .of_next ?_
  split
  · exact Reach.allows_refl ..
  · split
    · exact ⟨_, _, _, _, _, .refl _, rfl⟩
    · rename_i a _
      obtain ⟨b, x, l, c, h⟩ := takeAdvert_frame a s
      exact ⟨_, _, _, _, _, .event ((takeAdvert_timely a).run s), (Emit.run_of_eq h :)⟩

theorem execAdvertIntervalExpiry_reach (s : State) : After (execAdvertIntervalExpiry s) (Reach.boundary.Allows s) := by
  refine .of_next ?_
  split
  · exact Reach.allows_refl ..
  · split
    · exact ⟨_, _, _, _, _, .refl _, rfl⟩
    · exact Reach.allows_refl ..

theorem execPassageAgeExpiry_reach (p : PassageIdx) (s : State) :
    After (execPassageAgeExpiry p s) (Reach.boundary.Allows s) := by
  refine .of_next ?_
  split
  · obtain ⟨x, l, c, h⟩ := goStale_frame p s
    exact ⟨_, _, _, _, _, .event ((goStale_timely p).run s), (Emit.run_of_eq h :)⟩
  · exact Reach.allows_refl ..

theorem execDuplicateWatchExpiry_reach (s : State) : After (execDuplicateWatchExpiry s) (Reach.boundary.Allows s) := by
  refine .of_next ?_
  split
  · exact Reach.allows_refl ..
  · split
    · exact ⟨_, _, _, _, _, .refl _, rfl⟩
    · exact Reach.allows_refl ..

/-! ## The alarm lines -/

/-- From `s` to `t` the alarm lines, the intake and the link move, and with them lines, flags and notices. -/
def AlarmMove (s t : State) : Prop := ∃ a b i h k l p, t = { s with
  alarm := { s.alarm with lineA := a, lineB := b, intake := i, handler := h, link := k }
  exits := { s.exits with lines := l }, port := p }

theorem AlarmMove.trans {s t u : State} (h : AlarmMove s t) (k : AlarmMove t u) : AlarmMove s u := by
  obtain ⟨_, _, _, _, _, _, _, rfl⟩ := h
  obtain ⟨_, _, _, _, _, _, _, rfl⟩ := k
  exact ⟨_, _, _, _, _, _, _, rfl⟩

theorem AlarmMove.allows {s t : State} (h : AlarmMove s t) (port : PortMove s.port t.port) : Reach.alarm.Allows s t := by
  obtain ⟨_, _, _, _, _, _, _, rfl⟩ := h
  exact ⟨_, _, _, _, _, _, _, port, rfl⟩

/-- A whole event of the alarm lines. -/
theorem AlarmMove.run {f : Emit} {s : State} (h : AlarmMove s (f s).1) (timely : Timely f) :
    Reach.alarm.Allows s (f.run s) := by
  refine AlarmMove.allows (h.trans ⟨_, _, _, _, _, _, _, Emit.run_of_eq rfl⟩) (.event (timely.run s))

theorem State.setLine_alarmMove (s : State) (l : AlarmLine) (r : AlarmLineRec) : AlarmMove s (s.setLine l r) := by
  cases l
  · exact ⟨_, _, _, _, _, _, _, rfl⟩
  · exact ⟨_, _, _, _, _, _, _, rfl⟩

theorem State.setLine_reach (s : State) (l : AlarmLine) (r : AlarmLineRec) : Reach.alarm.Allows s (s.setLine l r) :=
  (s.setLine_alarmMove l r).allows (.refl _)

theorem deriveLink_alarmMove (s : State) : AlarmMove s (deriveLink s).1 := by
  obtain ⟨_, _, _, _, h⟩ := deriveLink_frame s
  exact ⟨_, _, _, _, _, _, _, h⟩

theorem hearLine_alarmMove (l : AlarmLine) (s : State) : AlarmMove s (hearLine l s).1 := by
  unfold hearLine
  dsimp only
  split
  · exact State.setLine_alarmMove ..
  · exact (State.setLine_alarmMove ..).trans (deriveLink_alarmMove _)

theorem loseLine_alarmMove (l : AlarmLine) (s : State) : AlarmMove s (loseLine l s).1 := by
  unfold loseLine
  dsimp only
  split
  · exact State.setLine_alarmMove ..
  · exact (State.setLine_alarmMove ..).trans (deriveLink_alarmMove _)

/-- A frame offered to the intake joins it or is counted (R168). -/
theorem State.offerFrame_alarmMove (s : State) (f : IntakeFrame) : AlarmMove s (s.offerFrame f) := by
  unfold State.offerFrame
  dsimp only
  split
  · exact ⟨_, _, _, _, _, _, _, rfl⟩
  · exact State.setLine_alarmMove ..

theorem takeGood_alarmMove (l : AlarmLine) (seq : Byte) (body : FrameBody) (s : State) :
    AlarmMove s (takeGood l seq body s).1 :=
  (hearLine_alarmMove l s).trans (State.offerFrame_alarmMove ..)

theorem execAlarmFrameEnd_reach (l : AlarmLine) (bytes : List AlarmByte) (s : State) :
    After (execAlarmFrameEnd l bytes s) (Reach.alarm.Allows s) := by
  refine .of_next ?_
  dsimp only
  split
  · split
    · exact Reach.allows_refl ..
    · exact State.setLine_reach ..
    · exact (takeGood_alarmMove l _ _ s).run (takeGood_timely l _ _)
  · exact Reach.allows_refl ..

theorem execSupervisionExpiry_reach (l : AlarmLine) (s : State) :
    After (execSupervisionExpiry l s) (Reach.alarm.Allows s) := by
  refine .of_next ?_
  split
  · exact (loseLine_alarmMove l s).run (loseLine_timely l)
  · exact Reach.allows_refl ..

theorem State.request_reach (s : State) (l : AlarmLine) (seq : Byte) : Reach.alarm.Allows s (s.request l seq) := by
  unfold State.request
  dsimp only
  split
  · exact State.setLine_reach ..
  · exact State.setLine_reach ..

/-- A frame that leaves the intake keeps the hall mode. -/
theorem Reach.alarm_dropFrame {s t : State} (h : Reach.alarm.Allows s t) : Reach.alarm.Allows s t.dropFrame := by
  obtain ⟨_, _, _, _, _, _, _, hp, rfl⟩ := h
  exact ⟨_, _, _, _, _, _, _, hp, rfl⟩

theorem execStatusRequest_reach (s : State) : After (execStatusRequest s) (Reach.alarm.Allows s) := by
  refine .of_next ?_
  split
  · exact Reach.alarm_dropFrame (State.request_reach ..)
  · exact Reach.allows_refl ..

theorem execSupervise_reach (s : State) : After (execSupervise s) (Reach.alarm.Allows s) := by
  refine .of_next ?_
  split
  · exact Reach.alarm_dropFrame (Reach.allows_refl ..)
  · exact Reach.allows_refl ..

theorem execEgressStatusSent_reach (l : AlarmLine) (s : State) :
    After (execEgressStatusSent l s) (Reach.alarm.Allows s) := by
  refine .of_next ?_
  dsimp only
  split
  · exact Reach.allows_refl ..
  · exact State.setLine_reach ..
  · exact State.setLine_reach ..

/-! ## The hall mode -/

/-- A change of hall mode: the mode, the grace with the exits and lines, the signs and the change queue (R171). -/
theorem changeMode_frame (m : HallMode) (s : State) : ∃ g x l c q, (changeMode m s).1 = { s with
    alarm := { s.alarm with mode := m }
    exits := { s.exits with exits := x, lines := l, grace := g }
    engine := { s.engine with changePending := c }
    aspect := { s.aspect with signs := Table.ofFn fun i => (s.aspect.signs.get i).recode m }
    signLine := { s.signLine with queue := q } } := by
  obtain ⟨g, x, l, c, h⟩ := moveGrace_frame m (s.setMode m)
  obtain ⟨q, hq⟩ := ((moveGrace m (s.setMode m)).1.drive fun src => src = .hallEvacuate).recodeSigns_frame m
  conv at hq => rhs; rw [h]
  exact ⟨g, x, _, c, q, hq⟩

theorem execHallMode_reach (s : State) : After (execHallMode s) (Reach.mode.Allows s) := by
  refine .of_next ?_
  split
  · rename_i seq mode _
    split
    · exact ⟨_, _, _, _, _, _, _, _, _, _, _, .refl _, rfl⟩
    · split
      · exact ⟨_, _, _, _, _, _, _, _, _, _, _, .refl _, rfl⟩
      · obtain ⟨g, x, l, c, q, h⟩ := changeMode_frame mode (s.accept seq)
        obtain ⟨_, _, hk⟩ := ((changeMode mode).run (s.accept seq)).kickAll_frame
        have port := (changeMode_timely mode).run (s.accept seq)
        rw [hk, Emit.run_of_eq h]
        exact ⟨_, _, _, _, _, _, _, _, _, _, _, .event port, rfl⟩
  · exact Reach.allows_refl ..

/-! ## Every command -/

theorem State.commit_pending (s : State) : s.commit.pending = s.pending := by
  unfold State.commit
  dsimp only
  obtain ⟨_, _, _, _, _, _, _, _, _, _, h⟩ := adopt_frame s.active
    ((s.setActive s.layout.staging).restartEngine.adoptSigns s.active)
  obtain ⟨_, _, hk⟩ := (({ (adopt s.active ((s.setActive s.layout.staging).restartEngine.adoptSigns s.active)).1 with
    freeCount := (adopt s.active ((s.setActive s.layout.staging).restartEngine.adoptSigns s.active)).1.freeCount
      + (adopt s.active ((s.setActive s.layout.staging).restartEngine.adoptSigns s.active)).2.flatten.length } : State).drive
      fun _ => true).kickAll_frame
  rw [hk, h]
  rfl

theorem State.restart_pending (s : State) : s.restart.pending = s.pending := by
  unfold State.restart
  dsimp only
  obtain ⟨_, _, _, _, _, _, _, _, _, _, h⟩ := adopt_frame s.active s.loadBanks.restartEngine
  obtain ⟨_, hd⟩ := State.offers_frame
    (signsWhere (adopt s.active s.loadBanks.restartEngine).1.active.signs.has)
    { (adopt s.active s.loadBanks.restartEngine).1 with aspect :=
      { (adopt s.active s.loadBanks.restartEngine).1.aspect with published := none, signs := Table.replicate 192 SignRec.dark } }
  obtain ⟨_, _, hk⟩ := ((adopt s.active s.loadBanks.restartEngine).1.darken.drive fun _ => true).kickAll_frame
  rw [hk]
  unfold State.darken
  rw [hd, h]
  rfl

theorem execCommitLayout_reach (s : State) : After (execCommitLayout s) (Reach.whole.Allows s) :=
  .of_next <| State.serve_allows (by nofun) fun _ taking => by
    have answer st b := Reach.allows_respond (k := .whole) (by nofun) taking st b
    split
    · exact answer _ _
    · split
      · exact answer _ _
      · split
        · exact answer _ _
        · exact (State.respond_pending ..).trans s.commit_pending

theorem execReinit_reach (s : State) : After (execReinit s) (Reach.whole.Allows s) :=
  .of_next <| State.serve_allows (by nofun) fun _ taking => by
    split
    · exact Reach.allows_respond (by nofun) taking _ _
    · exact (State.respond_pending ..).trans s.restart_pending

theorem execLoadEvent_reach (s : State) : After (execLoadEvent s) (Reach.whole.Allows s) := by
  refine .of_next ?_
  split
  · exact Reach.allows_refl ..
  · obtain ⟨_, _, h⟩ := (s.loadBanks.loadBeams.loadLines.loadExits.loadHeads.startSupervision.openPort.setPending.drive
      fun _ => true).kickAll_frame
    refine (State.postAll_pending ..).trans ?_
    rw [State.takeUp, h]
    rfl

/-- A change of one field, or none. -/
theorem ite_reach {k : Reach} {s : State} {c : Prop} [Decidable c] {t : State} (h : k.Allows s t) :
    k.Allows s (if c then t else s) := by
  split
  · exact h
  · exact k.allows_refl s

/-- Every command answers a next state and stays within its group. -/
theorem exec_reach (c : Instr) (s : State) : After (exec c s) ((reach c).Allows s) := by
  cases c with
  | coldReset => exact .of_next (rfl : s.pending = s.pending)
  | loadEvent => exact execLoadEvent_reach s
  | hallClockTick => exact .of_next ⟨_, rfl⟩
  | clockWrap => exact .of_next (ite_reach (k := .port) ⟨_, rfl⟩)
  | transferFirstClock => exact .of_next (ite_reach (k := .port) ⟨_, rfl⟩)
  | lostTransfer =>
    refine .of_next ?_
    split
    · exact Reach.allows_refl ..
    · exact ⟨_, rfl⟩
  | firstByte b => exact execFirstByte_reach b s
  | requestEnd bytes => exact execRequestEnd_reach bytes s
  | consoleGapLimit => exact execConsoleGapLimit_reach s
  | fetchEnd => exact .of_next (ite_reach (k := .port) ⟨_, rfl⟩)
  | readStatus => exact .of_next (State.serve_reads fun _ => ⟨_, rfl⟩)
  | fetchNotices => exact execFetchNotices_reach s
  | readRoute => exact .of_next (State.serve_reads fun _ => ite_respond_reads ..)
  | readExits => exact .of_next (State.serve_reads fun _ => ⟨_, rfl⟩)
  | readZones => exact .of_next (State.serve_reads fun _ => ite_respond_reads ..)
  | readSigns => exact .of_next (State.serve_reads fun _ => ite_respond_reads ..)
  | readLines => exact .of_next (State.serve_reads fun _ => ⟨_, rfl⟩)
  | readLayout => exact execReadLayout_reach s
  | writeLayout => exact execWriteLayout_reach s
  | stageFromActive => exact execStageFromActive_reach s
  | commitLayout => exact execCommitLayout_reach s
  | setZoneLevel => exact execSetZoneLevel_reach s
  | setExitClosure => exact execSetExitClosure_reach s
  | calibrateBeam => exact execCalibrateBeam_reach s
  | storeLayout => exact execStoreLayout_reach s
  | reinit => exact execReinit_reach s
  | eraseComplete => exact .of_next (ite_reach (k := .store) ⟨_, _, .refl _, rfl⟩)
  | writeComplete r => exact execWriteComplete_reach r s
  | verifyComplete => exact execVerifyComplete_reach s
  | runStart => exact .of_next (ite_reach (k := .engine) ⟨_, rfl⟩)
  | refreshIntervalExpiry => exact execRefreshIntervalExpiry_reach s
  | snapshotComplete => exact .of_next (s.advanceRun_reach _ _)
  | pass1Complete => exact .of_next (s.advanceRun_reach _ _)
  | loadComplete => exact .of_next (s.advanceRun_reach _ _)
  | pass2Complete => exact .of_next (s.advanceRun_reach _ _)
  | nexthopComplete => exact .of_next (s.advanceRun_reach _ _)
  | handover => exact execHandover_reach s
  | beamSample ch reading => exact execBeamSample_reach ch reading s
  | discretePinChange _ _ => exact .of_next ⟨_, _, _, .refl _, rfl⟩
  | debounceExpiry l => exact execDebounceExpiry_reach l s
  | doorGraceExpiry => exact execDoorGraceExpiry_reach s
  | trunkFrameEnd _ =>
    refine .of_next ?_
    split
    · exact Reach.allows_refl ..
    · exact ⟨_, _, .refl _, rfl⟩
  | replyComplete t bytes => exact execReplyComplete_reach t bytes s
  | replyWindowExpiry t anyByte => exact execReplyWindowExpiry_reach t anyByte s
  | trunkOvercurrent _ => exact .of_next (ite_reach (k := .signLine) ⟨_, _, .event (.post _ .refl rfl), rfl⟩)
  | holdOffExpiry _ => exact .of_next (ite_reach (k := .signLine) ⟨_, _, .refl _, rfl⟩)
  | trunkRestored t => exact execTrunkRestored_reach t s
  | trunkRecheckOvercurrent _ => exact .of_next (ite_reach (k := .signLine) ⟨_, _, .refl _, rfl⟩)
  | busFree cutOff => exact execBusFree_reach cutOff s
  | lostArbitration =>
    refine .of_next ?_
    split
    · exact Reach.allows_refl ..
    · exact ⟨_, _, _, _, _, .refl _, rfl⟩
  | advertSent => exact .of_next ⟨_, _, _, _, _, .refl _, rfl⟩
  | advertReceived bits => exact execAdvertReceived_reach bits s
  | advertIntervalExpiry => exact execAdvertIntervalExpiry_reach s
  | passageAgeExpiry p => exact execPassageAgeExpiry_reach p s
  | duplicateWatchExpiry => exact execDuplicateWatchExpiry_reach s
  | alarmFrameEnd l bytes => exact execAlarmFrameEnd_reach l bytes s
  | alarmGapLimit l => exact .of_next (ite_reach (k := .alarm) (s.setLine_reach l _))
  | supervisionExpiry l => exact execSupervisionExpiry_reach l s
  | zoneReport => exact execZoneReport_reach s
  | hallMode => exact execHallMode_reach s
  | supervise => exact execSupervise_reach s
  | statusRequest => exact execStatusRequest_reach s
  | egressStatusSent l => exact execEgressStatusSent_reach l s
  | alarmStartByte l => exact .of_next (ite_reach (k := .alarm) (s.setLine_reach l _))

/-- A group never touches the queue of waiting commands. -/
theorem Reach.Allows.pending {k : Reach} {s t : State} (h : k.Allows s t) : t.pending = s.pending := by
  cases k with
  | port => obtain ⟨_, rfl⟩ := h; rfl
  | banks => obtain ⟨_, _, _, rfl⟩ := h; rfl
  | zones => obtain ⟨_, _, _, _, _, _, _, _, _, _, rfl⟩ := h; rfl
  | exits => obtain ⟨_, _, _, _, rfl⟩ := h; rfl
  | store => obtain ⟨_, _, _, rfl⟩ := h; rfl
  | engine => obtain ⟨_, rfl⟩ := h; rfl
  | field => obtain ⟨_, _, _, _, _, _, _, rfl⟩ := h; rfl
  | signLine => obtain ⟨_, _, _, rfl⟩ := h; rfl
  | boundary => obtain ⟨_, _, _, _, _, _, rfl⟩ := h; rfl
  | alarm => obtain ⟨_, _, _, _, _, _, _, _, rfl⟩ := h; rfl
  | mode => obtain ⟨_, _, _, _, _, _, _, _, _, _, _, _, rfl⟩ := h; rfl
  | whole => exact h

/-- Settles O2: every command answers a next state within its group, and no group holds the queue. -/
theorem everyCommandCompletes : Obligations.EveryCommandCompletes := by
  intro c s
  obtain ⟨t, ht, h⟩ := exec_reach c s
  exact ⟨t, ht, h.pending⟩

/-- Settles O1: `step` takes the front of the queue, and idles on an empty one. -/
theorem stepTakesFrontCommand : Obligations.StepTakesFrontCommand := by
  refine ⟨fun _ _ _ => rfl, fun s h => ?_⟩
  unfold step
  rw [h]

end Machine
end Sys2Proof
end

/-!
The law of the console port (R177 to R183, R186, R188): posts and answers keep it, and each transfer event does.
-/
section
namespace Sys2Proof
namespace Machine

/-! ## What keeps the law -/

/-- The law reads the port and the load mark alone. -/
theorem PortLaw.congr {s t : State} (h : PortLaw s) (port : t.port = s.port) (loaded : t.loaded = s.loaded) : PortLaw t := by
  obtain ⟨room, order, past, snapshot, ready, awaiting, clocked, unloaded, held, unheld, receiving, taking, empty⟩ := h
  constructor <;> rw [port] <;> try rw [loaded]
  all_goals assumption

/-- A sticky flag leaves the snapshot when it is set (R186). -/
theorem PortLaw.setFlag {s : State} (h : PortLaw s) (f : Flag) : PortLaw (s.setPort (s.port.setFlag f)) where
  room := h.room
  order := h.order
  past := h.past
  snapshot g := by
    have := h.snapshot g
    by_cases e : g = f <;> simp [Port.setFlag, e] at this ⊢
    exact this
  ready := h.ready
  awaiting := h.awaiting
  clocked := h.clocked
  unloaded := h.unloaded
  held := h.held
  unheld := h.unheld
  receiving := h.receiving
  taking := h.taking
  empty := h.empty

/-- A notice of the present time joins a queue in time order (R188). -/
theorem PortLaw.post {s : State} (h : PortLaw s) (n : Notice) (hn : n.time = s.port.clock) :
    PortLaw (s.setPort (s.port.post n)) := by
  unfold Port.post
  split
  · rename_i room
    exact {
      room := by
        have := h.room
        simp only [Config.noticeCapacity] at room
        simp only [State.setPort_port, List.length_append, List.length_cons, List.length_nil]
        omega
      order := by
        simp only [State.setPort_port, List.pairwise_append, List.pairwise_singleton, List.mem_singleton, forall_eq,
          true_and, hn]
        exact ⟨h.order, h.past⟩
      past := fun m hm => by
        rcases List.mem_append.1 hm with hm | hm
        · exact h.past m hm
        · obtain rfl := List.mem_singleton.1 hm
          exact (show m.time = s.port.clock from hn) ▸ BitVec.le_refl _
      snapshot := h.snapshot
      ready := h.ready
      awaiting := h.awaiting
      clocked := h.clocked
      unloaded := h.unloaded
      held := h.held
      unheld := h.unheld
      receiving := h.receiving
      taking := h.taking
      empty := h.empty }
  · exact h.setFlag _

/-- The port of an event. -/
theorem PortLaw.posted {s : State} (h : PortLaw s) {p : Port} (hp : Posted s.port p) : PortLaw (s.setPort p) := by
  induction hp with
  | refl => exact h.congr rfl rfl
  | post n _ hn ih => exact ih.post n hn
  | flag f _ ih => exact ih.setFlag f

/-- An answer (R180): TAKING becomes HELD with the buffer given up. -/
theorem PortLaw.hold {s : State} (h : PortLaw s) (taking : s.port.state = .taking) (r : Response) :
    PortLaw (s.setPort (s.port.hold r)) := by
  have notAwaiting : s.port.awaiting = false := by
    cases ha : s.port.awaiting with
    | false => rfl
    | true => have := (h.awaiting ha).2.1; simp [taking] at this
  have loaded : s.loaded = true := by
    cases hl : s.loaded with
    | true => rfl
    | false => have := h.unloaded hl; simp [taking] at this
  exact {
    room := h.room
    order := h.order
    past := h.past
    snapshot := h.snapshot
    ready := by simp [State.setPort, Port.hold, notAwaiting, loaded]
    awaiting := fun ha => by simp [State.setPort, Port.hold, notAwaiting] at ha
    clocked := fun hc => by simp [State.setPort, Port.hold] at hc
    unloaded := fun hl => by simp [loaded] at hl
    held := fun _ => rfl
    unheld := fun hu => by simp [State.setPort, Port.hold] at hu
    receiving := fun hr => by simp [State.setPort, Port.hold] at hr
    taking := fun ht => by simp [State.setPort, Port.hold] at ht
    empty := fun _ => rfl }

theorem Posted.state {p q : Port} (h : Posted p q) : q.state = p.state := by
  rw [h.other]

/-- The port of an event or of a request answered. -/
theorem PortLaw.moved {s t : State} (h : PortLaw s) (hp : PortMove s.port t.port) (loaded : t.loaded = s.loaded) :
    PortLaw t := by
  suffices PortLaw (s.setPort t.port) from this.congr rfl loaded
  generalize t.port = p at hp
  cases hp with
  | event k => exact h.posted k
  | answer taking k r =>
    refine ((h.posted k).hold ?_ r).congr rfl rfl
    exact k.state.trans taking

/-! ## Transfers -/

/-- The first clock of a transfer (R178). -/
theorem PortLaw.firstClock {s : State} (h : PortLaw s) (ready : s.port.ready = true) :
    PortLaw (s.setPort { s.port with ready := false, awaiting := true }) := by
  obtain ⟨loaded, free, _, notLost⟩ := h.ready.1 ready
  exact { h with
    ready := by simp [State.setPort]
    awaiting := fun _ => ⟨loaded, free, notLost⟩ }

/-- A lost transfer begins (R181). -/
theorem PortLaw.loseTransfer {s : State} (h : PortLaw s) (ready : s.port.ready = false) (awaiting : s.port.awaiting = false)
    (receiving : s.port.state ≠ .receiving) (fetching : s.port.state ≠ .fetching) :
    PortLaw (s.setPort { s.port with lost := true }) :=
  { h with
    ready := by simp [State.setPort, ready]
    awaiting := fun ha => by simp [State.setPort, awaiting] at ha
    clocked := fun hc => by rcases hc with hc | hc; exact absurd hc receiving; exact absurd hc fetching }

/-- The fetch marker begins a fetch (R182). -/
theorem PortLaw.beginFetch {s : State} (h : PortLaw s) (awaiting : s.port.awaiting = true) :
    PortLaw (s.setPort { s.port with state := .fetching, awaiting := false }) := by
  obtain ⟨loaded, free, notLost⟩ := h.awaiting awaiting
  have notReady : s.port.ready = false := by
    cases hr : s.port.ready with
    | false => rfl
    | true => have := (h.ready.1 hr).2.2.1; simp [awaiting] at this
  exact {
    room := h.room
    order := h.order
    past := h.past
    snapshot := h.snapshot
    ready := by simp [State.setPort, notReady]
    awaiting := fun ha => by simp [State.setPort] at ha
    clocked := fun _ => notLost
    unloaded := fun hl => by simp [loaded] at hl
    held := fun hh => by simp [State.setPort] at hh
    unheld := fun hu => by simp [State.setPort] at hu
    receiving := fun hr => by simp [State.setPort] at hr
    taking := fun ht => by simp [State.setPort] at ht
    empty := fun _ => h.empty (by rcases free with e | e <;> simp [e]) }

/-- A length byte begins a request, with the held response released (R178, R183). -/
theorem PortLaw.beginRequest {s : State} (h : PortLaw s) (awaiting : s.port.awaiting = true) (n : Byte) (hn : n ≠ 0xFF) :
    PortLaw (s.setPort (s.port.beginRequest n)) := by
  obtain ⟨loaded, -, notLost⟩ := h.awaiting awaiting
  have notReady : s.port.ready = false := by
    cases hr : s.port.ready with
    | false => rfl
    | true => have := (h.ready.1 hr).2.2.1; simp [awaiting] at this
  have begun {p : Port} (k : PortLaw (s.setPort p)) (ready : p.ready = false) (lost : p.lost = false) :
      PortLaw (s.setPort { p with state := .receiving, awaiting := false, buffer := [n], response := none }) := {
    room := k.room
    order := k.order
    past := k.past
    snapshot := k.snapshot
    ready := by simp [State.setPort, ready]
    awaiting := fun ha => by simp [State.setPort] at ha
    clocked := fun _ => lost
    unloaded := fun hl => by simp [loaded] at hl
    held := fun hh => by simp [State.setPort] at hh
    unheld := fun _ => rfl
    receiving := fun _ => ⟨n, hn, rfl⟩
    taking := fun ht => by simp [State.setPort] at ht
    empty := fun he => by simp [State.setPort] at he }
  unfold Port.beginRequest
  dsimp only
  split
  · exact begun (h.setFlag _) notReady notLost
  · exact begun (h.congr rfl rfl) notReady notLost

/-- A request in reception holds neither READY nor a first clock. -/
theorem PortLaw.quiet {s : State} (h : PortLaw s) (busy : s.port.state = .receiving ∨ s.port.state = .fetching) :
    s.loaded = true ∧ s.port.awaiting = false ∧ s.port.ready = false ∧ s.port.lost = false := by
  have notFree : ¬ (s.port.state = .free ∨ s.port.state = .held) := by rcases busy with e | e <;> simp [e]
  refine ⟨?_, ?_, ?_, h.clocked busy⟩
  · cases hl : s.loaded with
    | true => rfl
    | false => exact absurd (.inl (h.unloaded hl)) notFree
  · cases ha : s.port.awaiting with
    | false => rfl
    | true => exact absurd (h.awaiting ha).2.1 notFree
  · cases hr : s.port.ready with
    | false => rfl
    | true => exact absurd (h.ready.1 hr).2.1 notFree

/-- A whole request with a correct check is taken (R179). -/
theorem PortLaw.takeRequest {s : State} (h : PortLaw s) (receiving : s.port.state = .receiving) (bytes : List Byte)
    (length : bytes.length = (s.port.buffer.headD 0).toNat) (ok : requestOk (s.port.buffer ++ bytes) = true) :
    PortLaw (s.setPort { s.port with state := .taking, buffer := s.port.buffer ++ bytes }) := by
  obtain ⟨loaded, awaiting, ready, notLost⟩ := h.quiet (.inl receiving)
  obtain ⟨n, hn, hb⟩ := h.receiving receiving
  simp only [hb, List.headD_cons] at length
  simp only [requestOk, hb, List.cons_append, List.nil_append, List.headD_cons, Bool.and_eq_true, decide_eq_true_eq] at ok
  exact {
    room := h.room
    order := h.order
    past := h.past
    snapshot := h.snapshot
    ready := by simp [State.setPort, ready]
    awaiting := fun ha => by simp [State.setPort, awaiting] at ha
    clocked := fun hc => by simp [State.setPort] at hc
    unloaded := fun hl => by simp [loaded] at hl
    held := fun hh => by simp [State.setPort] at hh
    unheld := fun _ => h.unheld (.inr (.inl receiving))
    receiving := fun hr => by simp [State.setPort] at hr
    taking := fun _ => by
      simp only [State.setPort_port, hb, List.cons_append, List.nil_append, List.headD_cons, List.length_cons]
      refine ⟨ok.2, ok.1, ?_, by omega⟩
      have : n.toNat ≠ 255 := fun e => hn (BitVec.eq_of_toNat_eq e)
      have := n.isLt
      omega
    empty := fun he => by simp [State.setPort] at he }

/-- A request refused with CHECK is answered at once (R179). -/
theorem PortLaw.refuseCheck {s : State} (h : PortLaw s) (receiving : s.port.state = .receiving) :
    PortLaw (s.setPort s.port.refuseCheck) := by
  obtain ⟨loaded, awaiting, -, notLost⟩ := h.quiet (.inl receiving)
  have k := h.setFlag .checkSeen
  exact {
    room := k.room
    order := k.order
    past := k.past
    snapshot := k.snapshot
    ready := by simp [State.setPort, Port.refuseCheck, Port.hold, Port.setFlag, awaiting, loaded, notLost]
    awaiting := fun ha => by simp [State.setPort, Port.refuseCheck, Port.hold, Port.setFlag, awaiting] at ha
    clocked := fun hc => by simp [State.setPort, Port.refuseCheck, Port.hold] at hc
    unloaded := fun hl => by simp [loaded] at hl
    held := fun _ => rfl
    unheld := fun hu => by simp [State.setPort, Port.refuseCheck, Port.hold] at hu
    receiving := fun hr => by simp [State.setPort, Port.refuseCheck, Port.hold] at hr
    taking := fun ht => by simp [State.setPort, Port.refuseCheck, Port.hold] at ht
    empty := fun _ => rfl }

/-- A fetch ends: the port is free, or the response stays held (R182). -/
theorem PortLaw.endFetch {s : State} (h : PortLaw s) (fetching : s.port.state = .fetching) (r : Option Response) :
    PortLaw (s.setPort { s.port with
      state := if r.isSome then .held else .free, ready := true, response := r }) := by
  obtain ⟨loaded, awaiting, -, notLost⟩ := h.quiet (.inr fetching)
  exact {
    room := h.room
    order := h.order
    past := h.past
    snapshot := h.snapshot
    ready := by cases r <;> simp [State.setPort, awaiting, loaded, notLost]
    awaiting := fun ha => by simp [State.setPort, awaiting] at ha
    clocked := fun hc => by cases r <;> simp [State.setPort] at hc
    unloaded := fun hl => by simp [loaded] at hl
    held := fun hh => by cases r <;> simp [State.setPort] at hh ⊢
    unheld := fun hu => by cases r <;> simp [State.setPort] at hu ⊢
    receiving := fun hr => by cases r <;> simp [State.setPort] at hr
    taking := fun ht => by cases r <;> simp [State.setPort] at ht
    empty := fun _ => h.empty (.inr (.inr fetching)) }

/-- The gap limit ends a lost transfer (R181). -/
theorem PortLaw.endLost {s : State} (h : PortLaw s) (lost : s.port.lost = true) :
    PortLaw (s.setPort { s.port with lost := false, ready := s.readyAfterLost }) := by
  have awaiting : s.port.awaiting = false := by
    cases ha : s.port.awaiting with
    | false => rfl
    | true => have := (h.awaiting ha).2.2; simp [lost] at this
  exact { h with
    ready := by simp [State.setPort, State.readyAfterLost, awaiting]
    awaiting := fun ha => by simp [State.setPort, awaiting] at ha
    clocked := fun _ => rfl }

/-- The gap limit ends a transfer that awaits its first byte (R178). -/
theorem PortLaw.endAwaiting {s : State} (h : PortLaw s) (awaiting : s.port.awaiting = true) :
    PortLaw (s.setPort { s.port with awaiting := false, ready := true }) := by
  obtain ⟨loaded, free, notLost⟩ := h.awaiting awaiting
  exact { h with
    ready := by simp [State.setPort, loaded, free, notLost]
    awaiting := fun ha => by simp [State.setPort] at ha }

/-! ## The clock -/

/-- Notices whose times are all alike stand in time order. -/
theorem pairwise_atZero (ns : List Notice) : (ns.map Notice.atZero).Pairwise fun a b => a.time ≤ b.time := by
  rw [List.pairwise_map]
  exact List.pairwise_of_forall fun _ _ => BitVec.le_refl (0 : Ticks)

/-- A tick leaves no notice in the future, the one that wraps the count to 0 included (R190). -/
theorem PortLaw.tick {s : State} (h : PortLaw s) : PortLaw (s.setPort s.port.tick) := by
  unfold Port.tick
  dsimp only
  split
  · rename_i wraps
    have zeroed : PortLaw (s.setPort { s.port with
        clock := s.port.clock + 1, notices := s.port.notices.map Notice.atZero }) :=
      { h with
        room := by simpa [State.setPort] using h.room
        order := pairwise_atZero _
        past := fun n hn => by
          obtain ⟨m, -, rfl⟩ := List.mem_map.1 hn
          exact BitVec.le_def.2 (Nat.zero_le _) }
    exact zeroed.post Notice.clockWrap wraps.symm
  · rename_i goes
    refine { h with past := fun n hn => ?_ }
    have past := h.past n hn
    rw [BitVec.le_def] at past ⊢
    have goes : s.port.clock + 1 ≠ 0 := goes
    have : (s.port.clock + 1).toNat = s.port.clock.toNat + 1 := by bv_omega
    show n.time.toNat ≤ (s.port.clock + 1).toNat
    omega

/-! ## Requests that read -/

theorem PortLaw.readStatus {s : State} (h : PortLaw s) (taking : s.port.state = .taking) (b : List Byte) :
    PortLaw ((s.setPort { s.port with snapshot := s.port.flags }).respond .ok b) :=
  (PortLaw.hold (s := s.setPort { s.port with snapshot := s.port.flags })
    { h with snapshot := fun _ hf => hf } taking _).congr rfl rfl

theorem PortLaw.fetch {s : State} (h : PortLaw s) (taking : s.port.state = .taking) (n : Nat) (b : List Byte) :
    PortLaw ((s.setPort (s.port.fetch n)).respond .ok b) := by
  refine (PortLaw.hold (s := s.setPort (s.port.fetch n)) { h with
    room := ?_
    order := h.order.sublist (List.drop_sublist n _)
    past := fun m hm => h.past m (List.mem_of_mem_drop hm)
    snapshot := fun f hf => by simp [Port.fetch] at hf } taking _).congr rfl rfl
  have := h.room
  simp only [State.setPort_port, Port.fetch, List.length_drop]
  omega

/-- A request that reads answers and changes nothing else. -/
theorem PortLaw.served {s : State} (h : PortLaw s) {code : Byte} {ok : List Byte → Bool} {bad : List Byte}
    {act : List Byte → State} (acted : ∀ body, s.port.state = .taking → PortLaw (act body)) :
    After (.next (s.serve code ok bad act)) PortLaw :=
  .of_next (State.serve_keeps h (fun ht st b => (h.hold ht ⟨st, b⟩).congr rfl rfl) fun body ht _ => acted body ht)

theorem PortLaw.respond {s : State} (h : PortLaw s) (taking : s.port.state = .taking) (st : Status) (b : List Byte) :
    PortLaw (s.respond st b) := (h.hold taking ⟨st, b⟩).congr rfl rfl

/-- The commands that move the port alone keep its law. -/
theorem PortLaw.exec_port {s : State} (h : PortLaw s) {c : Instr} (hc : reach c = .port) : After (exec c s) PortLaw := by
  have range (c : Prop) [Decidable c] (taking : s.port.state = .taking) (st st' : Status) (b b' : List Byte) :
      PortLaw (if c then s.respond st b else s.respond st' b') := by
    split
    · exact h.respond taking ..
    · exact h.respond taking ..
  cases c with
  | hallClockTick => exact .of_next h.tick
  | clockWrap =>
    refine .of_next ?_
    split
    · exact h.tick
    · exact h
  | transferFirstClock =>
    refine .of_next ?_
    split
    · rename_i ready
      exact h.firstClock ready
    · exact h
  | lostTransfer =>
    refine .of_next ?_
    split
    · exact h
    · rename_i refused
      simp only [Bool.or_eq_true, decide_eq_true_eq, not_or, Bool.not_eq_true] at refused
      obtain ⟨⟨⟨ready, awaiting⟩, receiving⟩, fetching⟩ := refused
      exact (h.setFlag .requestLost).loseTransfer ready awaiting receiving fetching
  | firstByte b =>
    refine .of_next ?_
    split
    · rename_i awaiting
      split
      · exact h.beginFetch awaiting
      · rename_i hb
        exact h.beginRequest awaiting b hb
    · exact h
  | requestEnd bytes =>
    refine .of_next ?_
    split
    · rename_i whole
      simp only [Bool.and_eq_true, decide_eq_true_eq] at whole
      dsimp only
      split
      · rename_i ok
        exact h.takeRequest whole.1 bytes whole.2 ok
      · exact h.refuseCheck whole.1
    · exact h
  | consoleGapLimit =>
    refine .of_next ?_
    split
    · rename_i lost
      exact h.endLost lost
    · split
      · rename_i awaiting
        exact h.endAwaiting awaiting
      · split
        · rename_i receiving
          exact h.refuseCheck receiving
        · rename_i fetching
          exact h.endFetch fetching s.port.response
        · exact h
        · exact h
        · exact h
  | fetchEnd =>
    refine .of_next ?_
    split
    · rename_i fetched
      simp only [Bool.and_eq_true, decide_eq_true_eq] at fetched
      exact h.endFetch fetched.1 none
    · exact h
  | readStatus => exact h.served fun _ taking => h.readStatus taking _
  | fetchNotices =>
    refine h.served fun body taking => ?_
    dsimp only
    split
    · exact h.fetch taking _ _
    · exact h.respond taking ..
  | readRoute => exact h.served fun _ taking => range _ taking ..
  | readExits => exact h.served fun _ taking => h.respond taking ..
  | readZones => exact h.served fun _ taking => range _ taking ..
  | readSigns => exact h.served fun _ taking => range _ taking ..
  | readLines => exact h.served fun _ taking => h.respond taking ..
  | readLayout =>
    refine h.served fun _ taking => ?_
    split
    · exact h.respond taking ..
    · exact h.respond taking ..
  | _ => cases hc

/-! ## The commands that reach every block -/

/-- The notices of an interleaving are those of its lists. -/
theorem mem_of_mem_interleave {turn : Nat → Nat} {n : Notice} {fuel k : Nat} {qs : List (List Notice)}
    (h : n ∈ interleave turn fuel k qs) : n ∈ qs.flatten := by
  have kept {q : List Notice} {qs : List (List Notice)} (hq : q ∈ qs.filter fun q => !q.isEmpty) (hn : n ∈ q) :
      n ∈ qs.flatten := List.mem_flatten.2 ⟨q, (List.mem_filter.1 hq).1, hn⟩
  induction fuel generalizing k qs with
  | zero => exact h
  | succ fuel ih =>
    unfold interleave at h
    split at h
    · cases h
    · rename_i q e
      exact kept (by rw [e]; exact List.mem_singleton.2 rfl) h
    · rename_i q r rest e
      have all {p : List Notice} (hp : p ∈ q :: r :: rest) (hn : n ∈ p) : n ∈ qs.flatten := kept (by rw [e]; exact hp) hn
      dsimp only at h
      split at h
      · obtain ⟨p, hp, hn⟩ := List.mem_flatten.1 h
        exact all hp hn
      · rename_i m more drawn
        have here : m :: more ∈ q :: r :: rest := by
          rw [← drawn]
          have lt : turn k % (q :: r :: rest).length < (q :: r :: rest).length := Nat.mod_lt _ (by simp)
          rw [List.getD_eq_getElem _ _ lt]
          exact List.getElem_mem lt
        rcases List.mem_cons.1 h with rfl | h
        · exact all here List.mem_cons_self
        · obtain ⟨p, hp, hn⟩ := List.mem_flatten.1 (ih h)
          rcases List.mem_or_eq_of_mem_set hp with hp | rfl
          · exact all hp hn
          · exact all here (List.mem_cons_of_mem _ hn)

theorem State.kickAll_port (s : State) : s.kickAll.port = s.port := by
  obtain ⟨_, _, h⟩ := s.kickAll_frame
  rw [h]

theorem State.kickAll_loaded (s : State) : s.kickAll.loaded = s.loaded := by
  obtain ⟨_, _, h⟩ := s.kickAll_frame
  rw [h]

theorem adopt_loaded (old : Layout) (s : State) : (adopt old s).1.loaded = s.loaded := by
  obtain ⟨_, _, _, _, _, _, _, _, _, _, h⟩ := adopt_frame old s
  rw [h]

/-- What an accepted commit does with what the blocks answer: the lines are driven, the trunks start, and the notices join the
queue (R19). -/
def State.finishCommit (s : State) (r : State × List (List Notice)) : State :=
  (({ r.1 with freeCount := r.1.freeCount + r.2.flatten.length }.drive fun _ => true).kickAll).postAll
    (s.notice .layoutCommitted none []
      :: interleave (fun k => Config.commitTurn (s.freeCount + k)) r.2.flatten.length 0 r.2)

/-- The state of an accepted commit before the blocks adopt the new ACTIVE (R19). -/
def State.beforeCommit (s : State) : State := (s.setActive s.layout.staging).restartEngine.adoptSigns s.active

theorem State.commit_eq (s : State) : s.commit = s.finishCommit (adopt s.active s.beforeCommit) := rfl

/-- An accepted commit posts at its time (R19). -/
theorem State.commit_port (s : State) : Posted s.port s.commit.port := by
  have finish (r : State × List (List Notice)) (hp : Posted s.port r.1.port)
      (hn : ∀ n ∈ r.2.flatten, n.time = s.port.clock) : Posted s.port (s.finishCommit r).port := by
    unfold State.finishCommit
    rw [State.postAll_port, State.kickAll_port]
    refine Posted.postAll hp _ fun n hm => ?_
    rcases List.mem_cons.1 hm with rfl | hm
    · rfl
    · exact hn n (mem_of_mem_interleave hm)
  obtain ⟨hp, hn⟩ := adopt_timely s.active s.beforeCommit
  rw [State.commit_eq]
  exact finish _ hp hn

theorem State.finishCommit_loaded (s : State) (r : State × List (List Notice)) : (s.finishCommit r).loaded = r.1.loaded := by
  unfold State.finishCommit
  rw [State.postAll_loaded, State.kickAll_loaded, State.drive_loaded]

theorem State.commit_loaded (s : State) : s.commit.loaded = s.loaded := by
  rw [State.commit_eq, State.finishCommit_loaded, adopt_loaded]
  rfl

theorem State.darken_port (s : State) : s.darken.port = s.port := by
  obtain ⟨_, h⟩ := State.offers_frame (signsWhere s.active.signs.has)
    { s with aspect := { s.aspect with published := none, signs := Table.replicate 192 SignRec.dark } }
  unfold State.darken
  rw [h]; rfl

theorem State.darken_loaded (s : State) : s.darken.loaded = s.loaded := by
  obtain ⟨_, h⟩ := State.offers_frame (signsWhere s.active.signs.has)
    { s with aspect := { s.aspect with published := none, signs := Table.replicate 192 SignRec.dark } }
  unfold State.darken
  rw [h]; rfl

theorem State.noLayoutNotice_time (s : State) : ∀ n ∈ s.noLayoutNotice, n.time = s.port.clock := by
  unfold State.noLayoutNotice
  split
  · simp
  · simp [State.notice]

/-- What REINIT does with what the blocks answer: the signs are darkened, the lines driven, the trunks start, and the notices join
the queue (R199). -/
def State.finishRestart (s : State) (r : State × List (List Notice)) : State :=
  ((r.1.darken.drive fun _ => true).kickAll).postAll (s.notice .reinit none [] :: s.noLayoutNotice ++ r.2.flatten)

theorem State.restart_eq (s : State) : s.restart = s.finishRestart (adopt s.active s.loadBanks.restartEngine) := rfl

/-- REINIT posts at its time (R199). -/
theorem State.restart_port (s : State) : Posted s.port s.restart.port := by
  have finish (r : State × List (List Notice)) (hp : Posted s.port r.1.port)
      (hn : ∀ n ∈ r.2.flatten, n.time = s.port.clock) : Posted s.port (s.finishRestart r).port := by
    unfold State.finishRestart
    rw [State.postAll_port, State.kickAll_port, State.drive_port, State.darken_port]
    refine Posted.postAll hp _ fun n hm => ?_
    rcases List.mem_cons.1 hm with rfl | hm
    · rfl
    · rcases List.mem_append.1 hm with hm | hm
      · exact s.noLayoutNotice_time n hm
      · exact hn n hm
  obtain ⟨hp, hn⟩ := adopt_timely s.active s.loadBanks.restartEngine
  rw [State.restart_eq]
  exact finish _ hp hn

theorem State.finishRestart_loaded (s : State) (r : State × List (List Notice)) : (s.finishRestart r).loaded = r.1.loaded := by
  unfold State.finishRestart
  rw [State.postAll_loaded, State.kickAll_loaded, State.drive_loaded, State.darken_loaded]

theorem State.restart_loaded (s : State) : s.restart.loaded = s.loaded := by
  rw [State.restart_eq, State.finishRestart_loaded, adopt_loaded]
  rfl

theorem State.takeUp_port (s : State) : s.takeUp.port = { s.port with ready := !s.port.lost } := by
  simp [State.takeUp, State.kickAll_port]

theorem State.takeUp_loaded (s : State) : s.takeUp.loaded = true := by
  simp [State.takeUp, State.kickAll_loaded]

/-- The load event opens the port (R191). -/
theorem PortLaw.load {s : State} (h : PortLaw s) (unloaded : s.loaded = false) (ns : List Notice)
    (time : ∀ n ∈ ns, n.time = s.port.clock) : PortLaw (s.takeUp.postAll ns) := by
  have awaiting : s.port.awaiting = false := by
    cases ha : s.port.awaiting with
    | false => rfl
    | true => have := (h.awaiting ha).1; simp [unloaded] at this
  have opened : PortLaw s.openPort := { h with
    ready := by simp [State.openPort, awaiting, h.unloaded unloaded]
    awaiting := fun ha => by simp [State.openPort, awaiting] at ha
    unloaded := fun hl => by simp [State.openPort] at hl }
  refine opened.moved (.event ?_) ((State.postAll_loaded ..).trans s.takeUp_loaded)
  rw [State.postAll_port, State.takeUp_port]
  exact Posted.refl.postAll ns time

theorem PortLaw.cold (image : Image) (pins : Table Bool 32) (n : Nat) (q : List Instr) :
    PortLaw (State.cold image pins n q) := by
  constructor <;> simp [State.cold, Port.cold]

theorem PortLaw.exec_whole {s : State} (h : PortLaw s) {c : Instr} (hc : reach c = .whole) : After (exec c s) PortLaw := by
  cases c with
  | coldReset => exact .of_next (PortLaw.cold _ _ _ _)
  | loadEvent =>
    refine .of_next ?_
    split
    · exact h
    · rename_i unloaded
      exact h.load (by simpa using unloaded) _ s.noLayoutNotice_time
  | commitLayout =>
    refine h.served fun _ taking => ?_
    split
    · exact h.respond taking ..
    · split
      · exact h.respond taking ..
      · split
        · exact h.respond taking ..
        · exact h.moved (.answer taking s.commit_port _) ((State.respond_loaded ..).trans s.commit_loaded)
  | reinit =>
    refine h.served fun _ taking => ?_
    split
    · exact h.respond taking ..
    · exact h.moved (.answer taking s.restart_port _) ((State.respond_loaded ..).trans s.restart_loaded)
  | _ => cases hc

/-! ## The law -/

/-- Every command keeps the law of the port. -/
theorem PortLaw.exec {s : State} (h : PortLaw s) (c : Instr) : After (exec c s) PortLaw := by
  obtain ⟨t, ht, allowed⟩ := exec_reach c s
  generalize hk : reach c = k at allowed
  cases k with
  | port => exact h.exec_port hk
  | whole => exact h.exec_whole hk
  | banks => obtain ⟨_, _, hp, rfl⟩ := allowed; exact ⟨_, ht, h.moved hp rfl⟩
  | zones => obtain ⟨_, _, _, _, _, _, _, _, _, hp, rfl⟩ := allowed; exact ⟨_, ht, h.moved hp rfl⟩
  | exits => obtain ⟨_, _, _, hp, rfl⟩ := allowed; exact ⟨_, ht, h.moved hp rfl⟩
  | store => obtain ⟨_, _, hp, rfl⟩ := allowed; exact ⟨_, ht, h.moved hp rfl⟩
  | engine => obtain ⟨_, rfl⟩ := allowed; exact ⟨_, ht, h.congr rfl rfl⟩
  | field => obtain ⟨_, _, _, _, _, _, hp, rfl⟩ := allowed; exact ⟨_, ht, h.moved hp rfl⟩
  | signLine => obtain ⟨_, _, hp, rfl⟩ := allowed; exact ⟨_, ht, h.moved hp rfl⟩
  | boundary => obtain ⟨_, _, _, _, _, hp, rfl⟩ := allowed; exact ⟨_, ht, h.moved hp rfl⟩
  | alarm => obtain ⟨_, _, _, _, _, _, _, hp, rfl⟩ := allowed; exact ⟨_, ht, h.moved hp rfl⟩
  | mode => obtain ⟨_, _, _, _, _, _, _, _, _, _, _, hp, rfl⟩ := allowed; exact ⟨_, ht, h.moved hp rfl⟩

/-- Settles O46: an event only posts at its time and sets flags, an answer turns TAKING into HELD, and each transfer keeps the law. -/
theorem portLawIsKept : Obligations.PortLawIsKept := fun _ _ hs h =>
  step_keeps (P := PortLaw) (fun _ h => h) (fun _ _ h => h.congr rfl rfl) (fun c _ h => h.exec c) hs h

end Machine
end Sys2Proof
end

/-!
What the footprints leave alone, and the laws of the store (R194, R196, R197), of the engine and the published field (R73, R75, R97, R101)
and of the trunks (R120, R121).
-/
section
namespace Sys2Proof
namespace Machine

/-! ## What each group of fields is left alone by -/

/-- Which group a command must belong to, COLD_RESET, LOAD_EVENT, COMMIT_LAYOUT and REINIT apart, to move a field. -/
structure Reach.Frame (k : Reach) (s t : State) : Prop where
  layout : k ≠ .banks → t.layout = s.layout
  zones : k ≠ .zones → t.zones = s.zones
  beams : k ≠ .zones → t.beams = s.beams
  records : k ≠ .zones → k ≠ .exits → k ≠ .boundary → k ≠ .mode → t.exits.exits = s.exits.exits
  grace : k ≠ .exits → k ≠ .mode → t.exits.grace = s.exits.grace
  pins : k ≠ .exits → t.exits.pins = s.exits.pins
  lines : k ≠ .zones → k ≠ .exits → k ≠ .field → k ≠ .boundary → k ≠ .alarm → k ≠ .mode → t.exits.lines = s.exits.lines
  marked : k ≠ .engine → k ≠ .field → t.engine = { s.engine with changePending := t.engine.changePending }
  engine : k ≠ .zones → k ≠ .exits → k ≠ .engine → k ≠ .field → k ≠ .boundary → k ≠ .mode → t.engine = s.engine
  signs : k ≠ .field → t.aspect = { s.aspect with signs := t.aspect.signs }
  aspect : k ≠ .field → k ≠ .mode → t.aspect = s.aspect
  signLine : k ≠ .field → k ≠ .signLine → k ≠ .mode → t.signLine = s.signLine
  boundary : k ≠ .field → k ≠ .boundary → t.boundary = s.boundary
  alarm : k ≠ .zones → k ≠ .alarm → k ≠ .mode → t.alarm = s.alarm
  mode : k ≠ .mode → t.alarm.mode = s.alarm.mode
  link : k ≠ .alarm → t.alarm.lineA = s.alarm.lineA ∧ t.alarm.lineB = s.alarm.lineB ∧ t.alarm.link = s.alarm.link
  store : k ≠ .store → t.store = s.store
  loaded : t.loaded = s.loaded

theorem Reach.Allows.frame {k : Reach} {s t : State} (h : k.Allows s t) (hw : k ≠ .whole) : k.Frame s t := by
  cases k with
  | port => obtain ⟨_, rfl⟩ := h; constructor <;> simp
  | banks => obtain ⟨_, _, _, rfl⟩ := h; constructor <;> simp
  | zones => obtain ⟨_, _, _, _, _, _, _, _, _, _, rfl⟩ := h; constructor <;> simp
  | exits => obtain ⟨_, _, _, _, rfl⟩ := h; constructor <;> simp
  | store => obtain ⟨_, _, _, rfl⟩ := h; constructor <;> simp
  | engine => obtain ⟨_, rfl⟩ := h; constructor <;> simp
  | field => obtain ⟨_, _, _, _, _, _, _, rfl⟩ := h; constructor <;> simp
  | signLine => obtain ⟨_, _, _, rfl⟩ := h; constructor <;> simp
  | boundary => obtain ⟨_, _, _, _, _, _, rfl⟩ := h; constructor <;> simp
  | alarm => obtain ⟨_, _, _, _, _, _, _, _, rfl⟩ := h; constructor <;> simp
  | mode => obtain ⟨_, _, _, _, _, _, _, _, _, _, _, _, rfl⟩ := h; constructor <;> simp
  | whole => exact absurd rfl hw

/-- What a command of a given group leaves alone. -/
theorem exec_frame {c : Instr} {k : Reach} (hc : reach c = k) (hw : k ≠ .whole) (s : State) : After (exec c s) (k.Frame s) :=
  (exec_reach c s).imp fun _ h => (hc ▸ h).frame hw

/-- A completion keeps what its act and a mere answer keep. -/
theorem After.served {P : State → Prop} {s : State} (hs : P s) (answer : ∀ st b, P (s.respond st b)) {code : Byte}
    {ok : List Byte → Bool} {bad : List Byte} {act : List Byte → State} (acted : ∀ body, P (act body)) :
    After (.next (s.serve code ok bad act)) P :=
  .of_next (State.serve_keeps hs (fun _ => answer) fun body _ _ => acted body)

/-- What holds after a commit and after a refusal holds after COMMIT_LAYOUT. -/
theorem execCommitLayout_keeps {P : State → Prop} {s : State} (hs : P s) (answer : ∀ st b, P (s.respond st b))
    (accepted : s.layout.staging.firstFailure = none → P (s.commit.respond .ok [])) : After (exec .commitLayout s) P :=
  After.served hs answer fun _ => by
    split
    · exact answer ..
    · split
      · exact answer ..
      · split
        · exact answer ..
        · rename_i passed
          exact accepted passed

/-- What holds after a restart and after a refusal holds after REINIT. -/
theorem execReinit_keeps {P : State → Prop} {s : State} (hs : P s) (answer : ∀ st b, P (s.respond st b))
    (restarted : s.store.state.inProgress = false → ∀ b, P (s.restart.respond .ok b)) : After (exec .reinit s) P :=
  After.served hs answer fun _ => by
    split
    · exact answer ..
    · rename_i idle
      exact restarted (by simpa using idle) _

/-- What holds after the load event holds after LOAD_EVENT, which is no event once the part has loaded. -/
theorem execLoadEvent_keeps {P : State → Prop} {s : State} (hs : P s)
    (loads : s.loaded = false → P (s.takeUp.postAll s.noLayoutNotice)) : After (exec .loadEvent s) P := by
  refine .of_next ?_
  split
  · exact hs
  · rename_i unloaded
    exact loads (by simpa using unloaded)

/-! ## The store -/

theorem StoreLaw.congr {s t : State} (h : StoreLaw s) (store : t.store = s.store) : StoreLaw t := by
  obtain ⟨copy, erased⟩ := h
  constructor <;> rw [store] <;> assumption

/-- A store with no copy that is not in progress obeys the law. -/
theorem StoreLaw.rest {t : State} (copy : t.store.copy = none) (state : t.store.state = .idle ∨ t.store.state = .invalid) :
    StoreLaw t := by
  constructor
  · rcases state with e | e <;> simp [copy, e, StoreState.inProgress]
  · rcases state with e | e <;> simp [e]

/-- A store not in progress holds no copy. -/
theorem StoreLaw.copy_none {s : State} (h : StoreLaw s) (idle : s.store.state.inProgress = false) : s.store.copy = none := by
  have := h.copy
  rw [idle] at this
  simpa using this

theorem StoreLaw.exec_store {s : State} (h : StoreLaw s) {c : Instr} (hc : reach c = .store) : After (exec c s) StoreLaw := by
  cases c with
  | storeLayout =>
    refine After.served h (fun _ _ => h.congr rfl) fun _ => ?_
    split
    · exact h.congr rfl
    · split
      · exact h.congr rfl
      · split
        · exact h.congr rfl
        · exact ⟨by simp [State.startStore, StoreState.inProgress], fun _ => rfl⟩
  | eraseComplete =>
    refine .of_next ?_
    split
    · rename_i erasing
      have copy := h.copy
      have image := h.erased (.inl erasing)
      simp only [erasing, StoreState.inProgress] at copy
      exact ⟨by simpa [State.setStore, StoreState.inProgress] using copy, fun _ => image⟩
    · exact h
  | writeComplete r =>
    refine .of_next ?_
    split
    · rename_i _ copy
      exact ⟨by simp [State.setStore, StoreState.inProgress, copy], by simp [State.setStore]⟩
    · exact h
  | verifyComplete =>
    refine .of_next ?_
    split
    · split
      · exact .rest rfl (.inl rfl)
      · exact .rest rfl (.inr rfl)
    · exact h
  | _ => cases hc

theorem State.commit_store (s : State) : s.commit.store = s.store := by
  have finish (r : State × List (List Notice)) : (s.finishCommit r).store = r.1.store := by
    obtain ⟨_, _, h⟩ := ({ r.1 with freeCount := r.1.freeCount + r.2.flatten.length }.drive fun _ => true).kickAll_frame
    unfold State.finishCommit
    rw [State.postAll_store, h]
    rfl
  obtain ⟨_, _, _, _, _, _, _, _, _, _, h⟩ := adopt_frame s.active s.beforeCommit
  rw [State.commit_eq, finish, h]
  rfl

/-- REINIT changes no more of the store than its state, by the test of the image (R199). -/
theorem State.restart_store (s : State) : s.restart.store =
    { s.store with state := if s.store.image.valid then .idle else .invalid } := by
  have finish (r : State × List (List Notice)) : (s.finishRestart r).store = r.1.store := by
    obtain ⟨_, _, h⟩ := (r.1.darken.drive fun _ => true).kickAll_frame
    obtain ⟨_, hd⟩ := State.offers_frame (signsWhere r.1.active.signs.has)
      { r.1 with aspect := { r.1.aspect with published := none, signs := Table.replicate 192 SignRec.dark } }
    unfold State.finishRestart
    rw [State.postAll_store, h]
    unfold State.darken
    rw [hd]
    rfl
  obtain ⟨_, _, _, _, _, _, _, _, _, _, h⟩ := adopt_frame s.active s.loadBanks.restartEngine
  rw [State.restart_eq, finish, h]
  rfl

theorem State.takeUp_store (s : State) : s.takeUp.store =
    { s.store with state := if s.store.image.valid then .idle else .invalid } := by
  obtain ⟨_, _, h⟩ := (s.loadBanks.loadBeams.loadLines.loadExits.loadHeads.startSupervision.openPort.setPending.drive
    fun _ => true).kickAll_frame
  rw [State.takeUp, h]
  rfl

/-- Every command keeps the law of the store, a load event with no copy held. -/
theorem StoreLaw.exec {s : State} (h : StoreLaw s) (awaiting : s.loaded = false → AwaitingLoad s) (c : Instr) :
    After (exec c s) StoreLaw := by
  have tested (b : Bool) : (if b then StoreState.idle else .invalid) = .idle
      ∨ (if b then StoreState.idle else .invalid) = .invalid := by cases b <;> simp
  cases hk : reach c with
  | store => exact h.exec_store hk
  | whole =>
    cases c with
    | coldReset => exact .of_next (.rest rfl (.inl rfl))
    | loadEvent =>
      refine execLoadEvent_keeps h fun unloaded => ?_
      refine .rest ?_ ?_
      · rw [State.postAll_store, State.takeUp_store]
        exact (awaiting unloaded).store.2
      · rw [State.postAll_store, State.takeUp_store]
        exact tested _
    | commitLayout =>
      exact execCommitLayout_keeps h (fun _ _ => h.congr rfl) fun _ =>
        h.congr ((State.respond_store ..).trans s.commit_store)
    | reinit =>
      refine execReinit_keeps h (fun _ _ => h.congr rfl) fun idle _ => .rest ?_ ?_
      · rw [State.respond_store, State.restart_store]
        exact h.copy_none idle
      · rw [State.respond_store, State.restart_store]
        exact tested _
    | _ => cases hk
  | _ => exact (exec_frame hk (by nofun) s).imp fun _ f => h.congr (f.store (by nofun))

/-- Settles O59: the store's own phases keep the law, REINIT waits for them, and the load event finds no copy. -/
theorem storeLawIsKept : Obligations.StoreLawIsKept := fun _ _ awaiting hs h =>
  step_keeps (P := fun s => (s.loaded = false → AwaitingLoad s) ∧ StoreLaw s) (fun _ h => h.2)
    (fun _ _ h => ⟨fun hl => { h.1 hl with }, h.2.congr rfl⟩) (fun c _ h => h.2.exec h.1 c) ⟨awaiting, hs⟩ h

/-! ## The engine and the published field -/

theorem FieldLaw.congr {s t : State} (h : FieldLaw s) {p : Bool} (engine : t.engine = { s.engine with changePending := p })
    {g : Table SignRec 192} (aspect : t.aspect = { s.aspect with signs := g }) : FieldLaw t := by
  exact ⟨by rw [engine, aspect]; exact h.generation, by rw [aspect]; exact h.published,
    by rw [engine]; exact h.started, by rw [engine]; exact h.refresh⟩

theorem FieldLaw.of_eq {s t : State} (h : FieldLaw s) (engine : t.engine = s.engine) (aspect : t.aspect = s.aspect) :
    FieldLaw t :=
  h.congr (p := s.engine.changePending) (g := s.aspect.signs) engine aspect

theorem FieldLaw.postAll {s : State} (h : FieldLaw s) (l : List Notice) : FieldLaw (s.postAll l) :=
  h.of_eq (State.postAll_engine ..) (State.postAll_aspect ..)

theorem FieldLaw.respond {s : State} (h : FieldLaw s) (st : Status) (b : List Byte) : FieldLaw (s.respond st b) :=
  h.of_eq (State.respond_engine ..) (State.respond_aspect ..)

/-- A run started has a start time and no refresh due (R75). -/
theorem FieldLaw.startRun {s : State} (generation : s.aspect.lastGeneration = s.engine.generation)
    (published : ∀ p, s.aspect.published = some p → p.field.generation = s.aspect.lastGeneration) : FieldLaw s.startRun where
  generation := generation
  published := published
  started _ := rfl
  refresh hr := by simp [State.startRun] at hr

/-- The work of a phase leaves a run in flight (R79). -/
theorem FieldLaw.advanceRun {s : State} (h : FieldLaw s) (phase : Phase) (work : Layout → Run → Run) :
    FieldLaw (s.advanceRun phase work) := by
  unfold State.advanceRun
  split
  · exact h
  · rename_i r run
    split
    · exact ⟨h.generation, h.published, fun _ => h.started (by rw [run]; rfl), fun _ => rfl⟩
    · exact h

theorem FieldLaw.exec_engine {s : State} (h : FieldLaw s) {c : Instr} (hc : reach c = .engine) : After (exec c s) FieldLaw := by
  cases c with
  | runStart =>
    refine .of_next ?_
    split
    · exact .startRun h.generation h.published
    · exact h
  | refreshIntervalExpiry =>
    refine .of_next ?_
    split
    · split
      · exact .startRun h.generation h.published
      · rename_i r run
        exact ⟨h.generation, h.published, h.started, fun _ => by simp [State.setEngine, run]⟩
    · exact h
  | snapshotComplete => exact .of_next (h.advanceRun _ _)
  | pass1Complete => exact .of_next (h.advanceRun _ _)
  | loadComplete => exact .of_next (h.advanceRun _ _)
  | pass2Complete => exact .of_next (h.advanceRun _ _)
  | nexthopComplete => exact .of_next (h.advanceRun _ _)
  | _ => cases hc

/-- The engine goes on with the next run, or idles with none due (R77). -/
theorem FieldLaw.nextRun {s : State} (generation : s.aspect.lastGeneration = s.engine.generation)
    (published : ∀ p, s.aspect.published = some p → p.field.generation = s.aspect.lastGeneration) : FieldLaw s.nextRun := by
  unfold State.nextRun
  split
  · exact .startRun generation published
  · rename_i idle
    simp only [Bool.or_eq_true, not_or, Bool.not_eq_true] at idle
    exact ⟨generation, published, fun hr => by simp [State.setEngine] at hr,
      fun hr => by simp [State.setEngine, idle.2] at hr⟩

theorem FieldLaw.kickAll {s : State} (h : FieldLaw s) : FieldLaw s.kickAll := by
  obtain ⟨_, _, e⟩ := s.kickAll_frame
  rw [e]
  exact h.congr rfl rfl

/-- HANDOVER publishes the field of the generation the counter takes (R97). -/
theorem FieldLaw.handover {s : State} (h : FieldLaw s) : After (exec .handover s) FieldLaw := by
  refine .of_next ?_
  split
  · exact h
  · split
    · rename_i r _ _
      obtain ⟨_, _, _, _, _, hf⟩ := adoptField_frame (s.handedOver r)
        (s.setEngine { s.engine with generation := s.engine.generation + 1 })
      dsimp only
      refine FieldLaw.postAll (FieldLaw.kickAll (FieldLaw.nextRun ?_ ?_)) _
      · rw [hf]
        rfl
      · rw [hf]
        intro p hp
        cases hp
        rfl
    · exact h

/-- No run, nothing due: the engine and the Aspect Unit at rest. -/
theorem FieldLaw.rest {t : State} (run : t.engine.run = none) (refresh : t.engine.refreshDue = false)
    (generation : t.aspect.lastGeneration = t.engine.generation)
    (published : ∀ p, t.aspect.published = some p → p.field.generation = t.aspect.lastGeneration) : FieldLaw t :=
  ⟨generation, published, fun hr => by simp [run] at hr, fun hr => by simp [refresh] at hr⟩

/-- A commit abandons the run and sets change pending (R19, R78). -/
theorem State.commit_engine (s : State) : s.commit.engine.run = none ∧ s.commit.engine.refreshDue = false
    ∧ s.commit.engine.generation = s.engine.generation := by
  have finish (r : State × List (List Notice)) : (s.finishCommit r).engine = r.1.engine := by
    obtain ⟨_, _, h⟩ := ({ r.1 with freeCount := r.1.freeCount + r.2.flatten.length }.drive fun _ => true).kickAll_frame
    unfold State.finishCommit
    rw [State.postAll_engine, h]
    rfl
  obtain ⟨_, _, _, _, _, _, _, _, _, _, h⟩ := adopt_frame s.active s.beforeCommit
  rw [State.commit_eq, finish, h]
  exact ⟨rfl, rfl, rfl⟩

theorem State.commit_aspect (s : State) : s.commit.aspect = (s.beforeCommit).aspect := by
  have finish (r : State × List (List Notice)) : (s.finishCommit r).aspect = r.1.aspect := by
    obtain ⟨_, _, h⟩ := ({ r.1 with freeCount := r.1.freeCount + r.2.flatten.length }.drive fun _ => true).kickAll_frame
    unfold State.finishCommit
    rw [State.postAll_aspect, h]
    rfl
  obtain ⟨_, _, _, _, _, _, _, _, _, _, h⟩ := adopt_frame s.active s.beforeCommit
  rw [State.commit_eq, finish, h]

theorem State.restart_engine (s : State) : s.restart.engine.run = none ∧ s.restart.engine.refreshDue = false
    ∧ s.restart.engine.generation = s.engine.generation := by
  have finish (r : State × List (List Notice)) : (s.finishRestart r).engine = r.1.engine := by
    obtain ⟨_, _, h⟩ := (r.1.darken.drive fun _ => true).kickAll_frame
    obtain ⟨_, hd⟩ := State.offers_frame (signsWhere r.1.active.signs.has)
      { r.1 with aspect := { r.1.aspect with published := none, signs := Table.replicate 192 SignRec.dark } }
    unfold State.finishRestart
    rw [State.postAll_engine, h]
    unfold State.darken
    rw [hd]
    rfl
  obtain ⟨_, _, _, _, _, _, _, _, _, _, h⟩ := adopt_frame s.active s.loadBanks.restartEngine
  rw [State.restart_eq, finish, h]
  exact ⟨rfl, rfl, rfl⟩

/-- REINIT publishes no field and darkens every sign (R119). -/
theorem State.restart_aspect (s : State) : s.restart.aspect =
    { s.aspect with published := none, signs := Table.replicate 192 SignRec.dark } := by
  have finish (r : State × List (List Notice)) : (s.finishRestart r).aspect =
      { r.1.aspect with published := none, signs := Table.replicate 192 SignRec.dark } := by
    obtain ⟨_, _, h⟩ := (r.1.darken.drive fun _ => true).kickAll_frame
    obtain ⟨_, hd⟩ := State.offers_frame (signsWhere r.1.active.signs.has)
      { r.1 with aspect := { r.1.aspect with published := none, signs := Table.replicate 192 SignRec.dark } }
    unfold State.finishRestart
    rw [State.postAll_aspect, h]
    unfold State.darken
    rw [hd]
    rfl
  obtain ⟨_, _, _, _, _, _, _, _, _, _, h⟩ := adopt_frame s.active s.loadBanks.restartEngine
  rw [State.restart_eq, finish, h]
  rfl

theorem State.takeUp_frame (s : State) : ∃ ts hs, s.takeUp =
    { s.loadBanks.loadBeams.loadLines.loadExits.loadHeads.startSupervision.openPort.setPending.drive fun _ => true with
      signLine := { s.loadHeads.signLine with trunks := ts, heads := hs } } := by
  obtain ⟨ts, hs, h⟩ := (s.loadBanks.loadBeams.loadLines.loadExits.loadHeads.startSupervision.openPort.setPending.drive
    fun _ => true).kickAll_frame
  exact ⟨ts, hs, h⟩

/-- Every command keeps the law of the engine and the published field. -/
theorem FieldLaw.exec {s : State} (h : FieldLaw s) (c : Instr) : After (exec c s) FieldLaw := by
  cases hk : reach c with
  | engine => exact h.exec_engine hk
  | field =>
    cases c with
    | handover => exact h.handover
    | _ => cases hk
  | whole =>
    have answered (st b) : FieldLaw (s.respond st b) := h.congr rfl rfl
    cases c with
    | coldReset => exact .of_next (.rest rfl rfl rfl fun p hp => by cases hp)
    | loadEvent =>
      refine execLoadEvent_keeps h fun _ => ?_
      obtain ⟨_, _, e⟩ := s.takeUp_frame
      rw [e]
      exact h.congr rfl rfl
    | commitLayout =>
      refine execCommitLayout_keeps h answered fun _ => ?_
      obtain ⟨run, refresh, generation⟩ := s.commit_engine
      refine FieldLaw.respond (FieldLaw.rest run refresh ?_ ?_) _ _
      · rw [generation, State.commit_aspect]
        exact h.generation
      · rw [State.commit_aspect]
        exact h.published
    | reinit =>
      refine execReinit_keeps h answered fun _ _ => ?_
      obtain ⟨run, refresh, generation⟩ := s.restart_engine
      refine FieldLaw.respond (FieldLaw.rest run refresh ?_ ?_) _ _
      · rw [generation, State.restart_aspect]
        exact h.generation
      · rw [State.restart_aspect]
        intro p hp
        cases hp
    | _ => cases hk
  | _ =>
    exact (exec_frame hk (by nofun) s).imp fun _ f => h.congr (f.marked (by nofun) (by nofun)) (f.signs (by nofun))

/-- Settles O58: runs start with a time, HANDOVER publishes the counter's generation, and commits and REINIT leave none in flight. -/
theorem fieldLawIsKept : Obligations.FieldLawIsKept := fun _ _ hs h =>
  step_keeps (P := FieldLaw) (fun _ h => h) (fun _ _ h => h.congr rfl rfl) (fun c _ h => h.exec c) hs h

/-! ## The trunks -/

theorem TrunkLaw.congr {s t : State} (h : TrunkLaw s) (trunks : t.signLine.trunks = s.signLine.trunks) : TrunkLaw t := by
  obtain ⟨holdOff, silent, driven⟩ := h
  constructor <;> rw [trunks] <;> assumption

theorem TrunkLaw.postAll {s : State} (h : TrunkLaw s) (l : List Notice) : TrunkLaw (s.postAll l) :=
  h.congr (by rw [State.postAll_signLine])

theorem TrunkLaw.dropFrame {s : State} (h : TrunkLaw s) : TrunkLaw s.dropFrame :=
  h.congr (by rw [State.dropFrame_signLine])

theorem TrunkLaw.respond {s : State} (h : TrunkLaw s) (st : Status) (b : List Byte) : TrunkLaw (s.respond st b) :=
  h.congr (by rw [State.respond_signLine])

/-- What the law says of one trunk. -/
structure TrunkRec.Lawful (r : TrunkRec) : Prop where
  holdOff : r.holdOff.isSome = true ↔ r.state = .shutdown
  silent : r.state = .shutdown → r.exchange = none
  driven : r.state = .inService → r.driverOn = true

theorem trunkLaw_iff (s : State) : TrunkLaw s ↔ ∀ t, (s.signLine.trunks.get t).Lawful :=
  ⟨fun h t => ⟨h.holdOff t, h.silent t, h.driven t⟩,
    fun h => ⟨fun t => (h t).holdOff, fun t => (h t).silent, fun t => (h t).driven⟩⟩

/-- A lawful record set keeps the law. -/
theorem TrunkLaw.setTrunk {s : State} (h : TrunkLaw s) (t : TrunkIdx) {r : TrunkRec} (hr : r.Lawful) :
    TrunkLaw (s.setTrunk t r) := by
  rw [trunkLaw_iff] at h ⊢
  intro u
  rw [State.setTrunk_signLine, Table.get_set]
  split
  · exact hr
  · exact h u

/-- A trunk in service may carry any exchange, any trunk none. -/
theorem TrunkRec.Lawful.exchange {r : TrunkRec} (h : r.Lawful) (x : Option Exchange) (free : r.state = .inService ∨ x = none) :
    ({ r with exchange := x } : TrunkRec).Lawful :=
  ⟨h.holdOff, fun hs => free.resolve_left fun hi => (nomatch hi.symm.trans hs), h.driven⟩

theorem TrunkLaw.startExchange {s : State} (h : TrunkLaw s) {t : TrunkIdx} (free : (s.signLine.trunks.get t).state = .inService)
    (i : SignIdx) (c : SignCfg) (f : TrunkFrame) : TrunkLaw (s.startExchange t i c f) :=
  h.setTrunk t (((trunkLaw_iff s).1 h t).exchange _ (.inl free))

theorem TrunkLaw.startAspect {s : State} (h : TrunkLaw s) {t : TrunkIdx} (free : (s.signLine.trunks.get t).state = .inService)
    (i : SignIdx) (c : SignCfg) : TrunkLaw (s.startAspect t i c) :=
  (h.congr rfl : TrunkLaw (s.setHead i _)).startExchange free i c _

/-- Starting what R127 chooses keeps the law: only a trunk in service takes an exchange. -/
theorem TrunkLaw.kick {s : State} (h : TrunkLaw s) (t : TrunkIdx) : TrunkLaw (s.kick t) := by
  unfold State.kick
  dsimp only
  split
  · rename_i free
    simp only [Bool.and_eq_true, decide_eq_true_eq] at free
    split
    · exact h.startAspect free.1 ..
    · split
      · exact h.startExchange free.1 ..
      · split
        · obtain ⟨holdOff, silent, driven⟩ := (trunkLaw_iff s).1 h t
          rename_i i c _
          refine (h.setTrunk t (r := { s.signLine.trunks.get t with roundRobin := c.address }) ⟨holdOff, silent, driven⟩).startAspect ?_ ..
          simpa [State.setTrunk] using free.1
        · exact h
  · exact h

theorem TrunkLaw.kickAll {s : State} (h : TrunkLaw s) : TrunkLaw s.kickAll := (h.kick 0).kick 1

theorem TrunkLaw.endExchange {s : State} (h : TrunkLaw s) (t : TrunkIdx) (x : Exchange) (o : ReplyOutcome) :
    TrunkLaw ((endExchange t x o).run s) := by
  have ended := h.setTrunk t (((trunkLaw_iff s).1 h t).exchange none (.inr rfl))
  refine TrunkLaw.congr (s := (Sys2Proof.Machine.endExchange t x o s).1) ?_ rfl
  unfold Sys2Proof.Machine.endExchange
  dsimp only
  refine TrunkLaw.kick ?_ t
  split
  · exact ended
  · exact ended.congr rfl

theorem TrunkRec.Lawful.shut {r : TrunkRec} (now : Ticks) : (r.shut now).Lawful :=
  ⟨by simp [TrunkRec.shut], fun _ => rfl, fun hs => by simp [TrunkRec.shut] at hs⟩

theorem TrunkLaw.exec_signLine {s : State} (h : TrunkLaw s) {c : Instr} (hc : reach c = .signLine) :
    After (exec c s) TrunkLaw := by
  have lawful := (trunkLaw_iff s).1 h
  cases c with
  | trunkFrameEnd t =>
    refine .of_next ?_
    split
    · exact h
    · rename_i x flight
      refine h.setTrunk t ((lawful t).exchange (some _) (.inl ?_))
      cases hs : (s.signLine.trunks.get t).state with
      | inService => rfl
      | shutdown =>
        have := (lawful t).silent hs
        simp only [State.trunk, this] at flight
        cases flight
  | replyComplete t bytes =>
    refine .of_next ?_
    split
    · exact h
    · split
      · exact h.endExchange ..
      · exact h
  | replyWindowExpiry t b =>
    refine .of_next ?_
    split
    · exact h
    · exact h.endExchange ..
  | trunkOvercurrent t =>
    refine .of_next ?_
    split
    · exact (h.setTrunk t (.shut _)).congr rfl
    · exact h
  | holdOffExpiry t =>
    refine .of_next ?_
    split
    · exact h.setTrunk t ⟨(lawful t).holdOff, (lawful t).silent, fun _ => rfl⟩
    · exact h
  | trunkRestored t =>
    refine .of_next ?_
    split
    · rename_i checking
      simp only [TrunkRec.checking, Bool.and_eq_true, decide_eq_true_eq] at checking
      refine TrunkLaw.congr (TrunkLaw.kick (h.setTrunk t ?_) t) rfl
      exact ⟨by simp, fun hs => by simp at hs, fun _ => checking.2⟩
    · exact h
  | trunkRecheckOvercurrent t =>
    refine .of_next ?_
    split
    · exact h.setTrunk t (.shut _)
    · exact h
  | _ => cases hc

/-- The marks an adoption sets on exchanges in flight leave each trunk lawful (R20). -/
theorem TrunkLaw.adopt {s : State} (h : TrunkLaw s) (old : Layout) : TrunkLaw (adopt old s).1 := by
  obtain ⟨b, z, p, k, x, g, hb, hz, hp, hk, hx, hg, eq⟩ := adopt_parts old s
  have trunks : g.1.signLine.trunks = s.signLine.trunks := by
    obtain ⟨_, e1⟩ := adoptBeams_frame old s
    obtain ⟨_, _, e2⟩ := adoptZones_frame b.1
    obtain ⟨_, e3⟩ := adoptPassages_frame old z.1
    obtain ⟨_, _, _, _, e4⟩ := deriveLink_frame p.1
    obtain ⟨_, e5⟩ := k.1.adoptLines.adoptGrace_frame
    obtain ⟨_, _, e6⟩ := adoptExits_frame old k.1.adoptLines.adoptGrace
    obtain ⟨_, e7⟩ := adoptHeads_frame old x.1
    rw [hb] at e1; rw [hz] at e2; rw [hp] at e3; rw [hk] at e4; rw [hx] at e6; rw [hg] at e7
    rw [e7, e6, e5, State.setGrace_signLine, State.adoptLines_signLine, e4, e3, State.setBoundary_signLine, e2, e1]
  rw [eq, trunkLaw_iff]
  intro t
  have lawful := (trunkLaw_iff s).1 h t
  simp only [State.dropAdvert_signLine, State.adoptTrunks, Table.get_ofFn]
  rw [trunks]
  exact ⟨lawful.holdOff, fun hs => by simp [lawful.silent hs], lawful.driven⟩

theorem State.offers_trunks (l : List SignIdx) (s : State) : (l.foldl State.offer s).signLine.trunks = s.signLine.trunks := by
  obtain ⟨_, h⟩ := State.offers_frame l s
  rw [h]; rfl

/-- Every command keeps the law of the trunks. -/
theorem TrunkLaw.exec {s : State} (h : TrunkLaw s) (c : Instr) : After (exec c s) TrunkLaw := by
  cases hk : reach c with
  | signLine => exact h.exec_signLine hk
  | field =>
    cases c with
    | handover =>
      refine .of_next ?_
      split
      · exact h
      · split
        · rename_i r _ _
          obtain ⟨_, _, _, _, _, hf⟩ := adoptField_frame (s.handedOver r)
            (s.setEngine { s.engine with generation := s.engine.generation + 1 })
          dsimp only
          refine (TrunkLaw.kickAll (h.congr ?_)).postAll _
          rw [hf]
          unfold State.nextRun
          split <;> rfl
        · exact h
    | _ => cases hk
  | mode =>
    cases c with
    | hallMode =>
      refine .of_next ?_
      split
      · rename_i seq mode _
        split
        · exact h.congr rfl
        · split
          · exact h.congr rfl
          · obtain ⟨_, _, _, _, _, e⟩ := changeMode_frame mode (s.accept seq)
            rw [Emit.run_of_eq e]
            refine (TrunkLaw.kickAll ?_).dropFrame
            exact h.congr rfl
      · exact h
    | _ => cases hk
  | whole =>
    have answered (st b) : TrunkLaw (s.respond st b) := h.congr rfl
    cases c with
    | coldReset =>
      refine .of_next ((trunkLaw_iff _).2 fun t => ?_)
      simp only [State.cold, Table.get_replicate]
      exact ⟨by simp [TrunkRec.cold], fun _ => rfl, fun _ => rfl⟩
    | loadEvent =>
      refine execLoadEvent_keeps h fun _ => ?_
      have loaded : TrunkLaw s.takeUp := TrunkLaw.kickAll (h.congr rfl)
      exact loaded.postAll _
    | commitLayout =>
      have finish (r : State × List (List Notice)) (hr : TrunkLaw r.1) : TrunkLaw (s.finishCommit r) := by
        refine (TrunkLaw.kickAll ?_).postAll _
        exact hr.congr rfl
      refine execCommitLayout_keeps h answered fun _ => ?_
      rw [State.commit_eq]
      refine (finish _ (TrunkLaw.adopt ?_ _)).respond _ _
      exact h.congr rfl
    | reinit =>
      have finish (r : State × List (List Notice)) (hr : TrunkLaw r.1) : TrunkLaw (s.finishRestart r) := by
        refine (TrunkLaw.kickAll ?_).postAll _
        exact hr.congr (State.offers_trunks ..)
      refine execReinit_keeps h answered fun _ _ => ?_
      rw [State.restart_eq]
      refine (finish _ (TrunkLaw.adopt ?_ _)).respond _ _
      exact h.congr rfl
    | _ => cases hk
  | _ =>
    exact (exec_frame hk (by nofun) s).imp fun _ f => h.congr (by rw [f.signLine (by nofun) (by nofun) (by nofun)])

/-- Settles O55: only a trunk in service takes an exchange, and the overcurrent events move state, driver and hold-off together. -/
theorem trunkLawIsKept : Obligations.TrunkLawIsKept := fun _ _ hs h =>
  step_keeps (P := TrunkLaw) (fun _ h => h) (fun _ _ h => h.congr rfl) (fun c _ h => h.exec c) hs h

end Machine
end Sys2Proof
end

/-!
What the completions of the plain requests answer (R180, R184, R187, R204), how transfers begin and end (R177 to R183), and the clock (R190).
-/
section
namespace Sys2Proof
namespace Machine

/-! ## Bytes that carry an index -/

theorem byte_toNat {n : Nat} (h : n < 256) : (byte n).toNat = n := by
  rw [byte, BitVec.toNat_ofNat]
  exact Nat.mod_eq_of_lt h

theorem byte_fin_toNat {n : Nat} (i : Fin n) (h : n ≤ 256) : (byte i.val).toNat = i.val := byte_toNat (by omega)

/-- Two bytes carry any number below 65536. -/
theorem read16_bytes {n : Nat} (h : n < 65536) : read16 (byte (n / 256)) (byte n) = n := by
  rw [read16, byte_toNat (by omega), byte, BitVec.toNat_ofNat]
  omega

/-! ## The completion of a request -/

/-- A request of a catalogue code with a body of the right length has its command act on that body. -/
theorem exec_of_asks {c : Instr} {s : State} {code : Byte} {body bad : List Byte} {ok : List Byte → Bool} {act : List Byte → State}
    (hc : exec c s = .next (s.serve code ok bad act)) (h : s.asks code body) (hcode : inCatalogue code = true) (hok : ok body = true) :
    exec c s = .next (act body) := by
  rw [hc, State.serve_asks h hcode hok]

/-- A command takes the requests of a code, with a body of a length of its own. -/
def Serves (c : Instr) (code : Byte) (n : Nat) : Prop :=
  ∃ act : State → List Byte → State, ∀ s, exec c s = .next (s.serve code (bodyOf n) [] (act s))

theorem Serves.badLength {c : Instr} {code : Byte} {n : Nat} (hc : Serves c code n) (catalogue : inCatalogue code = true) {s : State}
    {body : List Byte} (h : s.asks code body) (length : body.length ≠ n) : exec c s = .next (s.answered .range []) := by
  obtain ⟨act, hact⟩ := hc
  rw [hact, State.serve_badLength h catalogue (by simpa [bodyOf] using length), State.respond_eq_answered]

/-- A command is the completion of some request of the catalogue. -/
def Completes (c : Instr) : Prop :=
  ∃ (code : Byte) (ok : List Byte → Bool) (bad : List Byte) (act : State → List Byte → State),
    ∀ s, exec c s = .next (s.serve code ok bad (act s))

theorem Serves.completes {c : Instr} {code : Byte} {n : Nat} (h : Serves c code n) : Completes c := by
  obtain ⟨act, h⟩ := h
  exact ⟨code, bodyOf n, [], act, h⟩

theorem Completes.unknown {c : Instr} (hc : Completes c) {s : State} {code : Byte} {body : List Byte} (h : s.asks code body)
    (hcode : code = 0 ∨ 16 < code.toNat) : exec c s = .next (s.answered .unknown []) := by
  obtain ⟨code', ok, bad, act, hact⟩ := hc
  have outside : inCatalogue code = false := by
    rcases hcode with rfl | high
    · rfl
    · simp [inCatalogue]; omega
  rw [hact, State.serve_unknown h outside, State.respond_eq_answered]

theorem writeLayout_serves (s : State) : exec .writeLayout s = .next (s.serve 0x09 writeLengthOk [0] fun body =>
    match writeRef body with
    | none => s.respond .range [0]
    | some ref =>
      match readItem ref (body.drop 3) with
      | .error position => s.respond .range [byte position]
      | .ok item => (s.setStaging (s.layout.staging.put item)).respond .ok []) := rfl

/-- The requests with a body of one length, with their codes and lengths (R204). -/
def fixedRequests : List (Instr × Byte × Nat) :=
  [(.readStatus, 0x01, 0), (.fetchNotices, 0x02, 1), (.readRoute, 0x03, 2), (.readExits, 0x04, 0), (.readZones, 0x05, 2),
    (.readSigns, 0x06, 2), (.readLines, 0x07, 0), (.readLayout, 0x08, 4), (.stageFromActive, 0x0A, 0), (.commitLayout, 0x0B, 0),
    (.setZoneLevel, 0x0C, 2), (.setExitClosure, 0x0D, 2), (.calibrateBeam, 0x0E, 1), (.storeLayout, 0x0F, 0), (.reinit, 0x10, 0)]

theorem serves_fixed : ∀ q ∈ fixedRequests, Serves q.1 q.2.1 q.2.2 ∧ inCatalogue q.2.1 = true := by
  unfold fixedRequests
  simp only [List.forall_mem_cons, List.not_mem_nil, false_imp_iff, implies_true, and_true]
  exact ⟨⟨⟨_, fun _ => rfl⟩, rfl⟩, ⟨⟨_, fun _ => rfl⟩, rfl⟩, ⟨⟨_, fun _ => rfl⟩, rfl⟩, ⟨⟨_, fun _ => rfl⟩, rfl⟩, ⟨⟨_, fun _ => rfl⟩, rfl⟩,
    ⟨⟨_, fun _ => rfl⟩, rfl⟩, ⟨⟨_, fun _ => rfl⟩, rfl⟩, ⟨⟨_, fun _ => rfl⟩, rfl⟩, ⟨⟨_, fun _ => rfl⟩, rfl⟩, ⟨⟨_, fun _ => rfl⟩, rfl⟩,
    ⟨⟨_, fun _ => rfl⟩, rfl⟩, ⟨⟨_, fun _ => rfl⟩, rfl⟩, ⟨⟨_, fun _ => rfl⟩, rfl⟩, ⟨⟨_, fun _ => rfl⟩, rfl⟩, ⟨⟨_, fun _ => rfl⟩, rfl⟩⟩

theorem mem_requests : ∀ c ∈ requests, c = .writeLayout ∨ ∃ q ∈ fixedRequests, q.1 = c := by decide

theorem requests_complete (c : Instr) (hc : c ∈ requests) : Completes c := by
  rcases mem_requests c hc with rfl | ⟨q, hq, rfl⟩
  · exact ⟨_, _, _, _, writeLayout_serves⟩
  · exact (serves_fixed q hq).1.completes

/-- Settles O9: every completion goes through `serve`, which answers codes outside the catalogue and wrong lengths itself. -/
theorem malformedRequestsAreRefused : Obligations.MalformedRequestsAreRefused := by
  refine ⟨fun c hc s code body hcode h => (requests_complete c hc).unknown h hcode, ?_, ?_, ?_⟩
  · intro q hq s body h length
    obtain ⟨serves, catalogue⟩ := serves_fixed q hq
    exact serves.badLength catalogue h length
  · intro s body h noRef
    rw [writeLayout_serves, State.serve_badLength h rfl (by simp [writeLengthOk, noRef])]
    rfl
  · intro s body ref h hasRef length
    rw [writeLayout_serves, State.serve_badLength h rfl (by simpa [writeLengthOk, hasRef] using length)]
    rfl

/-- Settles O10: the two bodies, and FETCH_NOTICES' clearing of the snapshot's flags. -/
theorem statusAndNoticesAreRead : Obligations.StatusAndNoticesAreRead := by
  refine ⟨fun s h => (exec_of_asks rfl h rfl rfl).trans rfl, fun s n h low high => ?_, fun s n h bad => ?_⟩
  · refine (exec_of_asks rfl h rfl rfl).trans ?_
    have taken : 1 ≤ arg [n] 0 ∧ arg [n] 0 ≤ 8 := ⟨low, high⟩
    rw [if_pos taken]
    simp only [noticesBody, List.length_take]
    rfl
  · refine (exec_of_asks rfl h rfl rfl).trans ?_
    have refused : ¬ (1 ≤ arg [n] 0 ∧ arg [n] 0 ≤ 8) := by
      rintro ⟨low, high⟩
      rcases bad with rfl | bad
      · exact absurd low (by decide)
      · exact absurd high (Nat.not_le.2 bad)
    rw [if_neg refused]
    rfl

/-! ## The items of the banks -/

/-- The reference of an item reads back from its bytes (R204). -/
theorem ItemRef.read_bytes (ref : ItemRef) : ∃ table hi lo, ref.bytes = [table, hi, lo] ∧ ItemRef.read table.toNat (read16 hi lo) = some ref := by
  cases ref with
  | params => exact ⟨_, _, _, rfl, by rw [read16_bytes (by omega)]; rfl⟩
  | node i => exact ⟨_, _, _, rfl, by rw [read16_bytes (by omega)]; exact dif_pos i.isLt⟩
  | segment i => exact ⟨_, _, _, rfl, by rw [read16_bytes (by omega)]; exact dif_pos i.isLt⟩
  | exit i => exact ⟨_, _, _, rfl, by rw [read16_bytes (by omega)]; exact dif_pos i.isLt⟩
  | sign i => exact ⟨_, _, _, rfl, by rw [read16_bytes (by omega)]; exact dif_pos i.isLt⟩
  | passage i => exact ⟨_, _, _, rfl, by rw [read16_bytes (by omega)]; exact dif_pos i.isLt⟩
  | beam i => exact ⟨_, _, _, rfl, by rw [read16_bytes (by omega)]; exact dif_pos i.isLt⟩
  | line i => exact ⟨_, _, _, rfl, by rw [read16_bytes (by omega)]; exact dif_pos i.isLt⟩

/-- READ_LAYOUT answers the fields of the item its reference names in the bank its bank byte names (R12). -/
theorem execReadLayout_answers {s : State} {bank : Byte} {ref : ItemRef} {a : Layout} (h : s.asks 0x08 (bank :: ref.bytes))
    (named : s.bank bank.toNat = some a) :
    exec .readLayout s = .next (s.answered .ok (bank :: ref.bytes ++ a.fields ref)) := by
  obtain ⟨table, hi, lo, bytes, read⟩ := ref.read_bytes
  rw [bytes] at h
  refine (exec_of_asks rfl h rfl rfl).trans ?_
  have item : ItemRef.read (arg [bank, table, hi, lo] 1) (arg [bank, table, hi, lo] 2 * 256 + arg [bank, table, hi, lo] 3) = some ref := read
  have first : s.bank (arg [bank, table, hi, lo] 0) = some a := named
  have same : byte (arg [bank, table, hi, lo] 0) = bank := by simp [arg, byte]
  simp only [item, first, same]
  rfl

/-- Settles O13: the bank byte chooses the bank, the reference the item; without either the answer is RANGE. -/
theorem layoutIsRead : Obligations.LayoutIsRead := by
  refine ⟨?_, ?_, ?_⟩
  · rintro s _ ref h rfl
    exact execReadLayout_answers h rfl
  · rintro s _ ref h rfl
    exact execReadLayout_answers h rfl
  · intro s bank table hi lo h bad
    refine (exec_of_asks rfl h rfl rfl).trans ?_
    rcases bad with high | noItem
    · have noBank : s.bank (arg [bank, table, hi, lo] 0) = none := by
        show s.bank bank.toNat = none
        generalize bank.toNat = b at high
        match b with
        | 0 | 1 => omega
        | _ + 2 => rfl
      simp only [noBank]
      rfl
    · have noItem : ItemRef.read (arg [bank, table, hi, lo] 1) (arg [bank, table, hi, lo] 2 * 256 + arg [bank, table, hi, lo] 3)
          = none := noItem
      simp only [noItem]
      cases s.bank (arg [bank, table, hi, lo] 0) with
      | none => rfl
      | some a => rfl

/-- Settles O14: WRITE_LAYOUT puts the item its reader answers into STAGING or reports the reader's position, and the bank is replaced whole. -/
theorem stagingIsWritten : Obligations.StagingIsWritten := by
  refine ⟨?_, ?_, fun s h => (exec_of_asks rfl h rfl rfl).trans rfl⟩
  · intro s body ref item h hasRef length read
    rw [exec_of_asks (writeLayout_serves s) h rfl (by simpa [writeLengthOk, hasRef] using length), hasRef]
    simp only [read]
    rfl
  · intro s body ref position h hasRef length read
    rw [exec_of_asks (writeLayout_serves s) h rfl (by simpa [writeLengthOk, hasRef] using length), hasRef]
    simp only [read]
    rfl

/-- The act of CALIBRATE_BEAM on the byte of a channel (R52). -/
theorem execCalibrateBeam_asks {s : State} {c : BeamIdx} (h : s.asks 0x0E [byte c.val]) : exec .calibrateBeam s = .next (
    if !(s.active.beams.get c).enabled then s.respond .range []
    else if s.alarm.mode = .evacuate then s.respond .mode []
    else if (s.zones.get (s.active.beams.get c).zone).effective ≠ 0 then s.respond .mode []
    else
      match (s.beams.get c).corrected with
      | none => s.respond .lowSignal (word16 0)
      | some v =>
        if v < Config.calibrateMin then s.respond .lowSignal (word16 v)
        else (s.setReference c v).respond .ok (word16 v)) := by
  refine (exec_of_asks rfl h rfl rfl).trans ?_
  have named : arg [byte c.val] 0 = c.val := byte_fin_toNat c (by decide)
  have inRange : arg [byte c.val] 0 < 8 := by rw [named]; exact c.isLt
  have same : (⟨arg [byte c.val] 0, inRange⟩ : BeamIdx) = c := Fin.ext named
  rw [dif_pos inRange]
  simp only [same] <;> rfl

/-- Settles O19: the tests of R52 in their order, and the new reference in both banks. -/
theorem beamIsCalibrated : Obligations.BeamIsCalibrated := by
  refine ⟨?_, ?_, ?_, ?_⟩
  · intro s ch h bad
    by_cases inRange : ch.toNat < 8
    · rcases bad with high | ⟨c, named, disabled⟩
      · omega
      · have same : ch = byte c.val := BitVec.eq_of_toNat_eq (by rw [byte_fin_toNat c (by decide), named])
        subst same
        rw [execCalibrateBeam_asks h]
        simp [disabled, State.respond_eq_answered]
    · refine (exec_of_asks rfl h rfl rfl).trans ?_
      rw [dif_neg (show ¬ arg [ch] 0 < 8 from inRange)]
      rfl
  · intro s c h enabled bad
    rw [execCalibrateBeam_asks h]
    rcases bad with mode | level
    · simp [enabled, mode, State.respond_eq_answered]
    · simp [enabled, level, State.respond_eq_answered]
  · intro s c h enabled mode level low
    rw [execCalibrateBeam_asks h]
    cases corrected : (s.beams.get c).corrected with
    | none => simp [enabled, mode, level, State.respond_eq_answered]
    | some v =>
      rw [corrected] at low
      simp [enabled, mode, level, show v < Config.calibrateMin from low, State.respond_eq_answered]
  · intro s c v h enabled mode level corrected high
    rw [execCalibrateBeam_asks h]
    simp [enabled, mode, level, corrected, show ¬ v < Config.calibrateMin from Nat.not_lt.2 high]
    rfl

/-! ## The layout store -/

/-- Settles O20: the refusals of R195 in their order, and each completion in the phase it belongs to. -/
theorem layoutIsStored : Obligations.LayoutIsStored := by
  refine ⟨?_, ?_, ?_, ?_, ?_, ?_, ?_, ?_, ?_⟩
  · intro s h mode
    exact (exec_of_asks rfl h rfl rfl).trans (by simp [mode, State.respond_eq_answered])
  · intro s h mode busy
    exact (exec_of_asks rfl h rfl rfl).trans (by simp [mode, busy, State.respond_eq_answered])
  · intro s h mode idle empty
    exact (exec_of_asks rfl h rfl rfl).trans (by simp [mode, idle, empty, State.respond_eq_answered])
  · intro s h mode idle full
    refine (exec_of_asks rfl h rfl rfl).trans ?_
    simp only [mode, idle, full]
    rfl
  · intro s erasing
    exact congrArg Host.Outcome.next (if_pos erasing)
  · intro s a writing copy
    show execWriteComplete .good s = _
    simp only [execWriteComplete, writing, copy]
    rfl
  · intro s a bytes writing copy
    show execWriteComplete (.faulty bytes) s = _
    simp only [execWriteComplete, writing, copy]
    rfl
  · intro s a verifying copy image
    show execVerifyComplete s = _
    have same : s.store.image = .written a.imageBytes := image
    simp only [execVerifyComplete, verifying, copy, if_pos same]
    rfl
  · intro s a verifying copy image
    show execVerifyComplete s = _
    have other : ¬ s.store.image = .written a.imageBytes := image
    simp only [execVerifyComplete, verifying, copy, if_neg other]
    rfl

/-! ## Transfers -/

/-- Settles O6: READY, the awaited byte and the held response decide what the first clocks and the first byte do. -/
theorem transfersBegin : Obligations.TransfersBegin := by
  refine ⟨?_, ?_, ?_, ?_, ?_⟩
  · intro s ready
    exact congrArg Host.Outcome.next (if_pos ready)
  · intro s ready awaiting receiving fetching
    show execLostTransfer s = _
    simp [execLostTransfer, ready, awaiting, receiving, fetching, State.setPort, Port.setFlag, Flags.put]
  · intro s awaiting
    show execFirstByte 0xFF s = _
    simp [execFirstByte, awaiting, Config.fetchMarker]
    rfl
  · intro s n awaiting marker none
    refine congrArg Host.Outcome.next ((if_pos awaiting).trans ((if_neg marker).trans ?_))
    simp [Port.beginRequest, none, State.setPort]
  · intro s n awaiting marker held
    refine congrArg Host.Outcome.next ((if_pos awaiting).trans ((if_neg marker).trans ?_))
    simp [Port.beginRequest, held, State.setPort, Port.setFlag, Flags.put]

/-- Settles O7: the two tests of R179 on the bytes received. -/
theorem requestEnds : Obligations.RequestEnds := by
  intro s n bytes receiving buffer length
  have ended : (s.port.state = .receiving && bytes.length = (s.port.buffer.headD 0).toNat) = true := by
    simp [receiving, buffer, length]
  have whole : requestOk (s.port.buffer ++ bytes) = true ↔ 2 ≤ n.toNat ∧ (n :: bytes).sum = 0 := by
    rw [requestOk, Bool.and_eq_true, checkOk_iff, buffer]
    simp
  constructor
  · intro good
    show execRequestEnd bytes s = _
    simp only [execRequestEnd, ended, whole.2 good, if_true]
    rw [buffer]
    rfl
  · intro bad
    have refused : requestOk (s.port.buffer ++ bytes) = false := by
      rw [Bool.eq_false_iff, Ne, whole]
      rintro ⟨low, sum⟩
      rcases bad with short | wrong
      · omega
      · exact wrong sum
    show execRequestEnd bytes s = _
    simp only [execRequestEnd, ended, refused, if_true]
    rfl

/-- Settles O8: what the gap limit ends, what the fetch's end frees, and the byte of each clock. -/
theorem transfersEnd : Obligations.TransfersEnd := by
  refine ⟨?_, ?_, ?_, ?_, ?_, ?_, ?_, fun _ => rfl, ?_⟩
  · intro s lost
    refine congrArg Host.Outcome.next ((if_pos lost).trans ?_)
    simp [State.readyAfterLost, State.setPort, Bool.decide_or]
  · intro s lost awaiting
    show execConsoleGapLimit s = _
    simp [execConsoleGapLimit, lost, awaiting]
    rfl
  · intro s lost awaiting receiving
    show execConsoleGapLimit s = _
    simp [execConsoleGapLimit, lost, awaiting, receiving, State.setPort, Port.refuseCheck, Port.hold, Port.setFlag, Flags.put]
  · intro s lost awaiting fetching
    show execConsoleGapLimit s = _
    simp [execConsoleGapLimit, lost, awaiting, fetching, State.setPort, Port.endFetch]
  · intro s fetching held
    show execFetchEnd s = _
    simp [execFetchEnd, fetching, held]
    rfl
  · intro p k other
    unfold Port.clocksOut
    cases state : p.state with
    | fetching => exact absurd state other
    | free => rfl
    | receiving => rfl
    | taking => rfl
    | held => rfl
  · intro p r k fetching held
    have out : p.clocksOut k = r.bytes.getD k 0xFF := by
      simp only [Port.clocksOut, fetching, Port.fetchOut, held]
      rfl
    rw [out, List.getD_eq_getElem?_getD]
    exact ⟨fun b hb => by rw [hb]; rfl, fun past => by rw [List.getElem?_eq_none past]; rfl⟩
  · intro p k fetching none
    simp only [Port.clocksOut, fetching, Port.fetchOut, none]
    cases k <;> rfl

/-! ## The clock -/

theorem clock_succ_eq_zero_iff (c : Ticks) : c + 1 = 0 ↔ c = 0xFFFFFFFF := by
  constructor
  · intro h
    bv_omega
  · rintro rfl
    rfl

/-- The tick at the wrap, as CLOCK_WRAP has it (R190). -/
theorem execClockWrap_wraps {s : State} (h : s.port.clock = 0xFFFFFFFF) :
    exec .hallClockTick s = exec .clockWrap s ∧ exec .clockWrap s = .next { s with
      port := Port.post { s.port with clock := 0, notices := s.port.notices.map Notice.atZero } Notice.clockWrap } := by
  have wraps := (clock_succ_eq_zero_iff s.port.clock).2 h
  have wrapped : exec .clockWrap s = .next { s with port := s.port.tick } := congrArg Host.Outcome.next (if_pos wraps)
  refine ⟨wrapped.symm, wrapped.trans ?_⟩
  simp only [Port.tick, wraps, if_true]

/-- Settles O5: the tick below the last count, and the wrap with and without room for its notice. -/
theorem clockTicks : Obligations.ClockTicks := by
  refine ⟨?_, ?_, ?_⟩
  · intro s below
    have goesOn : ¬ s.port.clock + 1 = 0 := fun h => below ((clock_succ_eq_zero_iff _).1 h)
    show execHallClockTick s = _
    simp only [execHallClockTick, Port.tick, goesOn, if_false]
  · intro s h room
    refine ⟨(execClockWrap_wraps h).1, (execClockWrap_wraps h).2.trans ?_⟩
    rw [Port.post, if_pos (by simpa [Config.noticeCapacity] using room)]
    rfl
  · intro s h full
    refine ⟨(execClockWrap_wraps h).1, (execClockWrap_wraps h).2.trans ?_⟩
    rw [Port.post, if_neg (by simpa [Config.noticeCapacity] using full)]
    rfl

end Machine
end Sys2Proof
end

/-!
The reset values (1.5 and each block's reset rule), the starts and phases of a run (R75 to R79), the bus of the boundary link (R143 to R152)
and the transmitters of the alarm lines (R172 to R174).
-/
section
namespace Sys2Proof
namespace Machine

/-! ## The reset -/

/-- COLD_RESET keeps the pins, the model's counter and queue, and an image no store was erasing or writing (R197). -/
theorem execColdReset_eq (s : State) : exec .coldReset s = .next { State.reset with
    exits := { State.reset.exits with
      pins := s.exits.pins
      lines := Table.ofFn fun l => .input (s.exits.pins.get l) none }
    store := { State.reset.store with
      image := if s.store.state = .erasing ∨ s.store.state = .writing then .erased else s.store.image }
    freeCount := s.freeCount
    pending := s.pending } := by
  have image : s.store.imageAfterReset =
      if s.store.state = .erasing ∨ s.store.state = .writing then .erased else s.store.image := by
    unfold Store.imageAfterReset
    split <;> simp [*]
  show execColdReset s = _
  rw [execColdReset, image]
  rfl

/-- Settles O3: `State.cold` block by block, and the five parts COLD_RESET hands it. -/
theorem resetValues : Obligations.ResetValues :=
  ⟨rfl, by decide, fun _ => Table.get_replicate .., fun _ => Table.get_replicate .., fun _ => Table.get_replicate .., rfl, rfl, rfl, rfl,
    rfl, fun _ => Table.get_replicate .., fun _ => Table.get_replicate .., rfl, fun _ => Table.get_replicate ..,
    fun _ => Table.get_replicate .., rfl, rfl, rfl, rfl, rfl, rfl, fun l => by cases l <;> rfl, rfl, rfl, rfl, rfl, rfl, rfl, rfl, rfl,
    rfl, execColdReset_eq⟩

/-! ## The Route Engine -/

/-- A run in the phase of a completion does that phase's work (R79). -/
theorem State.advanceRun_of_phase {s : State} {r : Run} {phase : Phase} (run : s.engine.run = some r) (h : r.phase = phase)
    (work : Layout → Run → Run) :
    s.advanceRun phase work = { s with engine := { s.engine with run := some (work s.active r) } } := by
  simp only [State.advanceRun, run, h, if_true]
  rfl

/-- G is 0 or above 0. -/
theorem ite_gain_pos {α : Type} (g : Nat) (x y : α) : (if 0 < g then x else y) = if g = 0 then y else x := by
  cases g <;> simp

/-- An exit's source cost is the sum of base and penalty where it is a source, and INF elsewhere (R83, R84). -/
theorem Layout.sourceCost_eq (a : Layout) (snap : Snapshot) (penalty : ExitIdx → Nat) (e : ExitIdx) : a.sourceCost snap penalty e =
    if a.exits.has e = true ∧ (snap.exits.get e).usable = true ∧ (snap.exits.get e).base + penalty e ≤ Config.maxCost then
      (snap.exits.get e).base + penalty e
    else Config.inf := by
  unfold Layout.sourceCost sumCost
  by_cases source : a.exits.has e = true ∧ (snap.exits.get e).usable = true
  · simp [source.1, source.2]
  · rw [if_neg (by simpa using source), if_neg fun h => source ⟨h.1, h.2.1⟩]

/-- A segment's cost is the product of R81 over 64, rounded up. -/
theorem Layout.segCost_ceil (a : Layout) (levels : Table Level 48) (g : SegRec) :
    g.length * Config.widthFactor g.width * a.params.hazard.get (levels.get g.zone) ≤ 64 * a.segCost levels g
    ∧ 64 * a.segCost levels g < g.length * Config.widthFactor g.width * a.params.hazard.get (levels.get g.zone) + 64 := by
  have ceil (product : Nat) : product ≤ 64 * ((product + 63) / 64) ∧ 64 * ((product + 63) / 64) < product + 64 := by omega
  exact ceil _

/-- A run starts 1 s after the last start, or takes refresh due while one is in flight (R75, R77). -/
theorem execRefreshIntervalExpiry_expired {s : State} {start : Ticks} (last : s.engine.lastStart = some start)
    (expired : 100 ≤ (s.port.clock - start).toNat) : exec .refreshIntervalExpiry s = .next (
      match s.engine.run with
      | none => s.startRun
      | some _ => s.setEngine { s.engine with refreshDue := true }) := by
  have h : s.refreshExpired = true := by
    simp only [State.refreshExpired, last]
    exact decide_eq_true expired
  exact congrArg Host.Outcome.next (if_pos h)

/-- Settles O22: each start and each completion, by the phase of the run in flight. -/
theorem runsAdvance : Obligations.RunsAdvance := by
  refine ⟨?_, ?_, ?_, ?_, ?_, ?_, ?_, ?_, Layout.sourceCost_eq, ?_⟩
  · intro s run pending
    exact congrArg Host.Outcome.next (if_pos (by simp [run, pending]))
  · intro s start run last expired
    rw [execRefreshIntervalExpiry_expired last expired, run]
    exact (congrArg Host.Outcome.next (if_pos (by simp [run]))).symm
  · intro s start run last expired
    rw [execRefreshIntervalExpiry_expired last expired]
    obtain ⟨r, run⟩ := Option.isSome_iff_exists.1 run
    rw [run]
    rfl
  · intro s r run phase
    exact congrArg Host.Outcome.next (State.advanceRun_of_phase run phase _)
  · rintro s r run phase p rfl
    exact congrArg Host.Outcome.next (State.advanceRun_of_phase run phase _)
  · intro s r run phase
    refine congrArg Host.Outcome.next ((State.advanceRun_of_phase run phase _).trans ?_)
    simp only [Run.doLoad, ite_gain_pos]
  · rintro s r run phase p rfl
    exact congrArg Host.Outcome.next (State.advanceRun_of_phase run phase _)
  · rintro s r nodes run phase rfl
    refine congrArg Host.Outcome.next ((State.advanceRun_of_phase run phase _).trans ?_)
    simp only [Run.doNexthop, ite_gain_pos]
    rfl
  · rintro a levels g product rfl
    exact a.segCost_ceil levels g

/-! ## The boundary link -/

/-- What an onward route through a passage offers: its list behind the own id while it is HEARD and the list has room (R150). -/
theorem onwardPath_eq_some {own : HallId} {q : PassageRec} {path : List HallId} (state : q.state = .heard) (list : q.path = some path)
    (room : path.length ≤ 3) : onwardPath own q = some (own :: path) := by
  simp [onwardPath, state, list, Nat.lt_succ_of_le room]

theorem onwardPath_eq_none {own : HallId} {q : PassageRec}
    (h : q.state = .stale ∨ q.path = none ∨ ∃ path, q.path = some path ∧ 3 < path.length) : onwardPath own q = none := by
  unfold onwardPath
  split
  · rename_i path state list
    rcases h with stale | none | ⟨path', list', long⟩
    · simp [stale] at state
    · simp [none] at list
    · cases list.symm.trans list'
      exact if_neg (by omega)
  · rfl

/-- What the Split Passage Rule and the Path Limit ask of an entry whose exit's node is reached and routed to another exit (R149, R150). -/
theorem EntryRule.of_route {a : Layout} {passages : Table PassageRec 8} {pub : Published} {p : PassageIdx} {e r : ExitIdx} {x : ExitCfg}
    {entry : AdvertEntry} (reached : (pub.field.nodes.get x.node).cost ≠ Config.inf)
    (route : (pub.field.nodes.get x.node).route = some r) (other : r ≠ e) (passage : entry.passage = p)
    (door : ∀ y, a.exits.get r = some y → y.kind = .door →
      entry.cost = (pub.field.nodes.get x.node).cost ∧ entry.path = [a.params.hallId])
    (onward : ∀ y q path, a.exits.get r = some y → y.kind = .passage → y.passage = some q → (passages.get q).state = .heard →
      (passages.get q).path = some path → path.length ≤ 3 →
      entry.cost = (pub.field.nodes.get x.node).cost ∧ entry.path = a.params.hallId :: path)
    (limit : ∀ y q, a.exits.get r = some y → y.kind = .passage → y.passage = some q →
      ((passages.get q).state = .stale ∨ (passages.get q).path = none
        ∨ ∃ path, (passages.get q).path = some path ∧ 3 < path.length) →
      entry.cost = Config.inf ∧ entry.path = [a.params.hallId]) : EntryRule a passages pub p e x entry := by
  have only {r' : ExitIdx} (h : (pub.field.nodes.get x.node).route = some r') : r' = r := Option.some.inj (h.symm.trans route)
  refine ⟨passage, fun h => absurd h reached, fun h => absurd (only h).symm other, ?_, ?_, ?_⟩
  · intro _ r' y h _
    exact only h ▸ door y
  · intro _ r' y q path h _
    exact only h ▸ onward y q path
  · intro r' y q h _
    exact only h ▸ limit y q

/-- The entry of a passage by the route of its exit's node (R149, R150). -/
theorem buildEntry_entryRule {a : Layout} (passages : Table PassageRec 8) (pub : Published) (p : PassageIdx) {e : ExitIdx} {x : ExitCfg}
    (defined : a.exits.get e = some x) : EntryRule a passages pub p e x (buildEntry a passages pub p e) := by
  unfold buildEntry
  simp only [defined]
  by_cases unreached : (pub.field.nodes.get x.node).cost = Config.inf
  · rw [if_pos unreached]
    exact ⟨rfl, fun _ => ⟨rfl, rfl⟩, fun _ => ⟨rfl, rfl⟩, fun h => absurd unreached h, fun h => absurd unreached h,
      fun _ _ _ _ _ _ _ _ _ => ⟨rfl, rfl⟩⟩
  · rw [if_neg unreached]
    cases route : (pub.field.nodes.get x.node).route with
    | none =>
      exact ⟨rfl, fun h => absurd h unreached, fun h => (nomatch route.symm.trans h), fun _ _ _ h => (nomatch route.symm.trans h),
        fun _ _ _ _ _ h => (nomatch route.symm.trans h), fun _ _ _ h => (nomatch route.symm.trans h)⟩
    | some r =>
      dsimp only
      by_cases back : r = e
      · subst back
        rw [if_pos rfl]
        have only {r' : ExitIdx} (h : (pub.field.nodes.get x.node).route = some r') : r' = r := Option.some.inj (h.symm.trans route)
        exact ⟨rfl, fun h => absurd h unreached, fun _ => ⟨rfl, rfl⟩, fun _ _ _ h ne => absurd (only h) ne,
          fun _ _ _ _ _ h ne => absurd (only h) ne, fun _ _ _ h ne => absurd (only h) ne⟩
      · rw [if_neg back]
        cases exit : a.exits.get r with
        | none =>
          dsimp only
          exact .of_route unreached route back rfl (fun y h => nomatch exit.symm.trans h)
            (fun y _ _ h => nomatch exit.symm.trans h) (fun y _ h => nomatch exit.symm.trans h)
        | some y =>
          have only {y' : ExitCfg} (h : a.exits.get r = some y') : y' = y := Option.some.inj (h.symm.trans exit)
          cases kind : y.kind with
          | door =>
            simp only [kind]
            refine .of_route unreached route back rfl (fun _ _ _ => ⟨rfl, rfl⟩) ?_ ?_
            · intro y' _ _ h hk
              exact absurd ((only h ▸ hk : y.kind = .passage).symm.trans kind) (by simp)
            · intro y' _ h hk
              exact absurd ((only h ▸ hk : y.kind = .passage).symm.trans kind) (by simp)
          | passage =>
            have notDoor (y' : ExitCfg) (h : a.exits.get r = some y') (hk : y'.kind = .door) : False :=
              absurd ((only h ▸ hk : y.kind = .door).symm.trans kind) (by simp)
            cases through : y.passage with
            | none =>
              simp only [kind, through]
              refine .of_route unreached route back rfl (fun y' h hk => (notDoor y' h hk).elim) ?_ ?_
              · intro y' _ _ h _ hq
                exact absurd ((only h ▸ hq : y.passage = some _).symm.trans through) (by simp)
              · intro y' _ h _ hq
                exact absurd ((only h ▸ hq : y.passage = some _).symm.trans through) (by simp)
            | some q =>
              have same {y' : ExitCfg} {q' : PassageIdx} (h : a.exits.get r = some y') (hq : y'.passage = some q') : q' = q :=
                Option.some.inj ((only h ▸ hq).symm.trans through)
              simp only [kind, through]
              cases ahead : onwardPath a.params.hallId (passages.get q) with
              | none =>
                refine .of_route unreached route back rfl (fun y' h hk => (notDoor y' h hk).elim) ?_ (fun _ _ _ _ _ _ => ⟨rfl, rfl⟩)
                intro y' q' path h _ hq state list room
                rw [same h hq] at state list
                exact nomatch ahead.symm.trans (onwardPath_eq_some state list room)
              | some path =>
                refine .of_route unreached route back rfl (fun y' h hk => (notDoor y' h hk).elim) ?_ ?_
                · intro y' q' path' h _ hq state list room
                  rw [same h hq] at state list
                  exact ⟨rfl, Option.some.inj (ahead.symm.trans (onwardPath_eq_some state list room))⟩
                · intro y' q' h _ hq limit
                  rw [same h hq] at limit
                  exact nomatch ahead.symm.trans (onwardPath_eq_none limit)

/-- Settles O28: what each bus event and each interval does, and `buildEntry_entryRule` for the entries. -/
theorem busTurnsAndIntervals : Obligations.BusTurnsAndIntervals := by
  refine ⟨?_, ?_, ?_, ?_, ?_, fun _ => rfl, ?_, fun _ passages pub p _ _ h => buildEntry_entryRule passages pub p h, ?_⟩
  · intro s a waiting free
    show execBusFree false s = _
    simp [execBusFree, State.sending, free, Boundary.startFrame, waiting, State.setBoundary]
  · intro s free
    show execBusFree true s = _
    simp [execBusFree, State.sending, free, State.badFrame, State.setBoundary, bump, Config.countMax]
  · intro s cutOff sending
    exact congrArg Host.Outcome.next (if_pos sending)
  · intro s a flight active
    show execLostArbitration s = _
    simp [execLostArbitration, flight, active, State.setBoundary]
  · intro s a flight inactive
    show execLostArbitration s = _
    simp [execLostArbitration, flight, inactive, State.setBoundary]
  · intro s built p last expired owed active published
    have due : s.advertExpired = true := by
      simp only [State.advertExpired, last]
      exact decide_eq_true expired
    show execAdvertIntervalExpiry s = _
    simp [execAdvertIntervalExpiry, published, due, owed, active, State.build, buildAdvert, State.setBoundary]
  · intro s seen watch expired
    have due : s.passed seen Config.duplicateTime = true := decide_eq_true expired
    show execDuplicateWatchExpiry s = _
    simp [execDuplicateWatchExpiry, watch, due, State.setBoundary]

/-! ## The transmitters of the alarm lines -/

/-- The frame being taken is the first of the intake (R168). -/
theorem State.taken_of_intake {s : State} {f : IntakeFrame} {rest : List IntakeFrame} (handler : s.alarm.handler = .taking)
    (intake : s.alarm.intake = f :: rest) : s.taken = some f := by
  simp [State.taken, handler, intake]

/-- A frame that leaves the intake leaves the rest (R168). -/
theorem State.dropFrame_of_intake {s : State} {f : IntakeFrame} {rest : List IntakeFrame} (intake : s.alarm.intake = f :: rest) :
    s.dropFrame = { s with alarm := { s.alarm with intake := rest, handler := if rest.isEmpty then .idle else .taking } } := by
  simp [State.dropFrame, intake]

@[simp] theorem Alarm.setLine_intake (a : Alarm) (l : AlarmLine) (r : AlarmLineRec) : (a.setLine l r).intake = a.intake := by
  cases l <;> rfl

/-- Settles O36: the request reaches its line's transmitter, and the frame taken leaves the intake. -/
theorem egressStatusIsSent : Obligations.EgressStatusIsSent := by
  refine ⟨fun _ _ => rfl, ?_, ?_, ?_, ?_, ?_⟩
  · intro s l seq rest handler intake
    show execSupervise s = _
    simp only [execSupervise, State.taken_of_intake handler intake, State.dropFrame_of_intake intake]
  · intro s l seq rest handler intake idle
    show execStatusRequest s = _
    simp only [execStatusRequest, State.taken_of_intake handler intake, State.request, idle]
    rw [State.dropFrame_of_intake (rest := rest) ((Alarm.setLine_intake ..).trans intake)]
    rfl
  · intro s l seq rest handler intake sending
    obtain ⟨f, sending⟩ := Option.isSome_iff_exists.1 sending
    show execStatusRequest s = _
    simp only [execStatusRequest, State.taken_of_intake handler intake, State.request, sending]
    rw [State.dropFrame_of_intake (rest := rest) ((Alarm.setLine_intake ..).trans intake)]
    simp only [State.setLine]
  · intro s l sending none
    obtain ⟨f, sending⟩ := Option.isSome_iff_exists.1 sending
    show execEgressStatusSent l s = _
    simp only [execEgressStatusSent, sending, none]
    rfl
  · intro s l seq sending request
    obtain ⟨f, sending⟩ := Option.isSome_iff_exists.1 sending
    show execEgressStatusSent l s = _
    simp only [execEgressStatusSent, sending, request]
    rfl

end Machine
end Sys2Proof
end

/-!
What an adoption of a new ACTIVE leaves in each record of each block (R19 to R21, R39, R55, R64, R67, R72, R140, R156, R158).
-/
section
namespace Sys2Proof
namespace Machine

/-! ## Parts that each take one record of a table -/

/-- Parts that each replace one record of a table, by a value formed from that record, replace each record of their list once. -/
theorem Emit.each_pointwise {α : Type} {n : Nat} {f : Fin n → Emit} {get : State → Fin n → α} {Inv : State → Prop}
    {value : Fin n → α → α} (keeps : ∀ i t, Inv t → Inv (f i t).1)
    (other : ∀ i t j, Inv t → j ≠ i → get (f i t).1 j = get t j) (own : ∀ i t, Inv t → get (f i t).1 i = value i (get t i))
    {l : List (Fin n)} (nodup : l.Nodup) {s : State} (hs : Inv s) (j : Fin n) :
    get (Emit.each l f s).1 j = if j ∈ l then value j (get s j) else get s j := by
  induction l generalizing s with
  | nil => rfl
  | cons i l ih =>
    rw [List.nodup_cons] at nodup
    rw [Emit.each_cons, ih nodup.2 (keeps i s hs)]
    by_cases hj : j = i
    · subst hj
      rw [if_neg nodup.1, if_pos List.mem_cons_self, own j s hs]
    · rw [other i s j hs hj]
      simp [hj]

/-- The whole table, when every record has its part. -/
theorem Emit.each_finRange {α : Type} {n : Nat} {f : Fin n → Emit} {get : State → Fin n → α} {Inv : State → Prop}
    {value : Fin n → α → α} (keeps : ∀ i t, Inv t → Inv (f i t).1)
    (other : ∀ i t j, Inv t → j ≠ i → get (f i t).1 j = get t j) (own : ∀ i t, Inv t → get (f i t).1 i = value i (get t i))
    {s : State} (hs : Inv s) (j : Fin n) : get (Emit.each (List.finRange n) f s).1 j = value j (get s j) := by
  rw [Emit.each_pointwise keeps other own (List.nodup_finRange n) hs, if_pos (List.mem_finRange j)]

/-! ## Channels and zones -/

/-- A channel under a layout that enables it or not, where the one before did or did not (R55). -/
def beamUnder (now : Ticks) (old new : Bool) (b : BeamRec) : BeamRec :=
  match old, new with
  | false, true => { BeamRec.cold with state := .warming, warmStart := some now }
  | true, false => BeamRec.cold
  | _, _ => b

theorem beamAdopt_get (old : Layout) (ch : BeamIdx) (s : State) : (beamAdopt old ch s).1.beams.get ch =
    beamUnder s.port.clock (old.beams.get ch).enabled (s.active.beams.get ch).enabled (s.beams.get ch) := by
  unfold beamAdopt beamUnder
  dsimp only
  cases (old.beams.get ch).enabled <;> cases (s.active.beams.get ch).enabled <;> simp

theorem adoptBeams_get (old : Layout) (s : State) (c : BeamIdx) : (adoptBeams old s).1.beams.get c =
    beamUnder s.port.clock (old.beams.get c).enabled (s.active.beams.get c).enabled (s.beams.get c) := by
  refine Emit.each_finRange (s := s) (f := beamAdopt old) (get := fun t => t.beams.get) (Inv := fun t => ∃ b, t = { s with beams := b })
    (value := fun i => beamUnder s.port.clock (old.beams.get i).enabled (s.active.beams.get i).enabled) ?_ ?_ ?_ ⟨s.beams, rfl⟩ c
  · rintro i _ ⟨b, rfl⟩
    obtain ⟨_, h⟩ := beamAdopt_frame old i { s with beams := b }
    exact ⟨_, h⟩
  · rintro i _ j ⟨b, rfl⟩ hj
    obtain ⟨_, h⟩ := beamAdopt_frame old i { s with beams := b }
    rw [h]
    exact Table.get_set_ne _ _ hj
  · rintro i _ ⟨b, rfl⟩
    exact beamAdopt_get old i { s with beams := b }

/-- The panel level of a zone under a new map (R21, R27). -/
def HallParams.panelUnder (p : HallParams) (r : ZoneRec) : Level :=
  match r.panelState with
  | .prealarm => p.prealarmLevel
  | .alarm => p.alarmLevel
  | .normal => r.panelLevel
  | .fault => r.panelLevel
  | .isolated => r.panelLevel

/-- A zone with new inputs, stamped where its effective level changes (R29, R30). -/
def ZoneRec.takes (old r : ZoneRec) (now : Ticks) : ZoneRec :=
  r.formed (if max r.panelLevel (max r.consoleLevel r.beamLevel) = old.effective then old.lastChange else now)

theorem formZone_zones (z : ZoneIdx) (r : ZoneRec) (s : State) :
    (formZone z r s).1.zones = s.zones.set z ((s.zones.get z).takes r s.port.clock) := by
  unfold formZone ZoneRec.takes
  dsimp only
  split <;> rfl

/-- A zone under ACTIVE (R21, R27, R39). -/
def State.zoneUnder (s : State) (z : ZoneIdx) (r : ZoneRec) : ZoneRec :=
  r.takes { r with panelLevel := s.active.params.panelUnder r, beamLevel := s.beamLevel z } s.port.clock

theorem zoneAdopt_zones (z : ZoneIdx) (s : State) : (zoneAdopt z s).1.zones = s.zones.set z (s.zoneUnder z (s.zones.get z)) :=
  formZone_zones z _ s

theorem adoptZones_get (s : State) (z : ZoneIdx) : (adoptZones s).1.zones.get z = s.zoneUnder z (s.zones.get z) := by
  refine Emit.each_finRange (s := s) (f := zoneAdopt) (get := fun t => t.zones.get)
    (Inv := fun t => ∃ b p, t = { s with zones := b, engine := { s.engine with changePending := p } })
    (value := s.zoneUnder) ?_ ?_ ?_ ⟨s.zones, s.engine.changePending, rfl⟩ z
  · rintro i _ ⟨b, p, rfl⟩
    obtain ⟨_, _, h⟩ := zoneAdopt_frame i { s with zones := b, engine := { s.engine with changePending := p } }
    exact ⟨_, _, h⟩
  · rintro i _ j ⟨b, p, rfl⟩ hj
    rw [zoneAdopt_zones]
    exact Table.get_set_ne _ _ hj
  · rintro i _ ⟨b, p, rfl⟩
    rw [zoneAdopt_zones]
    exact Table.get_set_self ..

/-! ## Passages, exits and heads -/

theorem passageAdopt_get (old : Layout) (p : PassageIdx) (s : State) : (passageAdopt old p s).1.boundary.passages.get p =
    if old.params.hallId = s.active.params.hallId ∧ old.passages.get p = s.active.passages.get p then
      s.boundary.passages.get p
    else PassageRec.cold := by
  unfold passageAdopt
  dsimp only
  by_cases same : old.params.hallId = s.active.params.hallId ∧ old.passages.get p = s.active.passages.get p
  · rw [if_pos same, if_pos (by simpa using same)]
  · rw [if_neg same, if_neg (by simpa using same)]
    exact Table.get_set_self ..

theorem adoptPassages_get (old : Layout) (s : State) (p : PassageIdx) : (adoptPassages old s).1.boundary.passages.get p =
    if old.params.hallId = s.active.params.hallId ∧ old.passages.get p = s.active.passages.get p then
      s.boundary.passages.get p
    else PassageRec.cold := by
  refine Emit.each_finRange (s := s) (f := passageAdopt old) (get := fun t => t.boundary.passages.get)
    (Inv := fun t => ∃ b, t = s.setBoundary { s.boundary with passages := b })
    (value := fun i r => if old.params.hallId = s.active.params.hallId ∧ old.passages.get i = s.active.passages.get i then r
      else PassageRec.cold) ?_ ?_ ?_ ⟨s.boundary.passages, rfl⟩ p
  · rintro i _ ⟨b, rfl⟩
    obtain ⟨_, h⟩ := passageAdopt_frame old i (s.setBoundary { s.boundary with passages := b })
    exact ⟨_, h⟩
  · rintro i _ j ⟨b, rfl⟩ hj
    obtain ⟨_, h⟩ := passageAdopt_frame old i (s.setBoundary { s.boundary with passages := b })
    rw [h]
    exact Table.get_set_ne _ _ hj
  · rintro i _ ⟨b, rfl⟩
    exact passageAdopt_get old i (s.setBoundary { s.boundary with passages := b })

/-- An exit under ACTIVE, against the layout before (R21, R57, R72). -/
def State.exitUnder (s : State) (old : Layout) (e : ExitIdx) (x : ExitRec) : ExitRec :=
  if s.active.exits.has e then s.exitRecord e (s.deriveReasons e (old.exits.has e && x.reasons.console))
  else if old.exits.has e then ExitRec.undefined else x

theorem exitAdopt_get (old : Layout) (e : ExitIdx) (s : State) :
    (exitAdopt old e s).1.exits.exits.get e = s.exitUnder old e (s.exits.exits.get e) := by
  unfold exitAdopt State.exitUnder
  dsimp only
  split
  · split
    · exact Table.get_set_self ..
    · exact Table.get_set_self ..
  · split
    · exact Table.get_set_self ..
    · rfl

theorem adoptExits_get (old : Layout) (s : State) (e : ExitIdx) :
    (adoptExits old s).1.exits.exits.get e = s.exitUnder old e (s.exits.exits.get e) := by
  have each := @Emit.each_finRange ExitRec 24 (exitAdopt old) (fun t => t.exits.exits.get)
    (fun t => ∃ x p, t = { s with exits := { s.exits with exits := x }, engine := { s.engine with changePending := p } })
    (s.exitUnder old)
  have whole := each (s := s) ?_ ?_ ?_ ⟨s.exits.exits, s.engine.changePending, rfl⟩ e
  · unfold adoptExits
    exact whole
  · rintro i _ ⟨x, p, rfl⟩
    obtain ⟨_, _, h⟩ := exitAdopt_frame old i
      { s with exits := { s.exits with exits := x }, engine := { s.engine with changePending := p } }
    exact ⟨_, _, h⟩
  · rintro i _ j ⟨x, p, rfl⟩ hj
    obtain ⟨_, _, h⟩ := exitAdopt_frame old i
      { s with exits := { s.exits with exits := x }, engine := { s.engine with changePending := p } }
    rw [h]
    exact Table.get_set_ne _ _ hj
  · rintro i _ ⟨x, p, rfl⟩
    exact exitAdopt_get old i { s with exits := { s.exits with exits := x }, engine := { s.engine with changePending := p } }

theorem adoptHeads_get (old : Layout) (s : State) (i : SignIdx) : (adoptHeads old s).1.signLine.heads.get i =
    headUnder (old.signs.get i) (s.active.signs.get i) old.params.headThreshold s.active.params.headThreshold
      (s.signLine.heads.get i) := by
  refine Emit.each_finRange (s := s) (f := headAdopt old) (get := fun t => t.signLine.heads.get)
    (Inv := fun t => ∃ h, t = { s with signLine := { s.signLine with heads := h } })
    (value := fun i => headUnder (old.signs.get i) (s.active.signs.get i) old.params.headThreshold s.active.params.headThreshold)
    ?_ ?_ ?_ ⟨s.signLine.heads, rfl⟩ i
  · rintro i _ ⟨h, rfl⟩
    exact ⟨_, rfl⟩
  · rintro i _ j ⟨h, rfl⟩ hj
    exact Table.get_set_ne _ _ hj
  · rintro i _ ⟨h, rfl⟩
    exact Table.get_set_self ..

/-! ## Lines and the door grace -/

/-- A line that ACTIVE makes no OUTPUT keeps its record where outputs are driven (R68). -/
theorem State.drive_get_input {s : State} {l : LineIdx} (input : ∀ src, s.active.lines.get l ≠ .output src) (p : OutputSource → Bool) :
    (s.drive p).exits.lines.get l = s.exits.lines.get l :=
  (s.drive_follows p).unnamed l input

/-- A derivation of the link drives the ALARM_LINK_LOST outputs, if any (R166). -/
theorem deriveLink_lines (s : State) : ∃ t p, (t : State).active = s.active ∧ t.exits = s.exits
    ∧ ((deriveLink s).1.exits = (t.drive p).exits ∨ (deriveLink s).1.exits = s.exits) := by
  unfold deriveLink
  dsimp only
  split
  · exact ⟨s, fun _ => true, rfl, rfl, .inr rfl⟩
  · split
    · refine ⟨State.setFlag { s with alarm := { s.alarm with
        link := linkOf s.active.params.healthRule s.alarm.lineA.state s.alarm.lineB.state } } .alarmLinkLostSeen, _, ?_, ?_, .inl rfl⟩
      · rfl
      · rfl
    · refine ⟨{ s with alarm := { s.alarm with
        link := linkOf s.active.params.healthRule s.alarm.lineA.state s.alarm.lineB.state } }, _, ?_, ?_, .inl rfl⟩
      · rfl
      · rfl

theorem deriveLink_get_input {s : State} {l : LineIdx} (input : ∀ src, s.active.lines.get l ≠ .output src) :
    (deriveLink s).1.exits.lines.get l = s.exits.lines.get l := by
  obtain ⟨t, p, active, exits, driven | still⟩ := deriveLink_lines s
  · rw [driven, State.drive_get_input (by rwa [active]), exits]
  · rw [still]

/-- The Door Grace under ACTIVE: a running one that has already run by the new door grace is ELAPSED (R64). -/
theorem State.adoptGrace_grace (s : State) : s.adoptGrace.exits.grace =
    match s.exits.grace with
    | .running start => if 100 * s.active.params.doorGrace ≤ (s.port.clock - start).toNat then .elapsed else .running start
    | .idle => .idle
    | .elapsed => .elapsed := by
  unfold State.adoptGrace
  cases h : s.exits.grace with
  | running start =>
    dsimp only
    rw [State.passed, Nat.mul_comm, Config.second]
    split <;> rename_i c
    · rw [if_pos (by simpa using c)]
    · rw [if_neg (by simpa using c)]
      exact h
  | idle => exact h
  | elapsed => exact h

/-! ## The conditions of the derived reasons -/

/-- DOOR reads the door lines and the grace alone (R65). -/
theorem State.doorHolds_congr {s t : State} (active : t.active = s.active) (grace : t.exits.grace = s.exits.grace)
    (lines : ∀ l, s.active.lines.get l = .inputDoor → t.exits.lines.get l = s.exits.lines.get l) (e : ExitIdx) :
    t.doorHolds e = s.doorHolds e := by
  unfold State.doorHolds
  rw [active, grace]
  cases hx : s.active.exits.get e with
  | none => rfl
  | some x =>
    dsimp only
    cases hl : x.doorLine with
    | none => rfl
    | some l =>
      dsimp only
      by_cases named : s.active.doorLineOf e l = true
      · have door : s.active.lines.get l = .inputDoor := by
          simp only [Layout.doorLineOf, hx, Bool.and_eq_true, decide_eq_true_eq] at named
          exact named.2
        rw [lines l door]
      · simp [named]

theorem State.hazardHolds_congr {s t : State} (active : t.active = s.active) (zones : t.zones = s.zones) (e : ExitIdx) :
    t.hazardHolds e = s.hazardHolds e := by
  unfold State.hazardHolds
  rw [active, zones]

theorem State.staleHolds_congr {s t : State} (active : t.active = s.active)
    (passages : ∀ p, (t.boundary.passages.get p).state = (s.boundary.passages.get p).state) (e : ExitIdx) :
    t.staleHolds e = s.staleHolds e := by
  unfold State.staleHolds
  simp only [active, passages]

theorem State.noLinkHolds_congr {s t : State} (active : t.active = s.active) (e : ExitIdx) : t.noLinkHolds e = s.noLinkHolds e := by
  unfold State.noLinkHolds
  rw [active]

theorem State.baseCost_congr {s t : State} (active : t.active = s.active)
    (passages : ∀ p, (t.boundary.passages.get p).remote = (s.boundary.passages.get p).remote) (e : ExitIdx) (u : Bool) :
    t.baseCost e u = s.baseCost e u := by
  unfold State.baseCost
  simp only [active, passages]

/-- What the record of an exit under ACTIVE is formed from. -/
structure State.SameExitInputs (s t : State) : Prop where
  active : t.active = s.active
  zones : t.zones = s.zones
  passages : t.boundary.passages = s.boundary.passages
  grace : t.exits.grace = s.exits.grace
  lines : ∀ l, s.active.lines.get l = .inputDoor → t.exits.lines.get l = s.exits.lines.get l

theorem State.SameExitInputs.exitUnder {s t : State} (h : s.SameExitInputs t) (old : Layout) (e : ExitIdx) (x : ExitRec) :
    t.exitUnder old e x = s.exitUnder old e x := by
  unfold State.exitUnder State.exitRecord State.deriveReasons
  rw [h.active, State.doorHolds_congr h.active h.grace h.lines, State.hazardHolds_congr h.active h.zones,
    State.staleHolds_congr h.active fun p => by rw [h.passages], State.noLinkHolds_congr h.active,
    State.baseCost_congr h.active fun p => by rw [h.passages]]

/-! ## The whole adoption -/

/-- What an adoption of the ACTIVE of `s` against the layout before leaves in each record of `u` (R19 to R21). -/
structure Adopts (old : Layout) (s u : State) : Prop where
  active : u.active = s.active
  beams : ∀ c, u.beams.get c =
    beamUnder s.port.clock (old.beams.get c).enabled (s.active.beams.get c).enabled (s.beams.get c)
  zones : ∀ z, u.zones.get z = u.zoneUnder z (s.zones.get z)
  passages : ∀ p, u.boundary.passages.get p =
    if old.params.hallId = s.active.params.hallId ∧ old.passages.get p = s.active.passages.get p then
      s.boundary.passages.get p
    else PassageRec.cold
  inputs : ∀ l, (∀ src, s.active.lines.get l ≠ .output src) →
    u.exits.lines.get l = adoptLine (s.active.lines.get l) (s.exits.pins.get l) (s.exits.lines.get l)
  outputs : ∀ l src, s.active.lines.get l = .output src → ∃ d, u.exits.lines.get l = .output d
  grace : u.exits.grace = s.adoptGrace.exits.grace
  exits : ∀ e, u.exits.exits.get e = u.exitUnder old e (s.exits.exits.get e)
  heads : ∀ i, u.signLine.heads.get i =
    headUnder (old.signs.get i) (s.active.signs.get i) old.params.headThreshold s.active.params.headThreshold
      (s.signLine.heads.get i)
  trunks : u.signLine.trunks = Table.ofFn fun k =>
    { s.signLine.trunks.get k with exchange := (s.signLine.trunks.get k).exchange.map (s.active.markExchange k) }
  queue : u.signLine.queue = s.signLine.queue.filter s.active.signs.has

theorem adoptLine_output (src : OutputSource) (pin : Bool) (r : LineRec) : ∃ d, adoptLine (.output src) pin r = .output d := by
  cases r <;> exact ⟨_, rfl⟩

theorem State.zoneUnder_congr {s t : State} (active : t.active = s.active) (beams : t.beams = s.beams)
    (clock : t.port.clock = s.port.clock) (z : ZoneIdx) (r : ZoneRec) : t.zoneUnder z r = s.zoneUnder z r := by
  unfold State.zoneUnder
  rw [active, State.beamLevel_of_beams active beams, clock]

theorem adoptBeams_leaves (old : Layout) (s : State) {b : State} (hb : (adoptBeams old s).1 = b) :
    b.active = s.active ∧ b.zones = s.zones ∧ b.exits = s.exits ∧ b.boundary = s.boundary ∧ b.signLine = s.signLine
    ∧ b.port.clock = s.port.clock := by
  obtain ⟨_, h⟩ := adoptBeams_frame old s
  rw [← hb, h]
  exact ⟨rfl, rfl, rfl, rfl, rfl, rfl⟩

theorem adoptZones_leaves (s : State) {z : State} (hz : (adoptZones s).1 = z) :
    z.active = s.active ∧ z.beams = s.beams ∧ z.exits = s.exits ∧ z.boundary = s.boundary ∧ z.signLine = s.signLine
    ∧ z.port.clock = s.port.clock := by
  obtain ⟨_, _, h⟩ := adoptZones_frame s
  rw [← hz, h]
  exact ⟨rfl, rfl, rfl, rfl, rfl, rfl⟩

theorem adoptPassages_leaves (old : Layout) (s : State) {p : State} (hp : (adoptPassages old s).1 = p) :
    p.active = s.active ∧ p.beams = s.beams ∧ p.zones = s.zones ∧ p.exits = s.exits ∧ p.signLine = s.signLine
    ∧ p.port.clock = s.port.clock := by
  obtain ⟨_, h⟩ := adoptPassages_frame old s
  rw [← hp, h]
  exact ⟨rfl, rfl, rfl, rfl, rfl, rfl⟩

theorem deriveLink_leaves (s : State) {k : State} (hk : (deriveLink s).1 = k) :
    k.active = s.active ∧ k.beams = s.beams ∧ k.zones = s.zones ∧ k.exits.exits = s.exits.exits ∧ k.exits.grace = s.exits.grace
    ∧ k.exits.pins = s.exits.pins ∧ k.boundary = s.boundary ∧ k.signLine = s.signLine ∧ k.port.clock = s.port.clock := by
  obtain ⟨_, _, _, _, h⟩ := deriveLink_frame s
  rw [← hk, h]
  exact ⟨rfl, rfl, rfl, rfl, rfl, rfl, rfl, rfl, rfl⟩

theorem State.adoptGrace_leaves (s : State) {g : State} (hg : s.adoptGrace = g) :
    g.active = s.active ∧ g.beams = s.beams ∧ g.zones = s.zones ∧ g.exits.exits = s.exits.exits ∧ g.exits.lines = s.exits.lines
    ∧ g.boundary = s.boundary ∧ g.signLine = s.signLine ∧ g.port.clock = s.port.clock := by
  obtain ⟨_, h⟩ := s.adoptGrace_frame
  rw [← hg, h]
  exact ⟨rfl, rfl, rfl, rfl, rfl, rfl, rfl, rfl⟩

theorem adoptExits_leaves (old : Layout) (s : State) {x : State} (hx : (adoptExits old s).1 = x) :
    x.active = s.active ∧ x.beams = s.beams ∧ x.zones = s.zones ∧ x.exits.lines = s.exits.lines ∧ x.exits.grace = s.exits.grace
    ∧ x.boundary = s.boundary ∧ x.signLine = s.signLine ∧ x.port.clock = s.port.clock := by
  obtain ⟨_, _, h⟩ := adoptExits_frame old s
  rw [← hx, h]
  exact ⟨rfl, rfl, rfl, rfl, rfl, rfl, rfl, rfl⟩

theorem adoptHeads_leaves (old : Layout) (s : State) {g : State} (hg : (adoptHeads old s).1 = g) :
    g.active = s.active ∧ g.beams = s.beams ∧ g.zones = s.zones ∧ g.exits = s.exits ∧ g.boundary = s.boundary
    ∧ g.signLine.trunks = s.signLine.trunks ∧ g.signLine.queue = s.signLine.queue ∧ g.port.clock = s.port.clock := by
  obtain ⟨_, h⟩ := adoptHeads_frame old s
  rw [← hg, h]
  exact ⟨rfl, rfl, rfl, rfl, rfl, rfl, rfl, rfl⟩

/-- The state an adoption leaves, in the seven states it goes through: after the channels, the zones, the passages, the link, the grace,
the exits and the heads. -/
theorem adopt_stages (old : Layout) (s : State) : ∃ b z p k g x h,
    (adoptBeams old s).1 = b ∧ (adoptZones b).1 = z ∧ (adoptPassages old z).1 = p ∧ (deriveLink p).1 = k
    ∧ k.adoptLines.adoptGrace = g ∧ (adoptExits old g).1 = x ∧ (adoptHeads old x).1 = h
    ∧ (adopt old s).1 = h.adoptTrunks.dropAdvert :=
  ⟨_, _, _, _, _, _, _, rfl, rfl, rfl, rfl, rfl, rfl, rfl, rfl⟩

theorem State.adoptLines_grace (s : State) : s.adoptLines.exits.grace = s.exits.grace := rfl
theorem State.adoptLines_records (s : State) : s.adoptLines.exits.exits = s.exits.exits := rfl

/-- What the adoption leaves, record by record. -/
theorem adopt_adopts (old : Layout) (s : State) : Adopts old s (adopt old s).1 := by
  obtain ⟨b, z, p, k, g, x, h, hb, hz, hp, hk, hg, hx, hh, eq⟩ := adopt_stages old s
  rw [eq]
  obtain ⟨b1, b2, b3, b4, b5, b6⟩ := adoptBeams_leaves old s hb
  obtain ⟨z1, z2, z3, z4, z5, z6⟩ := adoptZones_leaves b hz
  obtain ⟨p1, p2, p3, p4, p5, p6⟩ := adoptPassages_leaves old z hp
  obtain ⟨k1, k2, k3, k4, k5, k6, k7, k8, k9⟩ := deriveLink_leaves p hk
  obtain ⟨g1, g2, g3, g4, g5, g6, g7, g8⟩ := k.adoptLines.adoptGrace_leaves hg
  obtain ⟨x1, x2, x3, x4, x5, x6, x7, x8⟩ := adoptExits_leaves old g hx
  obtain ⟨h1, h2, h3, h4, h5, h6, h7, h8⟩ := adoptHeads_leaves old x hh
  have active : g.active = s.active := by rw [g1, State.adoptLines_active, k1, p1, z1, b1]
  constructor
  case active => simp [h1, x1, active]
  case beams =>
    intro c
    rw [← adoptBeams_get, hb]
    simp [h2, x2, g2, k2, p2, z2]
  case zones =>
    intro i
    have same := State.zoneUnder_congr (s := b) (t := h.adoptTrunks.dropAdvert) (by simp [h1, x1, active, b1])
      (by simp [h2, x2, g2, k2, p2, z2]) (by simp [h8, x8, g8, k9, p6, z6])
    rw [same, ← b2, ← adoptZones_get, hz]
    simp [h3, x3, g3, k3, p3]
  case passages =>
    intro i
    have formed := adoptPassages_get old z i
    rw [hp, z1, b1, z4, b4] at formed
    rw [← formed]
    simp [State.dropAdvert, h5, x6, g6, k7]
  case inputs =>
    intro l input
    have kept := @deriveLink_get_input p l (by rwa [p1, z1, b1])
    have lines : k.exits.lines.get l = s.exits.lines.get l := by rw [← hk, kept, p4, z3, b3]
    simp [h4, x4, g5, State.adoptLines, k1, k6, lines, p1, p4, z1, z3, b1, b3]
  case outputs =>
    intro l src output
    simp only [State.dropAdvert_exits, State.adoptTrunks_exits, h4, x4, g5, State.adoptLines, Table.get_ofFn, k1, p1, z1, b1, output]
    exact adoptLine_output ..
  case grace =>
    simp only [State.dropAdvert_exits, State.adoptTrunks_exits, h4, x5, ← hg, State.adoptGrace_grace, State.adoptLines_active,
      State.adoptLines_grace, State.adoptLines_port, k1, k5, k9, p1, p4, p6, z1, z3, z6, b1, b3, b6]
  case exits =>
    intro e
    have same : g.SameExitInputs h.adoptTrunks.dropAdvert := by
      constructor
      · simp [h1, x1]
      · simp [h3, x3]
      · simp [State.dropAdvert, h5, x6]
      · simp [h4, x5]
      · intro l _
        simp [h4, x4]
    rw [same.exitUnder]
    have formed := adoptExits_get old g e
    rw [hx] at formed
    simp only [State.dropAdvert_exits, State.adoptTrunks_exits, h4, formed, g4, State.adoptLines_records, k4, p4, z3, b3]
  case heads =>
    intro i
    have formed := adoptHeads_get old x i
    rw [hh] at formed
    simp only [State.dropAdvert_signLine, State.adoptTrunks, formed, x1, active, x7, g7, State.adoptLines_signLine, k8, p5, z5, b5]
  case trunks =>
    simp only [State.dropAdvert_signLine, State.adoptTrunks, h1, x1, active, h6, x7, g7, State.adoptLines_signLine, k8, p5, z5, b5]
  case queue =>
    simp only [State.dropAdvert_signLine, State.adoptTrunks, h1, x1, active, h7, x7, g7, State.adoptLines_signLine, k8, p5, z5, b5]

end Machine
end Sys2Proof
end

/-!
The law of the beam channels (R40, R41, R50, R51).
-/
section
namespace Sys2Proof
namespace Machine

/-! ## One channel -/

/-- What the law says of one channel, enabled in ACTIVE or not. -/
structure BeamRec.Lawful (enabled : Bool) (b : BeamRec) : Prop where
  disabled : enabled = false ↔ b.state = .disabled
  emptied : b.state = .disabled → b = BeamRec.cold
  history : b.history.length ≤ 4
  readings : ∀ r ∈ b.history, r ≤ 4095
  working : b.working = if b.history.length = 4 then some (b.history.sum / 4) else none
  corrected : b.corrected.isSome = b.working.isSome
  least : ∀ v w, b.corrected = some v → b.working = some w → v ≤ w
  warmStart : b.warmStart.isSome = true ↔ b.state = .warming
  warming : b.state = .warming → b.level = 0
  blocked : b.state = .blocked → b.level.val ≤ 1
  decay : b.decay.isSome = true → b.state = .measuring

theorem beamLaw_iff (s : State) : BeamLaw s ↔ ∀ c, (s.beams.get c).Lawful (s.active.beams.get c).enabled :=
  ⟨fun h c => ⟨h.disabled c, h.emptied c, h.history c, h.readings c, h.working c, h.corrected c, h.least c, h.warmStart c,
      h.warming c, h.blocked c, h.decay c⟩,
    fun h => ⟨fun c => (h c).disabled, fun c => (h c).emptied, fun c => (h c).history, fun c => (h c).readings,
      fun c => (h c).working, fun c => (h c).corrected, fun c => (h c).least, fun c => (h c).warmStart,
      fun c => (h c).warming, fun c => (h c).blocked, fun c => (h c).decay⟩⟩

theorem BeamLaw.congr {s t : State} (h : BeamLaw s) (beams : t.beams = s.beams)
    (enabled : ∀ c, (t.active.beams.get c).enabled = (s.active.beams.get c).enabled) : BeamLaw t := by
  rw [beamLaw_iff] at h ⊢
  intro c
  rw [beams, enabled]
  exact h c

/-- A channel at its reset values is lawful where ACTIVE does not enable it (R54). -/
theorem BeamRec.Lawful.cold : BeamRec.cold.Lawful false where
  disabled := ⟨fun _ => rfl, fun _ => rfl⟩
  emptied _ := rfl
  history := by simp [BeamRec.cold]
  readings := by simp [BeamRec.cold]
  working := rfl
  corrected := rfl
  least _ _ h := nomatch h
  warmStart := by simp [BeamRec.cold]
  warming _ := rfl
  blocked h := nomatch h
  decay h := nomatch h

/-- A channel that begins its warm-up is lawful where ACTIVE enables it (R51). -/
theorem BeamRec.Lawful.warmUp (now : Ticks) : BeamRec.Lawful true { BeamRec.cold with state := .warming, warmStart := some now } where
  disabled := by simp
  emptied h := nomatch h
  history := by simp [BeamRec.cold]
  readings := by simp [BeamRec.cold]
  working := rfl
  corrected := rfl
  least _ _ h := nomatch h
  warmStart := by simp
  warming _ := rfl
  blocked h := nomatch h
  decay h := nomatch h

/-! ## A sample -/

theorem mem_pushReading {history : List Nat} {reading r : Nat} (h : r ∈ pushReading history reading) : r ∈ history ∨ r = reading := by
  unfold pushReading at h
  rw [List.mem_append, List.mem_singleton] at h
  refine h.imp_left fun h => ?_
  split at h
  · exact List.mem_of_mem_drop h
  · exact h

theorem length_pushReading {history : List Nat} (h : history.length ≤ 4) (reading : Nat) : (pushReading history reading).length ≤ 4 := by
  unfold pushReading
  split <;> simp <;> omega

/-- A sample into the history of a channel that takes one keeps the channel lawful (R41). -/
theorem BeamRec.Lawful.sampled {b : BeamRec} (h : b.Lawful true) (c : BeamCfg) {reading : Nat} (range : reading ≤ 4095) :
    (b.sampled c reading).Lawful true where
  disabled := h.disabled
  emptied hd := absurd (h.disabled.2 hd) (by simp)
  history := length_pushReading h.history reading
  readings r hr := (mem_pushReading hr).elim (h.readings r) fun e => e ▸ range
  working := rfl
  corrected := by simp [BeamRec.sampled]
  least v w hv hw := by
    simp only [BeamRec.sampled, Option.map_eq_some_iff] at hv hw
    obtain ⟨x, hx, rfl⟩ := hv
    cases hx.symm.trans hw
    exact Nat.sub_le ..
  warmStart := h.warmStart
  warming := h.warming
  blocked := h.blocked
  decay := h.decay

/-- BLOCKED is answered only to a channel below level 2 (R45). -/
theorem BeamCfg.evaluate_blocked {c : BeamCfg} {v : Nat} {zone own : Level} (h : c.evaluate v zone own = .blocked) : own.val ≤ 1 := by
  unfold BeamCfg.evaluate at h
  dsimp only at h
  split at h
  · cases h
  · split at h
    · split at h
      · cases h
      · rename_i low
        simp only [Bool.or_eq_true, decide_eq_true_eq, not_or, not_le] at low
        omega
    · cases h

/-- An evaluation keeps an enabled channel lawful, when BLOCKED finds it below level 2 (R42 to R51). -/
theorem BeamRec.Lawful.evaluated {b : BeamRec} (h : b.Lawful true) (c : BeamCfg) (now : Ticks) {o : BeamOutcome}
    (low : o = .blocked → b.level.val ≤ 1) : (b.evaluated c now o).Lawful true := by
  obtain ⟨-, -, history, readings, working, corrected, least, -, -, -, -⟩ := h
  cases o with
  | overRange =>
    exact ⟨by simp [BeamRec.evaluated], nofun, history, readings, working, corrected, least, by simp [BeamRec.evaluated], nofun, nofun,
      nofun⟩
  | blocked =>
    exact ⟨by simp [BeamRec.evaluated], nofun, history, readings, working, corrected, least, by simp [BeamRec.evaluated], nofun,
      fun _ => low rfl, nofun⟩
  | measuring target =>
    exact ⟨by simp [BeamRec.evaluated], nofun, history, readings, working, corrected, least, by simp [BeamRec.evaluated], nofun, nofun,
      fun _ => rfl⟩

/-- A sample keeps a channel that takes one lawful (R41 to R51). -/
theorem State.sampleBeam_lawful {s : State} {ch : BeamIdx} (h : (s.beams.get ch).Lawful true) {reading : Nat} (range : reading ≤ 4095) :
    (s.sampleBeam ch reading).Lawful true := by
  have sampled := h.sampled (s.active.beams.get ch) range
  unfold State.sampleBeam
  dsimp only
  split
  · exact sampled.evaluated _ _ BeamCfg.evaluate_blocked
  · exact sampled

/-! ## The law -/

/-- A channel under a new layout is lawful (R55). -/
theorem BeamRec.Lawful.under {b : BeamRec} {old : Bool} (h : b.Lawful old) (now : Ticks) (new : Bool) :
    (beamUnder now old new b).Lawful new := by
  cases old <;> cases new
  · exact h
  · exact .warmUp now
  · exact .cold
  · exact h

theorem BeamLaw.adopted {s : State} {old : Layout} (h : ∀ c, (s.beams.get c).Lawful (old.beams.get c).enabled) :
    BeamLaw (adopt old s).1 := by
  rw [beamLaw_iff]
  intro c
  rw [(adopt_adopts old s).beams, (adopt_adopts old s).active]
  exact (h c).under _ _

theorem BeamLaw.of_hazards {s t : State} (h : BeamLaw s) (same : t.hazards = s.hazards) : BeamLaw t :=
  h.congr (congrArg Hazards.beams same) fun c => by rw [show t.active = s.active from congrArg Hazards.active same]

/-- A zone's event leaves the channels alone (R29). -/
theorem BeamLaw.afterZone {s t : State} (h : BeamLaw s) {z : ZoneIdx} {r : ZoneRec}
    (event : t.hazards = (zoneEvent z r s).1.hazards) : BeamLaw t := by
  obtain ⟨_, moved⟩ := zoneEvent_hazards z r s
  rw [moved] at event
  exact h.congr (congrArg Hazards.beams event) fun c => by rw [show t.active = s.active from congrArg Hazards.active event]

theorem State.takeConsoleLevel_hazards (s : State) (z : ZoneIdx) (l : Level) :
    (s.takeConsoleLevel z l).hazards = (zoneEvent z { s.zones.get z with consoleLevel := l } s).1.hazards :=
  Emit.run_hazards ..

theorem takeReport_eq (z : ZoneIdx) (st : PanelState) (s : State) : takeReport z st s =
    zoneEvent z { s.zones.get z with panelState := st, panelLevel := s.panelLevel (s.zones.get z).panelLevel st } s := rfl

theorem BeamLaw.sample {s : State} (h : BeamLaw s) (ch : BeamIdx) (reading : Fin 4096) :
    After (exec (.beamSample ch reading) s) BeamLaw := by
  refine .of_next ?_
  split
  · exact h
  · rename_i takes
    have lawful := (beamLaw_iff s).1 h
    have enabled : (s.active.beams.get ch).enabled = true := by
      rw [← Bool.not_eq_false]
      exact fun off => takes ((h.disabled ch).1 off)
    have fresh : (s.sampleBeam ch reading.val).Lawful true := State.sampleBeam_lawful (enabled ▸ lawful ch) (by omega)
    have moved : (Emit.run (beamEvent ch (s.sampleBeam ch reading.val)) s).beams = s.beams.set ch (s.sampleBeam ch reading.val)
        ∧ (Emit.run (beamEvent ch (s.sampleBeam ch reading.val)) s).active = s.active := by
      obtain ⟨_, _, _, _, frame⟩ := beamEvent_frame ch (s.sampleBeam ch reading.val) s
      rw [Emit.run, State.postAll_beams, State.postAll_active, frame]
      exact ⟨rfl, rfl⟩
    rw [beamLaw_iff, moved.1, moved.2]
    intro c
    rw [Table.get_set]
    split
    · rename_i same
      rw [same, enabled]
      exact fresh
    · exact lawful c

theorem Layout.setReference_enabled (a : Layout) (ch : BeamIdx) (v : Nat) (c : BeamIdx) :
    ((a.setReference ch v).beams.get c).enabled = (a.beams.get c).enabled := by
  rw [Layout.setReference, Table.get_set]
  split
  · rename_i same
    rw [same]
  · rfl

/-- Every command keeps the law of the beam channels. -/
theorem BeamLaw.exec {s : State} (h : BeamLaw s) (c : Instr) : After (exec c s) BeamLaw := by
  have answered (st b) : BeamLaw (s.respond st b) := h.of_hazards (State.respond_hazards ..)
  cases hc : reachesHazards c with
  | false =>
    obtain ⟨t, ht, same⟩ := exec_leavesHazards c hc s
    exact ⟨t, ht, h.of_hazards same⟩
  | true =>
    cases c with
    | coldReset =>
      refine .of_next ((beamLaw_iff _).2 fun c => ?_)
      simp only [State.cold, State.active, Layout.empty, Table.get_replicate]
      exact .cold
    | loadEvent =>
      refine execLoadEvent_keeps h fun _ => BeamLaw.of_hazards ?_ ((State.postAll_hazards ..).trans s.takeUp_hazards)
      rw [beamLaw_iff]
      intro c
      simp only [State.loadBeams, Table.get_ofFn]
      show (s.loadBanks.loadBeam c).Lawful (s.loadBanks.active.beams.get c).enabled
      unfold State.loadBeam
      split
      · rename_i enabled
        rw [enabled]
        exact .warmUp _
      · rename_i off
        rw [Bool.not_eq_true] at off
        rw [off]
        exact .cold
    | beamSample ch reading => exact h.sample ch reading
    | zoneReport =>
      refine .of_next ?_
      split
      · split
        · exact h.of_hazards rfl
        · rename_i seq z st _ _
          have event := (State.dropFrame_hazards _).trans (Emit.run_hazards (takeReport z st) (s.accept seq))
          rw [takeReport_eq] at event
          exact BeamLaw.afterZone (s := s.accept seq) (h.of_hazards rfl) event
      · exact h
    | setZoneLevel =>
      refine After.served h answered fun body => ?_
      split
      · split
        · dsimp only
          split
          · exact answered ..
          · exact h.afterZone ((State.respond_hazards ..).trans (State.takeConsoleLevel_hazards ..))
        · exact answered ..
      · exact answered ..
    | calibrateBeam =>
      refine After.served h answered fun body => ?_
      split
      · dsimp only
        split
        · exact answered ..
        · split
          · exact answered ..
          · split
            · exact answered ..
            · split
              · exact answered ..
              · split
                · exact answered ..
                · exact h.congr rfl (Layout.setReference_enabled _ _ _)
      · exact answered ..
    | commitLayout =>
      refine execCommitLayout_keeps h answered fun _ => ?_
      refine BeamLaw.of_hazards (s := (adopt s.active s.beforeCommit).1) (BeamLaw.adopted ?_) ?_
      · exact (beamLaw_iff s).1 h
      · exact (State.respond_hazards ..).trans s.commit_hazards
    | reinit =>
      refine execReinit_keeps h answered fun _ _ => ?_
      refine BeamLaw.of_hazards (s := (adopt s.active s.loadBanks.restartEngine).1) (BeamLaw.adopted ?_) ?_
      · exact (beamLaw_iff s).1 h
      · exact (State.respond_hazards ..).trans s.restart_hazards
    | _ => cases hc

/-- Settles O49: samples, adoptions and the load event form lawful records, and nothing else reaches a channel. -/
theorem beamLawIsKept : Obligations.BeamLawIsKept := fun _ _ _ hs h =>
  step_keeps (P := BeamLaw) (fun _ h => h) (fun _ _ h => h.of_hazards rfl) (fun c _ h => h.exec c) hs h

end Machine
end Sys2Proof
end

/-!
What the offers to the change queue and the evaluation of the signs leave (R102, R113, R114, R129), and the law of the signs (R101, R112).
-/
section
namespace Sys2Proof
namespace Table

/-! ## The defined records, in index order -/

theorem defined_fst_sublist {α : Type} {n : Nat} (t : Table (Option α) n) :
    (t.defined.map Prod.fst).Sublist (List.finRange n) := by
  have fst (l : List (Fin n × Option α)) :
      ((l.filterMap fun e => e.2.map fun a => (e.1, a)).map Prod.fst).Sublist (l.map Prod.fst) := by
    induction l with
    | nil => exact .slnil
    | cons e l ih =>
      obtain ⟨i, _ | a⟩ := e
      · exact ih.cons i
      · exact ih.cons_cons i
  have whole : (t.entries.map Prod.fst).Sublist (List.finRange n) := by
    rw [Table.entries, List.map_fst_zip]
    simp [t.size_eq]
  exact (fst t.entries).trans whole

theorem defined_pairwise {α : Type} {n : Nat} (t : Table (Option α) n) : (t.defined.map Prod.fst).Pairwise (· < ·) :=
  (List.pairwise_lt_finRange n).sublist t.defined_fst_sublist

theorem defined_nodup {α : Type} {n : Nat} (t : Table (Option α) n) : (t.defined.map Prod.fst).Nodup :=
  t.defined_fst_sublist.nodup (List.nodup_finRange n)

end Table

namespace Machine

/-! ## Offers (R129) -/

@[simp] theorem State.offer_heads (s : State) (i : SignIdx) : (s.offer i).signLine.heads = s.signLine.heads := by
  obtain ⟨_, h⟩ := s.offer_frame i
  rw [h]; rfl

/-- A sign may be admitted to the change queue (R129). -/
def State.admits (s : State) (i : SignIdx) : Bool :=
  decide (i ∉ s.signLine.queue) && decide ((s.signLine.heads.get i).state ≠ .lost)

theorem State.offer_queue (s : State) (i : SignIdx) :
    (s.offer i).signLine.queue = if s.admits i then s.signLine.queue ++ [i] else s.signLine.queue := by
  unfold State.offer State.admits
  split
  · rename_i queued
    simp [queued]
  · rename_i absent
    split
    · rename_i lost
      simp [lost]
    · rename_i there
      simp [absent, there]

/-- Signs offered one after another, none twice, join the queue in their order (R129). -/
theorem State.offers_queue {l : List SignIdx} (nodup : l.Nodup) (s : State) :
    (l.foldl State.offer s).signLine.queue = s.signLine.queue ++ l.filter s.admits := by
  induction l generalizing s with
  | nil => simp
  | cons i l ih =>
    rw [List.nodup_cons] at nodup
    rw [List.foldl_cons, ih nodup.2]
    have same : l.filter (s.offer i).admits = l.filter s.admits := by
      refine List.filter_congr fun j hj => ?_
      have other : j ≠ i := fun e => nodup.1 (e ▸ hj)
      unfold State.admits
      rw [State.offer_heads, State.offer_queue]
      split <;> simp [other]
    rw [same, State.offer_queue]
    by_cases admitted : s.admits i = true
    · simp [admitted]
    · simp [admitted]

theorem mem_signsWhere {p : SignIdx → Bool} {i : SignIdx} : i ∈ signsWhere p ↔ p i = true := by
  simp [signsWhere]

theorem signsWhere_nodup (p : SignIdx → Bool) : (signsWhere p).Nodup := (List.nodup_finRange 192).filter p

theorem signsWhere_pairwise (p : SignIdx → Bool) : (signsWhere p).Pairwise (· < ·) := (List.pairwise_lt_finRange 192).filter p

/-! ## The evaluation of the signs (R102, R114) -/

@[simp] theorem State.offer_aspect (s : State) (i : SignIdx) : (s.offer i).aspect = s.aspect := by
  obtain ⟨_, h⟩ := s.offer_frame i
  rw [h]; rfl

theorem State.showSign_signs (s : State) (i : SignIdx) (r : SignRec) :
    (s.showSign i r).aspect.signs = s.aspect.signs.set i r := by
  obtain ⟨_, h⟩ := s.showSign_frame i r
  rw [h]; rfl

theorem State.showSign_heads (s : State) (i : SignIdx) (r : SignRec) :
    (s.showSign i r).signLine.heads = s.signLine.heads := by
  obtain ⟨_, h⟩ := s.showSign_frame i r
  rw [h]; rfl

theorem State.showSign_queue (s : State) (i : SignIdx) (r : SignRec) : (s.showSign i r).signLine.queue =
    if r.shown ≠ (s.aspect.signs.get i).shown ∧ s.admits i = true then s.signLine.queue ++ [i] else s.signLine.queue := by
  unfold State.showSign
  dsimp only
  by_cases same : r.shown = (s.aspect.signs.get i).shown
  · rw [if_pos same, if_neg (by simp [same])]
    rfl
  · rw [if_neg same, State.offer_queue]
    simp only [ne_eq, same, not_false_eq_true, true_and]
    rfl

/-- A sign that takes the value `f` gives it for the record it has is admitted to the queue when its shown aspect changes (R114). -/
def State.joins (s : State) (f : SignIdx × SignCfg → SignRec → SignRec) (e : SignIdx × SignCfg) : Bool :=
  decide ((f e (s.aspect.signs.get e.1)).shown ≠ (s.aspect.signs.get e.1).shown) && s.admits e.1

/-- Signs shown one after another, none twice, each by a value formed from its own record. -/
theorem State.shows_fold (f : SignIdx × SignCfg → SignRec → SignRec) {l : List (SignIdx × SignCfg)} (nodup : (l.map Prod.fst).Nodup)
    (s : State) : ∃ t, l.foldl (fun t e => t.showSign e.1 (f e (t.aspect.signs.get e.1))) s = t
      ∧ (∀ e ∈ l, t.aspect.signs.get e.1 = f e (s.aspect.signs.get e.1))
      ∧ (∀ i, i ∉ l.map Prod.fst → t.aspect.signs.get i = s.aspect.signs.get i)
      ∧ t.signLine.queue = s.signLine.queue ++ (l.filter (s.joins f)).map Prod.fst := by
  induction l generalizing s with
  | nil => exact ⟨s, rfl, by simp, by simp, by simp⟩
  | cons e l ih =>
    rw [List.map_cons, List.nodup_cons] at nodup
    have signs := s.showSign_signs e.1 (f e (s.aspect.signs.get e.1))
    have heads := s.showSign_heads e.1 (f e (s.aspect.signs.get e.1))
    have queue := s.showSign_queue e.1 (f e (s.aspect.signs.get e.1))
    obtain ⟨t, ht, shown, kept, queued⟩ := ih nodup.2 (s.showSign e.1 (f e (s.aspect.signs.get e.1)))
    have apart (d : SignIdx × SignCfg) (hd : d ∈ l) : d.1 ≠ e.1 := fun same => nodup.1 (same ▸ List.mem_map_of_mem hd)
    have later (d : SignIdx × SignCfg) (hd : d ∈ l) :
        (s.showSign e.1 (f e (s.aspect.signs.get e.1))).aspect.signs.get d.1 = s.aspect.signs.get d.1 := by
      rw [signs, Table.get_set_ne _ _ (apart d hd)]
    refine ⟨t, ht, ?_, ?_, ?_⟩
    · intro d hd
      rcases List.mem_cons.1 hd with rfl | hd
      · rw [kept _ nodup.1, signs, Table.get_set_self]
      · rw [shown d hd, later d hd]
    · intro i hi
      rw [List.map_cons, List.mem_cons, not_or] at hi
      rw [kept i hi.2, signs, Table.get_set_ne _ _ hi.1]
    · have same : l.filter ((s.showSign e.1 (f e (s.aspect.signs.get e.1))).joins f) = l.filter (s.joins f) := by
        refine List.filter_congr fun d hd => ?_
        unfold State.joins State.admits
        rw [later d hd, heads, queue]
        split <;> simp [apart d hd]
      rw [queued, same, queue]
      by_cases changed : (f e (s.aspect.signs.get e.1)).shown ≠ (s.aspect.signs.get e.1).shown ∧ s.admits e.1 = true
      · have joined : s.joins f e = true := by simpa [State.joins] using changed
        rw [if_pos changed, List.filter_cons_of_pos joined]
        simp
      · have stays : ¬ s.joins f e = true := by simpa [State.joins] using changed
        rw [if_neg changed, List.filter_cons_of_neg stays]

/-- The value a sign takes at an adoption (R102). -/
def State.evaluated (s : State) (p : Published) (e : SignIdx × SignCfg) (old : SignRec) : SignRec :=
  evalSign s.active p s.alarm.mode s.port.clock e.2 old

/-- An adoption evaluates each sign defined in ACTIVE, and those whose shown aspect changes join the queue in index order (R102, R114). -/
theorem State.evalSigns_eq (s : State) (p : Published) :
    (∀ i c, s.active.signs.get i = some c →
      (s.evalSigns p).aspect.signs.get i = evalSign s.active p s.alarm.mode s.port.clock c (s.aspect.signs.get i))
    ∧ (∀ i, s.active.signs.get i = none → (s.evalSigns p).aspect.signs.get i = s.aspect.signs.get i)
    ∧ (s.evalSigns p).signLine.queue =
      s.signLine.queue ++ (s.active.signs.defined.filter (s.joins (s.evaluated p))).map Prod.fst := by
  obtain ⟨t, ht, shown, kept, queued⟩ := State.shows_fold (s.evaluated p) s.active.signs.defined_nodup s
  have whole : s.evalSigns p = t := ht
  rw [whole]
  refine ⟨fun i c hc => shown (i, c) (Table.mem_defined.2 hc), fun i hi => kept i ?_, queued⟩
  rw [List.mem_map]
  rintro ⟨⟨j, c⟩, hc, rfl⟩
  exact nomatch (Table.mem_defined.1 hc).symm.trans hi

theorem State.evalSigns_alarm (s : State) (p : Published) : (s.evalSigns p).alarm = s.alarm := by
  obtain ⟨_, _, h⟩ := s.evalSigns_frame p
  rw [h]; rfl

/-! ## One sign (R101, R112) -/

/-- What the law says of one sign in a hall mode. -/
structure SignRec.Lawful (mode : HallMode) (r : SignRec) : Prop where
  segment : r.segment.isSome = true ↔ ∃ d, r.shown.aspect = .arrow d
  candidate : r.candidate.isSome = true → ∃ d, r.shown.aspect = .arrow d
  modifier : r.shown.modifier =
    match r.shown.aspect with
    | .arrow _ => litModifier mode
    | .exitHere => litModifier mode
    | .cross => .steady
    | .dark => .steady

theorem signLaw_iff (s : State) : SignLaw s ↔ ∀ i, (s.aspect.signs.get i).Lawful s.alarm.mode :=
  ⟨fun h i => ⟨h.segment i, h.candidate i, h.modifier i⟩,
    fun h => ⟨fun i => (h i).segment, fun i => (h i).candidate, fun i => (h i).modifier⟩⟩

theorem SignLaw.congr {s t : State} (h : SignLaw s) (signs : t.aspect.signs = s.aspect.signs) (mode : t.alarm.mode = s.alarm.mode) :
    SignLaw t := by
  rw [signLaw_iff] at h ⊢
  intro i
  rw [signs, mode]
  exact h i

theorem SignRec.Lawful.dark (mode : HallMode) : SignRec.dark.Lawful mode :=
  ⟨by simp [SignRec.dark], nofun, rfl⟩

theorem SignRec.Lawful.arrowFor (c : SignCfg) (mode : HallMode) (v : SegIdx) (k : Option Candidate) : (c.arrowFor mode v k).Lawful mode :=
  ⟨⟨fun _ => ⟨_, rfl⟩, fun _ => rfl⟩, fun _ => ⟨_, rfl⟩, rfl⟩

theorem confirmWindow_lawful (a : Layout) (mode : HallMode) (now : Ticks) (c : SignCfg) (v b : SegIdx) (k : Option Candidate) :
    (confirmWindow a mode now c v b k).Lawful mode := by
  unfold confirmWindow
  split
  · exact .arrowFor ..
  · split
    · split
      · exact .arrowFor ..
      · exact .arrowFor ..
    · exact .arrowFor ..

theorem evalArrow_lawful (a : Layout) (p : Published) (mode : HallMode) (now : Ticks) (c : SignCfg) (old : SignRec) (b : SegIdx) :
    (evalArrow a p mode now c old b).Lawful mode := by
  unfold evalArrow
  split
  · split
    · exact .arrowFor ..
    · split
      · exact .arrowFor ..
      · split
        · exact .arrowFor ..
        · split
          · exact .arrowFor ..
          · exact confirmWindow_lawful ..
  · exact .arrowFor ..

/-- The evaluation answers a lawful sign, whatever the sign held (R103 to R112). -/
theorem evalSign_lawful (a : Layout) (p : Published) (mode : HallMode) (now : Ticks) (c : SignCfg) (old : SignRec) :
    (evalSign a p mode now c old).Lawful mode := by
  have plain : (SignRec.plain .cross .steady).Lawful mode := ⟨by simp [SignRec.plain], nofun, rfl⟩
  unfold evalSign
  split
  · exact .dark mode
  · split
    · exact ⟨by simp [SignRec.plain], nofun, rfl⟩
    · split
      · exact plain
      · split
        · exact plain
        · exact evalArrow_lawful ..

/-- A re-coded sign is lawful in the new mode (R113). -/
theorem SignRec.Lawful.recode {old : HallMode} {r : SignRec} (h : r.Lawful old) (mode : HallMode) : (r.recode mode).Lawful mode := by
  obtain ⟨segment, -, modifier⟩ := h
  unfold SignRec.recode
  split
  · rename_i d arrow
    exact ⟨segment, nofun, by simp [arrow]⟩
  · rename_i exitHere
    exact ⟨segment, nofun, by simp [exitHere]⟩
  · rename_i dark
    exact ⟨segment, nofun, by simpa [dark] using modifier⟩
  · rename_i cross
    exact ⟨segment, nofun, by simpa [cross] using modifier⟩

/-- A cleared candidate leaves a sign lawful (R117). -/
theorem SignRec.Lawful.cleared {mode : HallMode} {r : SignRec} (h : r.Lawful mode) :
    ({ r with candidate := none } : SignRec).Lawful mode :=
  ⟨h.segment, nofun, h.modifier⟩

/-! ## The law -/

theorem SignLaw.postAll {s : State} (h : SignLaw s) (l : List Notice) : SignLaw (s.postAll l) :=
  h.congr (by rw [State.postAll_aspect]) (by rw [State.postAll_alarm])

theorem SignLaw.respond {s : State} (h : SignLaw s) (st : Status) (b : List Byte) : SignLaw (s.respond st b) :=
  h.congr (by rw [State.respond_aspect]) (by rw [State.respond_alarm])

theorem SignLaw.dropFrame {s : State} (h : SignLaw s) : SignLaw s.dropFrame := h.congr rfl rfl

theorem SignLaw.kickAll {s : State} (h : SignLaw s) : SignLaw s.kickAll := by
  obtain ⟨_, _, e⟩ := s.kickAll_frame
  rw [e]
  exact h.congr rfl rfl

/-- What HANDOVER leaves of the signs and the mode (R97, R102). -/
theorem State.nextRun_signs (s : State) : s.nextRun.aspect = s.aspect ∧ s.nextRun.alarm = s.alarm ∧ s.nextRun.signLine = s.signLine := by
  unfold State.nextRun
  split
  · exact ⟨rfl, rfl, rfl⟩
  · exact ⟨rfl, rfl, rfl⟩

theorem adoptField_signs (p : Published) (s : State) {t : State} (ht : { s with aspect := { s.aspect with
      published := some p, lastGeneration := p.field.generation } } = t) :
    (adoptField p s).1.aspect.signs = (t.evalSigns p).aspect.signs ∧ (adoptField p s).1.alarm = s.alarm
    ∧ (adoptField p s).1.signLine = (t.evalSigns p).signLine := by
  obtain ⟨_, _, hf⟩ := formEgress_frame p (t.evalSigns p)
  obtain ⟨_, _, he⟩ := t.evalSigns_frame p
  obtain ⟨_, hb⟩ := ((formEgress p (t.evalSigns p)).1.drive OutputSource.isInUse).takeField_frame p
  have alarm : (t.evalSigns p).alarm = s.alarm := by rw [he, ← ht]; rfl
  unfold adoptField
  dsimp only
  rw [ht, hb, hf]
  exact ⟨rfl, alarm, rfl⟩

theorem SignLaw.evalSigns {s : State} (h : SignLaw s) (p : Published) : SignLaw (s.evalSigns p) := by
  obtain ⟨shown, kept, -⟩ := s.evalSigns_eq p
  obtain ⟨_, _, frame⟩ := s.evalSigns_frame p
  have mode : (s.evalSigns p).alarm.mode = s.alarm.mode := by rw [frame]; rfl
  rw [signLaw_iff] at h ⊢
  intro i
  rw [mode]
  cases hc : s.active.signs.get i with
  | none => rw [kept i hc]; exact h i
  | some c => rw [shown i c hc]; exact evalSign_lawful ..

theorem SignLaw.handover {s : State} (h : SignLaw s) : After (exec .handover s) SignLaw := by
  refine .of_next ?_
  split
  · exact h
  · split
    · rename_i r _ _
      dsimp only
      refine (SignLaw.kickAll ?_).postAll _
      obtain ⟨aspect, alarm, -⟩ := (adoptField (s.handedOver r)
        (s.setEngine { s.engine with generation := s.engine.generation + 1 })).1.nextRun_signs
      obtain ⟨signs, alarm', -⟩ := adoptField_signs (s.handedOver r)
        (s.setEngine { s.engine with generation := s.engine.generation + 1 }) rfl
      refine SignLaw.congr (SignLaw.evalSigns (h.congr ?_ ?_) (s.handedOver r)) (by rw [aspect, signs]) ?_
      · rfl
      · rfl
      · rw [alarm, alarm', State.evalSigns_alarm]
    · exact h

/-- The mode at a commit and at REINIT stays (R20). -/
theorem State.commit_mode (s : State) : s.commit.alarm.mode = s.alarm.mode := by
  have finish (r : State × List (List Notice)) : (s.finishCommit r).alarm = r.1.alarm := by
    obtain ⟨_, _, h⟩ := ({ r.1 with freeCount := r.1.freeCount + r.2.flatten.length }.drive fun _ => true).kickAll_frame
    unfold State.finishCommit
    rw [State.postAll_alarm, h]
    rfl
  obtain ⟨_, _, _, _, _, _, _, _, _, _, h⟩ := adopt_frame s.active s.beforeCommit
  rw [State.commit_eq, finish, h]
  rfl

theorem SignLaw.exec {s : State} (h : SignLaw s) (c : Instr) : After (exec c s) SignLaw := by
  cases hk : reach c with
  | field =>
    cases c with
    | handover => exact h.handover
    | _ => cases hk
  | mode =>
    cases c with
    | hallMode =>
      refine .of_next ?_
      split
      · rename_i seq mode _
        split
        · exact h.dropFrame
        · split
          · exact (h.congr rfl rfl : SignLaw (s.accept seq)).dropFrame
          · obtain ⟨_, _, _, _, _, e⟩ := changeMode_frame mode (s.accept seq)
            rw [Emit.run_of_eq e]
            refine (SignLaw.kickAll ?_).dropFrame
            rw [signLaw_iff]
            intro i
            simp only [Table.get_ofFn]
            exact ((signLaw_iff s).1 h i).recode mode
      · exact h
    | _ => cases hk
  | whole =>
    have dark (t : State) (ht : t.aspect.signs = Table.replicate 192 SignRec.dark) : SignLaw t := by
      rw [signLaw_iff, ht]
      intro i
      rw [Table.get_replicate]
      exact .dark _
    cases c with
    | coldReset => exact .of_next (dark _ rfl)
    | loadEvent =>
      refine execLoadEvent_keeps h fun _ => ?_
      obtain ⟨_, _, e⟩ := s.takeUp_frame
      rw [e]
      exact h.congr rfl rfl
    | commitLayout =>
      refine execCommitLayout_keeps h h.respond fun _ => SignLaw.respond ?_ _ _
      rw [signLaw_iff, s.commit_aspect, s.commit_mode]
      intro i
      simp only [State.beforeCommit, State.adoptSigns, Table.get_ofFn]
      split
      · exact ((signLaw_iff s).1 h i).cleared
      · exact .dark _
    | reinit =>
      refine execReinit_keeps h h.respond fun _ _ => SignLaw.respond (dark _ ?_) _ _
      rw [s.restart_aspect]
    | _ => cases hk
  | _ =>
    exact (exec_frame hk (by nofun) s).imp fun _ f => h.congr (by rw [f.aspect (by nofun) (by nofun)]) (f.mode (by nofun))

/-- Settles O53: evaluations, re-codings and DARK signs are lawful records, and nothing else reaches a sign or the mode. -/
theorem signLawIsKept : Obligations.SignLawIsKept := fun _ _ hs h =>
  step_keeps (P := SignLaw) (fun _ h => h) (fun _ _ h => h.congr rfl rfl) (fun c _ h => h.exec c) hs h

end Machine
end Sys2Proof
end

/-!
The law of the heads and the change queue (R129, R131 to R134).
-/
section
namespace Sys2Proof
namespace Machine

/-! ## The change queue and the heads -/

/-- What the law says of one head. -/
structure HeadRec.Lawful (h : HeadRec) : Prop where
  errors : h.errors ≤ 255
  misses : h.misses ≤ 4
  silent : h.state = .lost ↔ h.misses = 4

theorem headLaw_iff (s : State) : HeadLaw s ↔ s.signLine.queue.Nodup
    ∧ (∀ i, (s.signLine.heads.get i).state = .lost → i ∉ s.signLine.queue) ∧ ∀ i, (s.signLine.heads.get i).Lawful :=
  ⟨fun h => ⟨h.once, h.lost, fun i => ⟨h.errors i, h.misses i, h.silent i⟩⟩,
    fun ⟨once, lost, lawful⟩ => ⟨once, lost, fun i => (lawful i).errors, fun i => (lawful i).misses, fun i => (lawful i).silent⟩⟩

/-- The law reads the queue, and of each head its state and counts. -/
theorem HeadLaw.congr {s t : State} (h : HeadLaw s) (queue : t.signLine.queue = s.signLine.queue)
    (heads : ∀ i, (t.signLine.heads.get i).state = (s.signLine.heads.get i).state
      ∧ (t.signLine.heads.get i).errors = (s.signLine.heads.get i).errors
      ∧ (t.signLine.heads.get i).misses = (s.signLine.heads.get i).misses) : HeadLaw t := by
  constructor
  · rw [queue]; exact h.once
  · intro i lost
    rw [queue]
    exact h.lost i ((heads i).1 ▸ lost)
  · intro i
    rw [(heads i).2.1]; exact h.errors i
  · intro i
    rw [(heads i).2.2]; exact h.misses i
  · intro i
    rw [(heads i).1, (heads i).2.2]; exact h.silent i

theorem HeadLaw.of_eq {s t : State} (h : HeadLaw s) (queue : t.signLine.queue = s.signLine.queue)
    (heads : t.signLine.heads = s.signLine.heads) : HeadLaw t :=
  h.congr queue fun i => by rw [heads]; exact ⟨rfl, rfl, rfl⟩

theorem HeadLaw.postAll {s : State} (h : HeadLaw s) (l : List Notice) : HeadLaw (s.postAll l) :=
  h.of_eq (by rw [State.postAll_signLine]) (by rw [State.postAll_signLine])

theorem HeadLaw.respond {s : State} (h : HeadLaw s) (st : Status) (b : List Byte) : HeadLaw (s.respond st b) :=
  h.of_eq (by rw [State.respond_signLine]) (by rw [State.respond_signLine])

theorem HeadLaw.dropFrame {s : State} (h : HeadLaw s) : HeadLaw s.dropFrame := h.of_eq rfl rfl

/-- Signs that may be admitted join the queue (R129). -/
theorem HeadLaw.joined {s t : State} (h : HeadLaw s) {added : List SignIdx} (nodup : added.Nodup)
    (admitted : ∀ i ∈ added, s.admits i = true) (queue : t.signLine.queue = s.signLine.queue ++ added)
    (heads : t.signLine.heads = s.signLine.heads) : HeadLaw t := by
  simp only [State.admits, Bool.and_eq_true, decide_eq_true_eq] at admitted
  obtain ⟨once, lost, lawful⟩ := (headLaw_iff s).1 h
  rw [headLaw_iff, queue, heads]
  refine ⟨List.nodup_append.2 ⟨once, nodup, ?_⟩, ?_, lawful⟩
  · rintro i old j new rfl
    exact (admitted i new).1 old
  · intro i isLost
    rw [List.mem_append, not_or]
    exact ⟨lost i isLost, fun new => (admitted i new).2 isLost⟩

theorem HeadLaw.offers {s : State} (h : HeadLaw s) {l : List SignIdx} (nodup : l.Nodup) : HeadLaw (l.foldl State.offer s) := by
  refine h.joined (added := l.filter s.admits) (nodup.filter _) (fun i hi => (List.mem_filter.1 hi).2) (State.offers_queue nodup s) ?_
  obtain ⟨_, frame⟩ := State.offers_frame l s
  rw [frame]; rfl

theorem HeadLaw.evalSigns {s : State} (h : HeadLaw s) (p : Published) : HeadLaw (s.evalSigns p) := by
  obtain ⟨-, -, queue⟩ := s.evalSigns_eq p
  refine h.joined ?_ ?_ queue ?_
  · exact s.active.signs.defined_nodup.sublist (List.filter_sublist.map _)
  · intro i hi
    obtain ⟨e, he, rfl⟩ := List.mem_map.1 hi
    have joins := (List.mem_filter.1 he).2
    simp only [State.joins, Bool.and_eq_true] at joins
    exact joins.2
  · obtain ⟨_, _, frame⟩ := s.evalSigns_frame p
    rw [frame]; rfl

/-! ## Exchanges -/

/-- An exchange begun touches a head's sequence bit and last sent aspect alone (R124, R125). -/
theorem State.kick_heads (s : State) (t : TrunkIdx) : (s.kick t).signLine.queue = s.signLine.queue
    ∧ ∀ i, ∃ seq last, (s.kick t).signLine.heads.get i = { s.signLine.heads.get i with seq := seq, lastSent := last } := by
  have same (i : SignIdx) : ∃ seq last, s.signLine.heads.get i = { s.signLine.heads.get i with seq := seq, lastSent := last } :=
    ⟨_, _, rfl⟩
  have aspect (u : State) (hu : u.signLine.heads = s.signLine.heads) (i : SignIdx) (c : SignCfg) (j : SignIdx) :
      ∃ seq last, (u.startAspect t i c).signLine.heads.get j = { s.signLine.heads.get j with seq := seq, lastSent := last } := by
    simp only [State.startAspect, State.startExchange, State.setTrunk_signLine, State.setHead, hu, Table.get_set]
    split
    · rename_i e
      exact ⟨_, _, by rw [e]⟩
    · exact same j
  unfold State.kick
  dsimp only
  split
  · split
    · exact ⟨rfl, aspect s rfl _ _⟩
    · split
      · exact ⟨rfl, same⟩
      · split
        · rename_i i c _
          exact ⟨rfl, aspect (s.setTrunk t { s.signLine.trunks.get t with roundRobin := c.address }) rfl i c⟩
        · exact ⟨rfl, same⟩
  · exact ⟨rfl, same⟩

theorem HeadLaw.kick {s : State} (h : HeadLaw s) (t : TrunkIdx) : HeadLaw (s.kick t) := by
  obtain ⟨queue, heads⟩ := s.kick_heads t
  refine h.congr queue fun i => ?_
  obtain ⟨_, _, e⟩ := heads i
  rw [e]
  exact ⟨rfl, rfl, rfl⟩

theorem HeadLaw.kickAll {s : State} (h : HeadLaw s) : HeadLaw s.kickAll := (h.kick 0).kick 1

theorem errorsAfter_le {n : Nat} (h : n ≤ 255) (success : Bool) : errorsAfter n success ≤ 255 := by
  unfold errorsAfter
  split <;> omega

theorem missesAfter_le {n : Nat} (h : n ≤ 4) (o : ReplyOutcome) : missesAfter n o ≤ 4 := by
  cases o <;> simp [missesAfter, h]

/-- A head is LOST after an exchange exactly when its misses then stand at 4 (R134). -/
theorem headStateAfter_lost {h : HeadRec} (lawful : h.Lawful) (threshold : Nat) (o : ReplyOutcome) (success : Bool) (errors : Nat) :
    headStateAfter threshold h.state o success errors (missesAfter h.misses o) = .lost ↔ missesAfter h.misses o = 4 := by
  obtain ⟨-, le, silent⟩ := lawful
  cases o with
  | good _ _ _ _ =>
    cases h.state <;> simp only [headStateAfter, missesAfter] <;> (try split) <;> simp
  | garbled =>
    rw [missesAfter, ← silent]
    cases h.state <;> simp only [headStateAfter] <;> (try split) <;> simp
  | miss =>
    cases hs : h.state with
    | lost =>
      have : h.misses = 4 := silent.1 hs
      simp [headStateAfter, missesAfter, this]
    | absent => simp only [headStateAfter]; split <;> simp [*]
    | online => simp only [headStateAfter]; split <;> [skip; split] <;> simp [*]
    | degraded => simp only [headStateAfter]; split <;> simp [*]

/-- The head an exchange ends with stays lawful (R133, R134). -/
theorem State.headAfter_lawful {s : State} {i : SignIdx} (h : (s.signLine.heads.get i).Lawful) (f : TrunkFrame) (o : ReplyOutcome) :
    (s.headAfter i f o).Lawful :=
  ⟨errorsAfter_le h.errors _, missesAfter_le h.misses o, headStateAfter_lost h ..⟩

theorem mem_of_mem_queueAfter {q : List SignIdx} {i j : SignIdx} {o : ReplyOutcome} {confirms lost : Bool}
    (h : j ∈ queueAfter q i o confirms lost) : j ∈ q ∨ j = i := by
  have moved (h : j ∈ q.erase i ++ [i]) : j ∈ q ∨ j = i := by
    rw [List.mem_append, List.mem_singleton] at h
    exact h.imp_left List.mem_of_mem_erase
  cases o with
  | good _ _ _ _ =>
    simp only [queueAfter] at h
    split at h
    · exact .inl (List.mem_of_mem_erase h)
    · exact moved h
  | garbled =>
    simp only [queueAfter] at h
    split at h
    · exact moved h
    · exact .inl h
  | miss =>
    simp only [queueAfter] at h
    split at h
    · exact .inl (List.mem_of_mem_erase h)
    · split at h
      · exact moved h
      · exact .inl h

theorem queueAfter_nodup {q : List SignIdx} (h : q.Nodup) (i : SignIdx) (o : ReplyOutcome) (confirms lost : Bool) :
    (queueAfter q i o confirms lost).Nodup := by
  have moved : (q.erase i ++ [i]).Nodup :=
    List.nodup_append.2 ⟨h.erase i, List.nodup_singleton i, by
      rintro j hj k hk rfl
      rw [List.mem_singleton] at hk
      exact h.not_mem_erase (hk ▸ hj)⟩
  cases o with
  | good _ _ _ _ =>
    simp only [queueAfter]
    split
    · exact h.erase i
    · exact moved
  | garbled =>
    simp only [queueAfter]
    split
    · exact moved
    · exact h
  | miss =>
    simp only [queueAfter]
    split
    · exact h.erase i
    · split
      · exact moved
      · exact h

/-- A head that is LOST after an exchange has no entry in the queue: it enters LOST by a miss that takes its entry, or was LOST and had
none (R130, R131, R134). -/
theorem State.lost_not_queued {s : State} (h : HeadLaw s) (i : SignIdx) (f : TrunkFrame) (o : ReplyOutcome)
    (lost : (s.headAfter i f o).state = .lost) :
    i ∉ queueAfter s.signLine.queue i o (s.confirms i o)
      ((s.headAfter i f o).state = .lost && (s.signLine.heads.get i).state ≠ .lost) := by
  have lawful := ((headLaw_iff s).1 h).2.2 i
  have misses : missesAfter (s.signLine.heads.get i).misses o = 4 := (headStateAfter_lost lawful ..).1 lost
  cases o with
  | good _ _ _ _ => simp [missesAfter] at misses
  | garbled =>
    have absent : i ∉ s.signLine.queue := h.lost i (lawful.silent.2 misses)
    simp [queueAfter, absent]
  | miss =>
    by_cases was : (s.signLine.heads.get i).state = .lost
    · have absent : i ∉ s.signLine.queue := h.lost i was
      simp [queueAfter, was, absent]
    · simpa [queueAfter, lost, was] using h.once.not_mem_erase

/-- The outcome of an exchange moves its head and the queue together (R130 to R136). -/
theorem HeadLaw.applyOutcome {s t : State} (h : HeadLaw s) {i : SignIdx} {f : TrunkFrame} {o : ReplyOutcome}
    (ht : (applyOutcome i f o s).1 = t) : HeadLaw t := by
  have heads : t.signLine.heads = s.signLine.heads.set i (s.headAfter i f o) := by rw [← ht]; rfl
  have queue : t.signLine.queue = queueAfter s.signLine.queue i o (s.confirms i o)
      ((s.headAfter i f o).state = .lost && (s.signLine.heads.get i).state ≠ .lost) := by rw [← ht]; rfl
  obtain ⟨once, lost, lawful⟩ := (headLaw_iff s).1 h
  rw [headLaw_iff, heads, queue]
  refine ⟨queueAfter_nodup once .., ?_, ?_⟩
  · intro j isLost
    by_cases hj : j = i
    · subst hj
      rw [Table.get_set_self] at isLost
      exact s.lost_not_queued h j f o isLost
    · rw [Table.get_set_ne _ _ hj] at isLost
      exact fun queued => (mem_of_mem_queueAfter queued).elim (lost j isLost) hj
  · intro j
    rw [Table.get_set]
    split
    · exact State.headAfter_lawful (lawful i) f o
    · exact lawful j

theorem HeadLaw.endExchange {s : State} (h : HeadLaw s) (t : TrunkIdx) (x : Exchange) (o : ReplyOutcome) :
    HeadLaw ((endExchange t x o).run s) := by
  refine HeadLaw.postAll ?_ _
  unfold Sys2Proof.Machine.endExchange
  dsimp only
  refine HeadLaw.kick ?_ t
  have freed : HeadLaw (s.setTrunk t { s.signLine.trunks.get t with exchange := none }) := h.of_eq rfl rfl
  split
  · exact freed
  · exact freed.applyOutcome rfl

theorem HeadLaw.exec_signLine {s : State} (h : HeadLaw s) {c : Instr} (hc : reach c = .signLine) :
    After (exec c s) HeadLaw := by
  cases c with
  | trunkFrameEnd t =>
    refine .of_next ?_
    split
    · exact h
    · exact h.of_eq rfl rfl
  | replyComplete t bytes =>
    refine .of_next ?_
    split
    · exact h
    · split
      · exact h.endExchange ..
      · exact h
  | replyWindowExpiry t b =>
    refine .of_next ?_
    split
    · exact h
    · exact h.endExchange ..
  | trunkOvercurrent t =>
    refine .of_next ?_
    split
    · exact h.of_eq rfl rfl
    · exact h
  | holdOffExpiry t =>
    refine .of_next ?_
    split
    · exact h.of_eq rfl rfl
    · exact h
  | trunkRestored t =>
    refine .of_next ?_
    split
    · refine HeadLaw.postAll (HeadLaw.kick ?_ t) _
      exact h.of_eq rfl rfl
    · exact h
  | trunkRecheckOvercurrent t =>
    refine .of_next ?_
    split
    · exact h.of_eq rfl rfl
    · exact h
  | _ => cases hc

/-! ## Adoptions -/

theorem HeadRec.Lawful.cold (pending : Bool) : ({ HeadRec.cold with defaultPending := pending } : HeadRec).Lawful :=
  ⟨by simp [HeadRec.cold], by simp [HeadRec.cold], by simp [HeadRec.cold]⟩

theorem thresholdState_lost (old new : Nat) (h : HeadRec) : thresholdState old new h = .lost ↔ h.state = .lost := by
  unfold thresholdState
  split <;> simp [*]
  split <;> simp

/-- A head under a new layout is lawful, and LOST only when it is the head it was, kept (R20). -/
theorem headUnder_lawful {h : HeadRec} (lawful : h.Lawful) (old new : Option SignCfg) (n m : Nat) :
    (headUnder old new n m h).Lawful ∧ ((headUnder old new n m h).state = .lost → h.state = .lost) := by
  have fresh (p : Bool) : ({ HeadRec.cold with defaultPending := p } : HeadRec).Lawful
      ∧ (({ HeadRec.cold with defaultPending := p } : HeadRec).state = .lost → h.state = .lost) := ⟨.cold p, nofun⟩
  cases old with
  | none =>
    cases new with
    | none => exact ⟨lawful, id⟩
    | some d => exact fresh true
  | some c =>
    cases new with
    | none => exact fresh false
    | some d =>
      simp only [headUnder]
      split
      · refine ⟨⟨lawful.errors, lawful.misses, ?_⟩, (thresholdState_lost n m h).1⟩
        exact (thresholdState_lost n m h).trans lawful.silent
      · exact fresh true

theorem HeadLaw.adopted {s : State} (h : HeadLaw s) (old : Layout) : HeadLaw (adopt old s).1 := by
  obtain ⟨once, lost, lawful⟩ := (headLaw_iff s).1 h
  have adopts := adopt_adopts old s
  rw [headLaw_iff, adopts.queue]
  refine ⟨once.filter _, ?_, ?_⟩
  · intro i isLost queued
    rw [adopts.heads] at isLost
    exact lost i ((headUnder_lawful (lawful i) ..).2 isLost) (List.mem_of_mem_filter queued)
  · intro i
    rw [adopts.heads]
    exact (headUnder_lawful (lawful i) ..).1

/-! ## The law -/

theorem HeadLaw.handover {s : State} (h : HeadLaw s) : After (exec .handover s) HeadLaw := by
  refine .of_next ?_
  split
  · exact h
  · split
    · rename_i r _ _
      dsimp only
      refine (HeadLaw.kickAll ?_).postAll _
      obtain ⟨-, -, line⟩ := (adoptField (s.handedOver r)
        (s.setEngine { s.engine with generation := s.engine.generation + 1 })).1.nextRun_signs
      obtain ⟨-, -, line'⟩ := adoptField_signs (s.handedOver r)
        (s.setEngine { s.engine with generation := s.engine.generation + 1 }) rfl
      refine HeadLaw.of_eq (HeadLaw.evalSigns (h.of_eq ?_ ?_) (s.handedOver r)) (by rw [line, line']) (by rw [line, line'])
      · rfl
      · rfl
    · exact h

theorem HeadLaw.changeMode {s t : State} (h : HeadLaw s) {mode : HallMode} (ht : (changeMode mode s).1 = t) : HeadLaw t := by
  obtain ⟨_, _, _, _, frame⟩ := moveGrace_frame mode (s.setMode mode)
  have moved : HeadLaw (moveGrace mode (s.setMode mode)).1 := by
    rw [frame]
    exact h.of_eq rfl rfl
  rw [← ht]
  refine HeadLaw.offers ?_ (signsWhere_nodup _)
  exact moved.of_eq rfl rfl

theorem HeadLaw.exec {s : State} (h : HeadLaw s) (c : Instr) : After (exec c s) HeadLaw := by
  cases hk : reach c with
  | field =>
    cases c with
    | handover => exact h.handover
    | _ => cases hk
  | signLine => exact h.exec_signLine hk
  | mode =>
    cases c with
    | hallMode =>
      refine .of_next ?_
      split
      · rename_i seq mode _
        split
        · exact h.dropFrame
        · split
          · exact (h.of_eq rfl rfl : HeadLaw (s.accept seq)).dropFrame
          · refine (HeadLaw.kickAll (HeadLaw.postAll ?_ _)).dropFrame
            exact HeadLaw.changeMode (s := s.accept seq) (h.of_eq rfl rfl) rfl
      · exact h
    | _ => cases hk
  | whole =>
    cases c with
    | coldReset =>
      refine .of_next ((headLaw_iff _).2 ⟨List.nodup_nil, fun _ _ => List.not_mem_nil, fun i => ?_⟩)
      simp only [State.cold, Table.get_replicate]
      exact .cold false
    | loadEvent =>
      refine execLoadEvent_keeps h fun _ => HeadLaw.postAll (HeadLaw.kickAll ?_) _
      refine h.congr rfl fun i => ?_
      simp [State.loadHeads, State.loadHead]
    | commitLayout =>
      have finish (r : State × List (List Notice)) (hr : HeadLaw r.1) : HeadLaw (s.finishCommit r) := by
        refine (HeadLaw.kickAll ?_).postAll _
        exact hr.of_eq rfl rfl
      refine execCommitLayout_keeps h h.respond fun _ => ?_
      rw [State.commit_eq]
      refine (finish _ (HeadLaw.adopted ?_ _)).respond _ _
      exact h.of_eq rfl rfl
    | reinit =>
      have finish (r : State × List (List Notice)) (hr : HeadLaw r.1) : HeadLaw (s.finishRestart r) := by
        refine (HeadLaw.kickAll ?_).postAll _
        refine HeadLaw.of_eq (s := r.1.darken) ?_ rfl rfl
        refine HeadLaw.offers ?_ (signsWhere_nodup _)
        exact hr.of_eq rfl rfl
      refine execReinit_keeps h h.respond fun _ _ => ?_
      rw [State.restart_eq]
      refine (finish _ (HeadLaw.adopted ?_ _)).respond _ _
      exact h.of_eq rfl rfl
    | _ => cases hk
  | _ =>
    exact (exec_frame hk (by nofun) s).imp fun _ f =>
      have same := f.signLine (by nofun) (by nofun) (by nofun)
      h.of_eq (by rw [same]) (by rw [same])

/-- Settles O54: offers take in no LOST head, and an outcome moves a head's counts, its state and its entry together. -/
theorem headLawIsKept : Obligations.HeadLawIsKept := fun _ _ hs h =>
  step_keeps (P := HeadLaw) (fun _ h => h) (fun _ _ h => h.of_eq rfl rfl) (fun c _ h => h.exec c) hs h

end Machine
end Sys2Proof
end

/-!
Which bits on the bus carry an advert (R151, R203): stuff bits, bytes, packed path lists, entries and whole frames.
-/
section
namespace Sys2Proof
namespace Machine

/-! ## Stuff bits -/

/-- Bits behind stuffed bits do not keep them from being read (R203). -/
theorem unstuff_stuff (x rest : List Bool) (run : Nat) : ∃ more, unstuff run (stuff run x ++ rest) = x ++ more := by
  induction x generalizing run with
  | nil => exact ⟨_, rfl⟩
  | cons b x ih =>
    unfold stuff
    by_cases due : run = 5
    · obtain ⟨more, h⟩ := ih (if b then 1 else 0)
      refine ⟨more, ?_⟩
      rw [if_pos due, due]
      simpa [unstuff] using h
    · obtain ⟨more, h⟩ := ih (if b then run + 1 else 0)
      refine ⟨more, ?_⟩
      rw [if_neg due]
      simpa [unstuff, due] using h

/-- Bits read without their stuff bits stood behind them on the bus. -/
theorem stuff_of_unstuff {x more bits : List Bool} {run : Nat} (h : unstuff run bits = x ++ more) :
    ∃ rest, bits = stuff run x ++ rest := by
  induction x generalizing run bits with
  | nil => exact ⟨bits, rfl⟩
  | cons b x ih =>
    cases bits with
    | nil => cases h
    | cons c bits =>
      unfold unstuff at h
      unfold stuff
      by_cases due : run = 5
      · rw [if_pos due] at h ⊢
        cases c with
        | true => cases h
        | false =>
          cases bits with
          | nil => cases h
          | cons d bits =>
            simp only [Bool.false_eq_true, if_false, unstuff, OfNat.zero_ne_ofNat, List.cons_append, List.cons.injEq] at h
            obtain ⟨rfl, h⟩ := h
            obtain ⟨rest, rfl⟩ := ih h
            exact ⟨rest, rfl⟩
      · rw [if_neg due, List.cons_append, List.cons.injEq] at h
        obtain ⟨rfl, h⟩ := h
        obtain ⟨rest, rfl⟩ := ih h
        exact ⟨rest, by rw [if_neg due]; rfl⟩

/-! ## Bytes as bits -/

theorem byteBits_bitsNat : ∀ b7 b6 b5 b4 b3 b2 b1 b0 : Bool,
    byteBits (byte (bitsNat [b7, b6, b5, b4, b3, b2, b1, b0])) = [b7, b6, b5, b4, b3, b2, b1, b0] := by decide

theorem byteBits_injective {a b : Byte} (h : byteBits a = byteBits b) : a = b := by
  simp only [byteBits, List.cons.injEq, and_true] at h
  obtain ⟨h7, h6, h5, h4, h3, h2, h1, h0⟩ := h
  ext i hi
  interval_cases i <;> assumption

theorem byte_bitsNat (b : Byte) : byte (bitsNat [b[7], b[6], b[5], b[4], b[3], b[2], b[1], b[0]]) = b :=
  byteBits_injective (byteBits_bitsNat ..)

/-- Whole bytes in front of any bits are read back. -/
theorem bitsBytes_append (bytes : List Byte) (more : List Bool) :
    bitsBytes (bytes.flatMap byteBits ++ more) = bytes ++ bitsBytes more := by
  induction bytes with
  | nil => rfl
  | cons b bytes ih =>
    simp only [List.flatMap_cons, byteBits, List.cons_append, List.nil_append, bitsBytes, byte_bitsNat, ih]

/-- The bytes some bits hold stand in front of them. -/
theorem bits_of_bitsBytes (bits : List Bool) : ∃ more, bits = (bitsBytes bits).flatMap byteBits ++ more := by
  fun_induction bitsBytes bits with
  | case1 b7 b6 b5 b4 b3 b2 b1 b0 rest ih =>
    obtain ⟨more, h⟩ := ih
    refine ⟨more, ?_⟩
    rw [List.flatMap_cons, byteBits_bitsNat, List.append_assoc, ← h]
    rfl
  | case2 bits _ => exact ⟨bits, rfl⟩

/-- The bytes read from the bits of a frame begin with some bytes exactly when the bits begin with these, stuffed. -/
theorem bitsBytes_unstuff_iff (bits : List Bool) (frame : List Byte) :
    (∃ more, bitsBytes (unstuff 0 bits) = frame ++ more) ↔ ∃ rest, bits = stuff 0 (frame.flatMap byteBits) ++ rest := by
  constructor
  · rintro ⟨more, h⟩
    obtain ⟨left, split⟩ := bits_of_bitsBytes (unstuff 0 bits)
    rw [h, List.flatMap_append, List.append_assoc] at split
    exact stuff_of_unstuff split
  · rintro ⟨rest, rfl⟩
    obtain ⟨more, h⟩ := unstuff_stuff (frame.flatMap byteBits) rest 0
    exact ⟨_, by rw [h, bitsBytes_append]⟩

/-! ## Packed ids -/

theorem hallId_val (i : HallId) : hallId i.val = i := Fin.ext (Nat.mod_eq_of_lt i.isLt)

theorem highHalf_idPair {a b : Nat} (ha : a < 16) (hb : b < 16) : highHalf (idPair a b) = a := by
  rw [highHalf, idPair, byte_toNat (by omega)]
  omega

theorem lowHalf_idPair {a b : Nat} (ha : a < 16) (hb : b < 16) : lowHalf (idPair a b) = b := by
  rw [lowHalf, idPair, byte_toNat (by omega)]
  omega

/-- A byte is its halves put together. -/
theorem idPair_halves (b : Byte) : idPair (highHalf b) (lowHalf b) = b := by
  refine BitVec.eq_of_toNat_eq ?_
  have := b.isLt
  rw [idPair, highHalf, lowHalf, byte_toNat (by omega)]
  omega

theorem highHalf_lt (b : Byte) : highHalf b < 16 := by
  have := b.isLt
  rw [highHalf]
  omega

theorem lowHalf_lt (b : Byte) : lowHalf b < 16 := Nat.mod_lt _ (by decide)

theorem hallId_of_lt {n : Nat} (h : n < 16) : (hallId n).val = n := Nat.mod_eq_of_lt h

theorem packIds_unpackIds (bytes : List Byte) : packIds (unpackIds bytes) = bytes := by
  induction bytes with
  | nil => rfl
  | cons b bytes ih =>
    have rest : packIds (unpackIds (b :: bytes)) = idPair (hallId (highHalf b)).val (hallId (lowHalf b)).val :: packIds (unpackIds bytes) := rfl
    rw [rest, hallId_of_lt (highHalf_lt b), hallId_of_lt (lowHalf_lt b), idPair_halves, ih]

theorem length_unpackIds (bytes : List Byte) : (unpackIds bytes).length = 2 * bytes.length := by
  induction bytes with
  | nil => rfl
  | cons b bytes ih =>
    have rest : (unpackIds (b :: bytes)).length = (unpackIds bytes).length + 2 := rfl
    rw [rest, ih, List.length_cons]
    omega

/-- A packed list of even length reads back, behind it whatever stands behind it (R203). -/
theorem unpackIds_packIds_append {ids : List HallId} (even : ids.length % 2 = 0) (more : List Byte) :
    unpackIds (packIds ids ++ more) = ids ++ unpackIds more := by
  fun_induction packIds ids with
  | case1 => rfl
  | case2 a => simp at even
  | case3 a b rest ih =>
    have two : unpackIds (idPair a.val b.val :: packIds rest ++ more)
        = hallId (highHalf (idPair a.val b.val)) :: hallId (lowHalf (idPair a.val b.val)) :: unpackIds (packIds rest ++ more) := rfl
    rw [two, highHalf_idPair a.isLt b.isLt, lowHalf_idPair a.isLt b.isLt, hallId_val, hallId_val,
      ih (by simp only [List.length_cons] at even; omega)]
    rfl

theorem length_packIds (ids : List HallId) : (packIds ids).length = (ids.length + 1) / 2 := by
  fun_induction packIds ids with
  | case1 => rfl
  | case2 a => simp
  | case3 a b rest ih =>
    simp only [List.length_cons, ih]
    omega

/-- The padding half byte of an odd list holds 0 (R203). -/
theorem packIds_pad {ids : List HallId} (odd : ids.length % 2 = 1) : packIds (ids ++ [0]) = packIds ids := by
  fun_induction packIds ids with
  | case1 => simp at odd
  | case2 a => rfl
  | case3 a b rest ih =>
    have two : packIds (a :: b :: rest ++ [0]) = idPair a.val b.val :: packIds (rest ++ [0]) := rfl
    rw [two, ih (by simp only [List.length_cons] at odd; omega)]

/-- A path list with the half byte that fills an odd one. -/
def padded (path : List HallId) (pad : HallId) : List HallId := if path.length % 2 = 1 then path ++ [pad] else path

theorem padded_even (path : List HallId) (pad : HallId) : (padded path pad).length % 2 = 0 := by
  unfold padded
  split
  · simp; omega
  · omega

theorem length_packIds_padded (path : List HallId) (pad : HallId) : (packIds (padded path pad)).length = (path.length + 1) / 2 := by
  rw [length_packIds]
  unfold padded
  split
  · simp; omega
  · rfl

theorem padded_take (path : List HallId) (pad : HallId) : (padded path pad).take path.length = path := by
  unfold padded
  split <;> simp

/-- Any ids that are one more than an odd number are a path list with its padding. -/
theorem exists_padded {ids : List HallId} {len : Nat} (length : ids.length = 2 * ((len + 1) / 2)) :
    (ids.take len).length = len ∧ ∃ pad, ids = padded (ids.take len) pad := by
  have short : (ids.take len).length = len := by rw [List.length_take]; omega
  refine ⟨short, ?_⟩
  unfold padded
  rw [short]
  by_cases odd : len % 2 = 1
  · have last : (ids.drop len).length = 1 := by rw [List.length_drop]; omega
    obtain ⟨pad, h⟩ := List.length_eq_one_iff.1 last
    exact ⟨pad, by rw [if_pos odd, ← h, List.take_append_drop]⟩
  · exact ⟨0, by rw [if_neg odd, List.take_of_length_le (by omega)]⟩

/-! ## Entries (R203) -/

/-- The bytes of an entry's cost carry it, whatever its four high bits hold. -/
theorem cost_of_bytes {high cost : Nat} (hcost : cost ≤ Config.inf) :
    (byte (16 * high + cost / 65536)).toNat % 16 * 65536 + (byte (cost / 256)).toNat * 256 + (byte cost).toNat = cost := by
  have : cost < 1048576 := Nat.lt_succ_of_le hcost
  simp only [byte, BitVec.toNat_ofNat]
  omega

theorem bytes_of_cost (c2 c1 c0 : Byte) :
    byte (16 * (c2.toNat / 16) + (c2.toNat % 16 * 65536 + c1.toNat * 256 + c0.toNat) / 65536) = c2
    ∧ byte ((c2.toNat % 16 * 65536 + c1.toNat * 256 + c0.toNat) / 256) = c1
    ∧ byte (c2.toNat % 16 * 65536 + c1.toNat * 256 + c0.toNat) = c0 := by
  have := c2.isLt
  have := c1.isLt
  have := c0.isLt
  refine ⟨BitVec.eq_of_toNat_eq ?_, BitVec.eq_of_toNat_eq ?_, BitVec.eq_of_toNat_eq ?_⟩ <;>
    simp only [byte, BitVec.toNat_ofNat] <;> omega

/-- An entry is read from the front of some bytes exactly when they begin with bytes that spell it (R203). -/
theorem readEntry_eq_some_iff (bytes rest : List Byte) (e : AdvertEntry) :
    readEntry bytes = some (e, rest) ↔ ∃ part, e.SpeltBy part ∧ bytes = part ++ rest ∧ e.cost ≤ Config.inf
      ∧ 1 ≤ e.path.length ∧ e.path.length ≤ 4 := by
  constructor
  · intro h
    unfold readEntry at h
    split at h
    · rename_i head c2 c1 c0 more
      dsimp only at h
      split at h
      · rename_i passage
        split at h
        · rename_i len
          split at h
          · cases h
          · rename_i enough
            simp only [Option.some.injEq, Prod.mk.injEq] at h
            obtain ⟨rfl, rfl⟩ := h
            have size : (more.take ((lowHalf head + 1) / 2)).length = (lowHalf head + 1) / 2 := by
              rw [List.length_take]; omega
            obtain ⟨length, pad, ids⟩ := exists_padded (ids := unpackIds (more.take ((lowHalf head + 1) / 2))) (len := lowHalf head)
              (by rw [length_unpackIds, size])
            obtain ⟨b2, b1, b0⟩ := bytes_of_cost c2 c1 c0
            refine ⟨head :: c2 :: c1 :: c0 :: more.take ((lowHalf head + 1) / 2), ⟨c2.toNat / 16, pad, ?_, ?_⟩, ?_, ?_, ?_⟩
            · have := c2.isLt
              omega
            · dsimp only
              rw [b2, b1, b0]
              have first : byte (16 * highHalf head + lowHalf head) = head := idPair_halves head
              have packed := congrArg packIds ids
              rw [packIds_unpackIds] at packed
              rw [length, first, List.cons_inj_right, List.cons_inj_right, List.cons_inj_right, List.cons_inj_right]
              unfold padded at packed
              rw [length] at packed
              exact packed
            · rw [List.cons_append, List.cons_append, List.cons_append, List.cons_append, List.take_append_drop]
            · have := c1.isLt
              have := c0.isLt
              have : c2.toNat % 16 < 16 := Nat.mod_lt _ (by decide)
              show c2.toNat % 16 * 65536 + c1.toNat * 256 + c0.toNat ≤ 1048575
              omega
            · dsimp only
              rw [length]
              exact len
        · cases h
      · cases h
    · cases h
  · rintro ⟨part, ⟨high, pad, hhigh, rfl⟩, rfl, cost, low, up⟩
    have passage := e.passage.isLt
    have hhead : highHalf (byte (16 * e.passage.val + e.path.length)) = e.passage.val := highHalf_idPair (by omega) (by omega)
    have lhead : lowHalf (byte (16 * e.passage.val + e.path.length)) = e.path.length := lowHalf_idPair (by omega) (by omega)
    have size := length_packIds_padded e.path pad
    have packed : (packIds (padded e.path pad) ++ rest).take ((e.path.length + 1) / 2) = packIds (padded e.path pad) := by
      rw [← size, List.take_left]
    have left : (packIds (padded e.path pad) ++ rest).drop ((e.path.length + 1) / 2) = rest := by
      rw [← size, List.drop_left]
    have enough : ¬ (packIds (padded e.path pad) ++ rest).length < (e.path.length + 1) / 2 := by
      rw [List.length_append, size]
      omega
    have ids : unpackIds (packIds (padded e.path pad)) = padded e.path pad := by
      have := unpackIds_packIds_append (padded_even e.path pad) []
      rwa [List.append_nil, show unpackIds [] = [] from rfl, List.append_nil] at this
    show readEntry (_ :: _ :: _ :: _ :: (packIds (padded e.path pad) ++ rest)) = _
    simp only [readEntry, hhead, lhead, passage, low, up, and_self, dif_pos, if_true, if_neg enough, packed, left, ids, padded_take,
      cost_of_bytes cost]

theorem readEntries_eq_some_iff (n : Nat) (bytes rest : List Byte) (es : List AdvertEntry) :
    readEntries n bytes = some (es, rest) ↔ ∃ parts, List.Forall₂ AdvertEntry.SpeltBy es parts ∧ es.length = n
      ∧ bytes = parts.flatten ++ rest ∧ (∀ e ∈ es, e.cost ≤ Config.inf) ∧ ∀ e ∈ es, 1 ≤ e.path.length ∧ e.path.length ≤ 4 := by
  induction n generalizing bytes es with
  | zero =>
    constructor
    · intro h
      simp only [readEntries, Option.some.injEq, Prod.mk.injEq] at h
      obtain ⟨rfl, rfl⟩ := h
      exact ⟨[], .nil, rfl, rfl, by simp, by simp⟩
    · rintro ⟨parts, spelt, length, rfl, -, -⟩
      rw [List.length_eq_zero_iff] at length
      subst length
      cases spelt
      rfl
  | succ n ih =>
    constructor
    · intro h
      unfold readEntries at h
      split at h
      · cases h
      · rename_i e left first
        split at h
        · cases h
        · rename_i es' left' others
          simp only [Option.some.injEq, Prod.mk.injEq] at h
          obtain ⟨rfl, rfl⟩ := h
          obtain ⟨part, spelt, rfl, cost, path⟩ := (readEntry_eq_some_iff ..).1 first
          obtain ⟨parts, spelts, rfl, rfl, costs, paths⟩ := (ih ..).1 others
          exact ⟨part :: parts, .cons spelt spelts, rfl, by simp, by simpa using ⟨cost, costs⟩, by simpa using ⟨path, paths⟩⟩
    · rintro ⟨parts, spelts, length, rfl, costs, paths⟩
      cases spelts with
      | nil => cases length
      | cons spelt spelts =>
        rename_i e part es parts
        rw [List.forall_mem_cons] at costs paths
        have first := (readEntry_eq_some_iff ((part :: parts).flatten ++ rest) (parts.flatten ++ rest) e).2
          ⟨part, spelt, by simp, costs.1, paths.1⟩
        have others := (ih (parts.flatten ++ rest) es).2 ⟨parts, spelts, by simpa using length, rfl, costs.2, paths.2⟩
        simp only [readEntries, first, others]

/-! ## Whole frames (R151, R203) -/

theorem ascending_iff (ps : List PassageIdx) : ascending ps = true ↔ ps.Pairwise (· < ·) := by
  fun_induction ascending ps with
  | case1 p q rest ih =>
    rw [Bool.and_eq_true, decide_eq_true_eq, ih, List.pairwise_cons (a := p)]
    refine and_congr_left fun later => ⟨fun pq r hr => ?_, fun h => h q List.mem_cons_self⟩
    rcases List.mem_cons.1 hr with rfl | hr
    · exact pq
    · exact pq.trans ((List.pairwise_cons.1 later).1 r hr)
  | case2 ps h =>
    match ps with
    | [] => simp
    | [p] => simp
    | p :: q :: rest => exact absurd rfl (h p q rest)

theorem pathOk_iff (sender : HallId) (path : List HallId) :
    pathOk sender path = true ↔ path.head? = some sender ∧ 0 ∉ path ∧ path.Nodup := by
  simp [pathOk, and_assoc]

/-- The tests of R151 on an advert. -/
structure Advert.Sound (a : Advert) : Prop where
  sender : a.sender ≠ 0
  count : a.entries.length ≤ 8
  passages : (a.entries.map AdvertEntry.passage).Pairwise (· < ·)
  cost : ∀ e ∈ a.entries, e.cost ≤ Config.inf
  paths : ∀ e ∈ a.entries, 1 ≤ e.path.length ∧ e.path.length ≤ 4
  ids : ∀ e ∈ a.entries, 0 ∉ e.path ∧ e.path.Nodup
  first : ∀ e ∈ a.entries, e.path.head? = some a.sender

theorem goodAdvert_iff (bits : List Bool) (a : Advert) : GoodAdvert bits a ↔
    (∃ frame rest, bits = stuff 0 (frame.flatMap byteBits) ++ rest ∧ a.SpeltBy frame) ∧ a.Sound :=
  ⟨fun h => ⟨h.whole, h.sender, h.count, h.passages, h.cost, h.paths, h.ids, h.first⟩,
    fun ⟨whole, h⟩ => ⟨whole, h.sender, h.count, h.passages, h.cost, h.paths, h.ids, h.first⟩⟩

theorem generation_of_bytes (g1 g0 : Byte) : word16 (BitVec.ofNat 16 (read16 g1 g0)).toNat = [g1, g0] := by
  have := g1.isLt
  have := g0.isLt
  have h1 : byte ((BitVec.ofNat 16 (read16 g1 g0)).toNat / 256) = g1 := by
    refine BitVec.eq_of_toNat_eq ?_
    simp only [byte, BitVec.toNat_ofNat, read16]
    omega
  have h0 : byte ((BitVec.ofNat 16 (read16 g1 g0)).toNat) = g0 := by
    refine BitVec.eq_of_toNat_eq ?_
    simp only [byte, BitVec.toNat_ofNat, read16]
    omega
  rw [word16, h1, h0]

theorem generation_read (g : Gen) : BitVec.ofNat 16 (read16 (byte (g.toNat / 256)) (byte g.toNat)) = g := by
  rw [read16_bytes g.isLt, BitVec.ofNat_toNat, BitVec.setWidth_eq]

/-- An advert is read from some bytes exactly when they begin with a frame that spells it and it passes the tests of R151. -/
theorem readAdvertBytes_eq_some_iff (bytes : List Byte) (a : Advert) :
    readAdvertBytes bytes = some a ↔ (∃ frame more, bytes = frame ++ more ∧ a.SpeltBy frame) ∧ a.Sound := by
  constructor
  · intro h
    unfold readAdvertBytes at h
    split at h
    · rename_i head g1 g0 rest
      dsimp only at h
      split at h
      · cases h
      · rename_i range
        rw [not_or] at range
        split at h
        · cases h
        · rename_i entries left read
          split at h
          · cases h
          · rename_i check more
            split at h
            · rename_i tests
              simp only [Option.some.injEq] at h
              subst h
              simp only [Bool.and_eq_true, List.all_eq_true, checkOk_iff, ascending_iff, pathOk_iff] at tests
              obtain ⟨⟨sum, passages⟩, paths⟩ := tests
              obtain ⟨parts, spelt, length, rfl, costs, lengths⟩ := (readEntries_eq_some_iff ..).1 read
              have covered : (head :: g1 :: g0 :: (parts.flatten ++ check :: more)).take
                  ((head :: g1 :: g0 :: (parts.flatten ++ check :: more)).length - (check :: more).length)
                  = head :: g1 :: g0 :: parts.flatten := by
                have : head :: g1 :: g0 :: (parts.flatten ++ check :: more) = (head :: g1 :: g0 :: parts.flatten) ++ check :: more := rfl
                rw [this, List.length_append, Nat.add_sub_cancel, List.take_left]
              rw [covered] at sum
              have first : byte (16 * (hallId (highHalf head)).val + entries.length) = head := by
                rw [hallId_of_lt (highHalf_lt head), length]
                exact idPair_halves head
              refine ⟨⟨head :: g1 :: g0 :: parts.flatten ++ [check], more, by simp, parts, check, spelt, ?_, sum⟩, ?_⟩
              · dsimp only
                rw [first, generation_of_bytes]
                rfl
              · exact ⟨range.2, by show entries.length ≤ 8; omega, passages, costs, lengths, fun e he => (paths e he).2, fun e he => (paths e he).1⟩
            · cases h
    · cases h
  · rintro ⟨⟨_, more, rfl, parts, check, spelt, rfl, sum⟩, h⟩
    have count : a.entries.length < 16 := Nat.lt_of_le_of_lt h.count (by decide)
    have sender : hallId (highHalf (byte (16 * a.sender.val + a.entries.length))) = a.sender := by
      rw [show byte (16 * a.sender.val + a.entries.length) = idPair a.sender.val a.entries.length from rfl,
        highHalf_idPair a.sender.isLt count, hallId_val]
    have counted : lowHalf (byte (16 * a.sender.val + a.entries.length)) = a.entries.length := lowHalf_idPair a.sender.isLt count
    have read := (readEntries_eq_some_iff a.entries.length (parts.flatten ++ check :: more) (check :: more) a.entries).2
      ⟨parts, spelt, rfl, rfl, h.cost, h.paths⟩
    have range : ¬ (8 < a.entries.length ∨ a.sender = 0) := not_or.2 ⟨Nat.not_lt.2 h.count, h.sender⟩
    have shape : byte (16 * a.sender.val + a.entries.length) :: word16 a.generation.toNat ++ parts.flatten ++ [check] ++ more
        = byte (16 * a.sender.val + a.entries.length) :: byte (a.generation.toNat / 256) :: byte a.generation.toNat
          :: (parts.flatten ++ check :: more) := by simp [word16]
    have covered : (byte (16 * a.sender.val + a.entries.length) :: byte (a.generation.toNat / 256) :: byte a.generation.toNat
          :: (parts.flatten ++ check :: more)).take ((byte (16 * a.sender.val + a.entries.length) :: byte (a.generation.toNat / 256)
          :: byte a.generation.toNat :: (parts.flatten ++ check :: more)).length - (check :: more).length)
        = byte (16 * a.sender.val + a.entries.length) :: word16 a.generation.toNat ++ parts.flatten := by
      have : byte (16 * a.sender.val + a.entries.length) :: byte (a.generation.toNat / 256) :: byte a.generation.toNat
          :: (parts.flatten ++ check :: more)
          = (byte (16 * a.sender.val + a.entries.length) :: word16 a.generation.toNat ++ parts.flatten) ++ check :: more := rfl
      rw [this, List.length_append, Nat.add_sub_cancel, List.take_left]
    have tests : (checkOk ((byte (16 * a.sender.val + a.entries.length) :: word16 a.generation.toNat ++ parts.flatten) ++ [check])
        && ascending (a.entries.map AdvertEntry.passage) && a.entries.all fun e => pathOk a.sender e.path) = true := by
      simp only [Bool.and_eq_true, List.all_eq_true, checkOk_iff, ascending_iff, pathOk_iff]
      exact ⟨⟨sum, h.passages⟩, fun e he => ⟨h.first e he, h.ids e he⟩⟩
    rw [shape]
    simp only [readAdvertBytes, sender, counted, if_neg range, read, covered, tests, if_true, generation_read]

/-- The bits of a frame carry an advert exactly as `GoodAdvert` has it (R151, R203). -/
theorem readAdvert_eq_some_iff (bits : List Bool) (a : Advert) : readAdvert bits = some a ↔ GoodAdvert bits a := by
  rw [goodAdvert_iff, readAdvert, readAdvertBytes_eq_some_iff]
  refine and_congr_left fun _ => ⟨?_, ?_⟩
  · rintro ⟨frame, more, h, spelt⟩
    obtain ⟨rest, h⟩ := (bitsBytes_unstuff_iff bits frame).1 ⟨more, h⟩
    exact ⟨frame, rest, h, spelt⟩
  · rintro ⟨frame, rest, h, spelt⟩
    obtain ⟨more, h⟩ := (bitsBytes_unstuff_iff bits frame).2 ⟨rest, h⟩
    exact ⟨frame, more, h, spelt⟩

theorem readAdvert_eq_none_iff (bits : List Bool) : readAdvert bits = none ↔ ∀ a, ¬ GoodAdvert bits a := by
  rw [Option.eq_none_iff_forall_ne_some]
  exact forall_congr' fun a => not_congr (readAdvert_eq_some_iff bits a)

/-! ## Adverts sent (R203) -/

/-- The bytes of an entry spell it, its padding 0. -/
theorem AdvertEntry.speltBy_bytes (e : AdvertEntry) : e.SpeltBy e.bytes := by
  refine ⟨0, 0, by decide, ?_⟩
  have packed : packIds (if e.path.length % 2 = 1 then e.path ++ [0] else e.path) = packIds e.path := by
    split
    · rename_i odd
      exact packIds_pad odd
    · rfl
  rw [packed, Nat.mul_zero, Nat.zero_add]
  rfl

theorem Advert.speltBy_bytes (a : Advert) : a.SpeltBy a.bytes := by
  refine ⟨a.entries.map AdvertEntry.bytes,
    sumCheck (idPair a.sender.val a.entries.length :: word16 a.generation.toNat ++ a.entries.flatMap AdvertEntry.bytes), ?_, ?_, ?_⟩
  · rw [List.forall₂_map_right_iff, List.forall₂_same]
    exact fun e _ => e.speltBy_bytes
  · rw [← List.flatMap_def]
    rfl
  · have body : a.bytes = (idPair a.sender.val a.entries.length :: word16 a.generation.toNat ++ a.entries.flatMap AdvertEntry.bytes)
        ++ [sumCheck (idPair a.sender.val a.entries.length :: word16 a.generation.toNat ++ a.entries.flatMap AdvertEntry.bytes)] := rfl
    rw [body, List.sum_append, sumCheck, byteSum_eq_sum, List.sum_singleton]
    exact add_neg_cancel _

/-- Settles O41: the bytes of an advert spell it, and its bits are these, stuffed. -/
theorem advertsReadBack : Obligations.AdvertsReadBack := by
  intro a sender count passages entries
  rw [readAdvert_eq_some_iff, goodAdvert_iff]
  refine ⟨⟨a.bytes, [], (List.append_nil _).symm, a.speltBy_bytes⟩, sender, count, passages, ?_, ?_, ?_, ?_⟩
  · exact fun e he => (entries e he).1
  · exact fun e he => ⟨(entries e he).2.1, (entries e he).2.2.1⟩
  · exact fun e he => ⟨(entries e he).2.2.2.2.1, (entries e he).2.2.2.2.2⟩
  · exact fun e he => (entries e he).2.2.2.1

end Machine
end Sys2Proof
end

/-!
The alarm lines: the law of the lines, the intake and the link (R160, R161, R165, R166, R168, R173), supervision (R165), and the frames
their receivers judge (R162 to R164, R201).
-/
section
namespace Sys2Proof
namespace Machine

/-! ## The link -/

/-- The link the rule of ACTIVE derives from the line states (R166). -/
def State.derivedLink (s : State) : LinkState := linkOf s.active.params.healthRule s.alarm.lineA.state s.alarm.lineB.state

/-- ALARM_LINK of a link state replaced (R166). -/
def State.linkNotice (s : State) : Notice := s.notice .alarmLink none [s.alarm.link.code, s.derivedLink.code]

/-- The state with its link derived, and the flag of a move to LOST set, before lines are driven (R166). -/
def State.linked (s : State) : State :=
  if s.derivedLink = .lost then { s with alarm := { s.alarm with link := s.derivedLink } }.setFlag .alarmLinkLostSeen
  else { s with alarm := { s.alarm with link := s.derivedLink } }

theorem deriveLink_same {s : State} (h : s.derivedLink = s.alarm.link) : deriveLink s = (s, []) := if_pos h

theorem deriveLink_changed {s : State} (h : s.derivedLink ≠ s.alarm.link) :
    deriveLink s = (s.linked.drive fun src => src = .alarmLinkLost, [s.linkNotice]) := by
  unfold deriveLink
  dsimp only
  rw [if_neg (show ¬ linkOf _ _ _ = _ from h)]
  unfold State.linked State.derivedLink State.linkNotice
  split <;> rfl

theorem State.linked_alarm (s : State) : s.linked.alarm = { s.alarm with link := s.derivedLink } := by
  unfold State.linked
  split <;> rfl

theorem State.linked_active (s : State) : s.linked.active = s.active := by
  unfold State.linked
  split <;> rfl

theorem State.linked_exits (s : State) : s.linked.exits = s.exits := by
  unfold State.linked
  split <;> rfl

theorem State.linked_notices (s : State) : s.linked.port.notices = s.port.notices := by
  unfold State.linked
  split <;> rfl

theorem deriveLink_alarm (s : State) : (deriveLink s).1.alarm = { s.alarm with link := s.derivedLink } := by
  by_cases h : s.derivedLink = s.alarm.link
  · rw [deriveLink_same h, h]
  · rw [deriveLink_changed h]
    exact s.linked_alarm

theorem deriveLink_active (s : State) : (deriveLink s).1.active = s.active := by
  obtain ⟨_, _, _, _, h⟩ := deriveLink_frame s
  rw [h]
  rfl

/-! ## The law -/

/-- What the law says of one line. -/
structure AlarmLineRec.Lawful (r : AlarmLineRec) : Prop where
  timer : r.state = .live → r.expiry.isSome = true
  request : r.request.isSome = true → r.transmitter.isSome = true
  errors : r.errors ≤ 65535
  overruns : r.overruns ≤ 65535

/-- What the law says of the interface, its link apart. -/
structure Alarm.Lawful (a : Alarm) : Prop where
  line : ∀ l, (a.line l).Lawful
  intake : a.intake.length ≤ 8
  handler : a.handler = .taking ↔ a.intake ≠ []

theorem alarmLaw_iff (s : State) : AlarmLaw s ↔ s.alarm.Lawful ∧ s.alarm.link = s.derivedLink :=
  ⟨fun h => ⟨⟨fun l => ⟨h.timer l, h.request l, h.errors l, h.overruns l⟩, h.intake, h.handler⟩, h.link⟩,
    fun h => ⟨h.1.intake, h.1.handler, fun l => (h.1.line l).timer, h.2, fun l => (h.1.line l).request,
      fun l => (h.1.line l).errors, fun l => (h.1.line l).overruns⟩⟩

theorem AlarmLaw.congr {s t : State} (h : AlarmLaw s) (alarm : t.alarm = s.alarm)
    (rule : t.active.params.healthRule = s.active.params.healthRule) : AlarmLaw t := by
  rw [alarmLaw_iff] at h ⊢
  rw [State.derivedLink, alarm, rule]
  exact h

theorem AlarmLaw.postAll {s : State} (h : AlarmLaw s) (l : List Notice) : AlarmLaw (s.postAll l) := h.congr rfl rfl
theorem AlarmLaw.respond {s : State} (h : AlarmLaw s) (st : Status) (b : List Byte) : AlarmLaw (s.respond st b) := h.congr rfl rfl

theorem Alarm.line_setLine (a : Alarm) (l m : AlarmLine) (r : AlarmLineRec) :
    (a.setLine l r).line m = if m = l then r else a.line m := by
  cases l <;> cases m <;> rfl

theorem Alarm.Lawful.setLine {a : Alarm} (h : a.Lawful) (l : AlarmLine) {r : AlarmLineRec} (hr : r.Lawful) : (a.setLine l r).Lawful := by
  refine ⟨fun m => ?_, ?_, ?_⟩
  · rw [Alarm.line_setLine]
    split
    · exact hr
    · exact h.line m
  · rw [Alarm.setLine_intake]
    exact h.intake
  · cases l <;> exact h.handler

/-- A line's record set, its line state kept. -/
theorem AlarmLaw.setLine {s : State} (h : AlarmLaw s) (l : AlarmLine) {r : AlarmLineRec} (hr : r.Lawful)
    (state : r.state = (s.alarm.line l).state) : AlarmLaw (s.setLine l r) := by
  rw [alarmLaw_iff] at h ⊢
  obtain ⟨lawful, link⟩ := h
  refine ⟨lawful.setLine l hr, ?_⟩
  have same : (s.setLine l r).derivedLink = s.derivedLink := by
    unfold State.derivedLink
    cases l <;> simp only [State.setLine, Alarm.setLine, Alarm.line] at state ⊢ <;> rw [state] <;> rfl
  rw [same, ← link]
  cases l <;> rfl

/-- A link derived anew is the one the law calls for (R166). -/
theorem Alarm.Lawful.deriveLink {s : State} (h : s.alarm.Lawful) : AlarmLaw (deriveLink s).1 := by
  rw [alarmLaw_iff, State.derivedLink, deriveLink_active, deriveLink_alarm]
  exact ⟨⟨h.line, h.intake, h.handler⟩, rfl⟩

theorem bump_le (n : Nat) : bump n ≤ 65535 := Nat.min_le_left ..

theorem AlarmLaw.hearLine {s : State} (h : AlarmLaw s) (l : AlarmLine) : AlarmLaw (hearLine l s).1 := by
  have line := ((alarmLaw_iff s).1 h).1.line l
  have heard : ({ s.alarm.line l with receiver := .hunt, state := .live, expiry := some s.supervisionFrom } : AlarmLineRec).Lawful :=
    ⟨fun _ => rfl, line.request, line.errors, line.overruns⟩
  unfold Sys2Proof.Machine.hearLine
  dsimp only
  split
  · rename_i live
    exact h.setLine l heard live.symm
  · exact Alarm.Lawful.deriveLink (((alarmLaw_iff s).1 h).1.setLine l heard)

theorem AlarmLaw.loseLine {s : State} (h : AlarmLaw s) (l : AlarmLine) : AlarmLaw (loseLine l s).1 := by
  have line := ((alarmLaw_iff s).1 h).1.line l
  have lost : ({ s.alarm.line l with state := .silent, expiry := none } : AlarmLineRec).Lawful :=
    ⟨fun live => by simp at live, line.request, line.errors, line.overruns⟩
  unfold Sys2Proof.Machine.loseLine
  dsimp only
  split
  · rename_i silent
    exact h.setLine l lost silent.symm
  · exact Alarm.Lawful.deriveLink (((alarmLaw_iff s).1 h).1.setLine l lost)

/-- A frame that joins the intake finds room there and has the handler take it (R164, R168). -/
theorem AlarmLaw.offerFrame {s : State} (h : AlarmLaw s) (f : IntakeFrame) : AlarmLaw (s.offerFrame f) := by
  have line := ((alarmLaw_iff s).1 h).1.line f.line
  unfold State.offerFrame
  dsimp only
  split
  · rename_i room
    rw [alarmLaw_iff] at h ⊢
    refine ⟨⟨h.1.line, ?_, by simp⟩, h.2⟩
    simp only [List.length_append, List.length_singleton]
    exact room
  · exact h.setLine f.line ⟨line.timer, line.request, line.errors, bump_le _⟩ rfl

/-- A frame that leaves the intake keeps the handler TAKING exactly while one is left (R168). -/
theorem AlarmLaw.dropFrame {s : State} (h : AlarmLaw s) : AlarmLaw s.dropFrame := by
  rw [alarmLaw_iff] at h ⊢
  obtain ⟨lawful, link⟩ := h
  refine ⟨⟨lawful.line, ?_, ?_⟩, link⟩
  · have := lawful.intake
    simp only [State.dropFrame, List.length_drop]
    omega
  · simp only [State.dropFrame]
    split <;> rename_i rest <;> simpa using rest

theorem AlarmLaw.accept {s : State} (h : AlarmLaw s) (seq : Byte) : AlarmLaw (s.accept seq) := by
  rw [alarmLaw_iff] at h ⊢
  exact ⟨⟨h.1.line, h.1.intake, h.1.handler⟩, h.2⟩

theorem AlarmLaw.setMode {s : State} (h : AlarmLaw s) (m : HallMode) : AlarmLaw (s.setMode m) := by
  rw [alarmLaw_iff] at h ⊢
  exact ⟨⟨h.1.line, h.1.intake, h.1.handler⟩, h.2⟩

theorem AlarmLaw.requested {s : State} (h : AlarmLaw s) (l : AlarmLine) (seq : Byte) : AlarmLaw (s.request l seq) := by
  have line := ((alarmLaw_iff s).1 h).1.line l
  unfold State.request
  dsimp only
  split
  · exact h.setLine l ⟨line.timer, fun _ => rfl, line.errors, line.overruns⟩ rfl
  · rename_i sending
    exact h.setLine l ⟨line.timer, fun _ => by rw [sending]; rfl, line.errors, line.overruns⟩ rfl

theorem AlarmLaw.void {s : State} (h : AlarmLaw s) (l : AlarmLine) : AlarmLaw (s.setLine l (s.alarm.line l).void) := by
  have line := ((alarmLaw_iff s).1 h).1.line l
  exact h.setLine l ⟨line.timer, line.request, bump_le _, line.overruns⟩ rfl

theorem AlarmLaw.exec_alarm {s : State} (h : AlarmLaw s) {c : Instr} (hc : reach c = .alarm) : After (exec c s) AlarmLaw := by
  have line (l) := ((alarmLaw_iff s).1 h).1.line l
  cases c with
  | alarmStartByte l =>
    refine .of_next ?_
    dsimp only
    split
    · exact h.setLine l ⟨(line l).timer, (line l).request, (line l).errors, (line l).overruns⟩ rfl
    · exact h
  | alarmFrameEnd l bytes =>
    refine .of_next ?_
    dsimp only
    split
    · split
      · exact h
      · exact h.void l
      · rename_i seq body _
        have taken : AlarmLaw (takeGood l seq body s).1 := (h.hearLine l).offerFrame _
        exact taken.postAll _
    · exact h
  | alarmGapLimit l =>
    refine .of_next ?_
    dsimp only
    split
    · exact h.void l
    · exact h
  | supervisionExpiry l =>
    refine .of_next ?_
    split
    · exact (h.loseLine l).postAll _
    · exact h
  | supervise =>
    refine .of_next ?_
    split
    · exact h.dropFrame
    · exact h
  | statusRequest =>
    refine .of_next ?_
    split
    · exact (h.requested ..).dropFrame
    · exact h
  | egressStatusSent l =>
    refine .of_next ?_
    dsimp only
    split
    · exact h
    · rename_i request
      exact h.setLine l ⟨(line l).timer, fun hr => by simp [request] at hr, (line l).errors, (line l).overruns⟩ rfl
    · exact h.setLine l ⟨(line l).timer, fun _ => rfl, (line l).errors, (line l).overruns⟩ rfl
  | _ => cases hc

/-- The interface once a commit is done: the link is derived anew (R20, R176). -/
theorem State.commit_alarm (s : State) : s.commit.active = s.layout.staging ∧ s.commit.alarm = { s.alarm with
    link := linkOf s.layout.staging.params.healthRule s.alarm.lineA.state s.alarm.lineB.state } := by
  have finish (r : State × List (List Notice)) : (s.finishCommit r).alarm = r.1.alarm ∧ (s.finishCommit r).active = r.1.active := by
    obtain ⟨_, _, h⟩ := ({ r.1 with freeCount := r.1.freeCount + r.2.flatten.length }.drive fun _ => true).kickAll_frame
    unfold State.finishCommit
    rw [State.postAll_alarm, State.postAll_active, h]
    exact ⟨rfl, rfl⟩
  obtain ⟨_, _, _, _, _, _, _, _, _, _, h⟩ := adopt_frame s.active s.beforeCommit
  rw [State.commit_eq, (finish _).1, (finish _).2, h]
  exact ⟨rfl, rfl⟩

/-- The layout REINIT and the load event put in force (R198, R199). -/
def State.imageLayout (s : State) : Layout := s.store.image.load.getD Layout.empty

theorem State.restart_alarm (s : State) : s.restart.active = s.imageLayout ∧ s.restart.alarm = { s.alarm with
    link := linkOf s.imageLayout.params.healthRule s.alarm.lineA.state s.alarm.lineB.state } := by
  have finish (r : State × List (List Notice)) : (s.finishRestart r).alarm = r.1.alarm ∧ (s.finishRestart r).active = r.1.active := by
    obtain ⟨_, _, h⟩ := (r.1.darken.drive fun _ => true).kickAll_frame
    obtain ⟨_, hd⟩ := State.offers_frame (signsWhere r.1.active.signs.has)
      { r.1 with aspect := { r.1.aspect with published := none, signs := Table.replicate 192 SignRec.dark } }
    unfold State.finishRestart
    rw [State.postAll_alarm, State.postAll_active, h]
    unfold State.darken
    rw [hd]
    exact ⟨rfl, rfl⟩
  obtain ⟨_, _, _, _, _, _, _, _, _, _, h⟩ := adopt_frame s.active s.loadBanks.restartEngine
  rw [State.restart_eq, (finish _).1, (finish _).2, h]
  exact ⟨rfl, rfl⟩

/-- A lawful interface stays lawful with its link derived under another rule. -/
theorem AlarmLaw.linked {s t : State} (h : AlarmLaw s)
    (alarm : t.alarm = { s.alarm with link := linkOf t.active.params.healthRule s.alarm.lineA.state s.alarm.lineB.state }) : AlarmLaw t := by
  rw [alarmLaw_iff] at h ⊢
  obtain ⟨lawful, -⟩ := h
  refine ⟨?_, ?_⟩
  · rw [alarm]
    exact ⟨lawful.line, lawful.intake, lawful.handler⟩
  · rw [State.derivedLink, alarm]

/-- The interface a cold reset leaves, with or without its supervision timers (R175, R198). -/
theorem AlarmLaw.cold {t : State} {a b : Option Ticks} (alarm : t.alarm =
    { lineA := { AlarmLineRec.cold with expiry := a }, lineB := { AlarmLineRec.cold with expiry := b }, intake := [], handler := .idle
      lastSeq := none, mode := .standby, link := .lost }) : AlarmLaw t := by
  rw [alarmLaw_iff]
  refine ⟨?_, ?_⟩
  · rw [alarm]
    refine ⟨fun l => ?_, by simp, by simp⟩
    cases l <;> constructor <;> simp [Alarm.line, AlarmLineRec.cold]
  · rw [State.derivedLink, alarm]
    rfl

/-- Of the banks' commands only CALIBRATE_BEAM touches ACTIVE, and there a channel's reference alone (R14, R53). -/
theorem exec_banks_active {c : Instr} (hc : reach c = .banks) (s : State) :
    After (exec c s) fun t => t.active = s.active ∨ ∃ ch v, t.active = s.active.setReference ch v := by
  have answered (st b) : (s.respond st b).active = s.active ∨ ∃ ch v, (s.respond st b).active = s.active.setReference ch v := .inl rfl
  cases c with
  | writeLayout =>
    refine After.served (.inl rfl) answered fun body => .inl ?_
    split
    · rfl
    · split <;> rfl
  | stageFromActive => exact After.served (.inl rfl) answered fun _ => .inl rfl
  | calibrateBeam =>
    refine After.served (.inl rfl) answered fun body => ?_
    split
    · dsimp only
      split
      · exact answered ..
      · split
        · exact answered ..
        · split
          · exact answered ..
          · split
            · exact answered ..
            · split
              · exact answered ..
              · exact .inr ⟨_, _, rfl⟩
    · exact answered ..
  | _ => cases hc

/-- Of the zones' commands only ZONE_REPORT touches the alarm interface: its frame leaves the intake, accepted or a duplicate (R169). -/
theorem exec_zones_alarm {c : Instr} (hc : reach c = .zones) (s : State) :
    After (exec c s) fun t => t.alarm = s.alarm ∨ t.alarm = s.dropFrame.alarm ∨ ∃ seq, t.alarm = (s.accept seq).dropFrame.alarm := by
  have event (z : ZoneIdx) (r : ZoneRec) (u : State) : ((zoneEvent z r).run u).alarm = u.alarm := by
    obtain ⟨_, _, _, _, h⟩ := zoneEvent_frame z r u
    rw [Emit.run_of_eq h]
  cases c with
  | setZoneLevel =>
    refine After.served (.inl rfl) (fun _ _ => .inl rfl) fun body => .inl ?_
    split
    · split
      · dsimp only
        split
        · rfl
        · rw [State.respond_alarm]
          exact event ..
      · rfl
    · rfl
  | beamSample ch reading =>
    refine .of_next (.inl ?_)
    split
    · rfl
    · obtain ⟨_, _, _, _, h⟩ := beamEvent_frame ch (s.sampleBeam ch reading.val) s
      rw [Emit.run_of_eq h]
  | zoneReport =>
    refine .of_next ?_
    split
    · split
      · exact .inr (.inl rfl)
      · rename_i seq z st _ _
        refine .inr (.inr ⟨seq, ?_⟩)
        have same := event z
          { (s.accept seq).zones.get z with
            panelState := st, panelLevel := (s.accept seq).panelLevel ((s.accept seq).zones.get z).panelLevel st } (s.accept seq)
        have drop (u v : State) (h : u.alarm = v.alarm) : u.dropFrame.alarm = v.dropFrame.alarm := by
          unfold State.dropFrame
          rw [h]
        exact drop _ _ same
    · exact .inl rfl
  | _ => cases hc

theorem Layout.setReference_params (a : Layout) (ch : BeamIdx) (v : Nat) : (a.setReference ch v).params = a.params := rfl

/-- Every command keeps the law of the alarm lines. -/
theorem AlarmLaw.exec {s : State} (h : AlarmLaw s) (awaiting : s.loaded = false → AwaitingLoad s) (c : Instr) :
    After (exec c s) AlarmLaw := by
  cases hk : reach c with
  | alarm => exact h.exec_alarm hk
  | banks =>
    obtain ⟨t, ht, f⟩ := exec_frame hk (by nofun) s
    refine ⟨t, ht, h.congr (f.alarm (by nofun) (by nofun) (by nofun)) ?_⟩
    rcases (exec_banks_active hk s).elim ht with e | ⟨ch, v, e⟩ <;> rw [e]
    rw [Layout.setReference_params]
  | zones =>
    obtain ⟨t, ht, f⟩ := exec_frame hk (by nofun) s
    refine ⟨t, ht, ?_⟩
    have active : t.active = s.active := congrArg LayoutUnit.active (f.layout (by nofun))
    rcases (exec_zones_alarm hk s).elim ht with e | e | ⟨seq, e⟩
    · exact h.congr e (by rw [active])
    · exact h.dropFrame.congr e (by rw [active]; rfl)
    · exact (h.accept seq).dropFrame.congr e (by rw [active]; rfl)
  | mode =>
    cases c with
    | hallMode =>
      refine .of_next ?_
      split
      · rename_i seq mode _
        split
        · exact h.dropFrame
        · split
          · exact (h.accept seq).dropFrame
          · obtain ⟨_, _, _, _, _, e⟩ := changeMode_frame mode (s.accept seq)
            rw [Emit.run_of_eq e]
            have changed := (h.accept seq).setMode mode
            refine AlarmLaw.dropFrame ?_
            obtain ⟨_, _, k⟩ := State.kickAll_frame _
            rw [k]
            exact changed.congr rfl rfl
      · exact h
    | _ => cases hk
  | whole =>
    cases c with
    | coldReset => exact .of_next (.cold rfl)
    | loadEvent =>
      refine execLoadEvent_keeps h fun unloaded => AlarmLaw.postAll ?_ _
      obtain ⟨_, _, e⟩ := s.takeUp_frame
      rw [e]
      refine .cold (a := some s.loadBanks.supervisionFrom) (b := some s.loadBanks.supervisionFrom) ?_
      have loaded : s.loadBanks.loadBeams.loadLines.loadExits.loadHeads.startSupervision.alarm = { s.alarm with
          lineA := { s.alarm.lineA with expiry := some s.loadBanks.supervisionFrom }
          lineB := { s.alarm.lineB with expiry := some s.loadBanks.supervisionFrom } } := rfl
      refine Eq.trans loaded ?_
      rw [(awaiting unloaded).alarm]
    | commitLayout =>
      refine execCommitLayout_keeps h h.respond fun _ => AlarmLaw.respond ?_ _ _
      obtain ⟨active, alarm⟩ := s.commit_alarm
      exact h.linked (by rw [active, alarm])
    | reinit =>
      refine execReinit_keeps h h.respond fun _ _ => AlarmLaw.respond ?_ _ _
      obtain ⟨active, alarm⟩ := s.restart_alarm
      exact h.linked (by rw [active, alarm])
    | _ => cases hk
  | _ =>
    exact (exec_frame hk (by nofun) s).imp fun _ f => h.congr (f.alarm (by nofun) (by nofun) (by nofun)) (by
      rw [State.active, f.layout (by nofun)]; rfl)

/-- Settles O57: each receiver and timer moves one line, the intake and the handler move together, and a link is derived wherever a line
state or the rule changes. -/
theorem alarmLawIsKept : Obligations.AlarmLawIsKept := fun _ _ awaiting hs h =>
  step_keeps (P := fun s => (s.loaded = false → AwaitingLoad s) ∧ AlarmLaw s) (fun _ h => h.2)
    (fun _ _ h => ⟨fun hl => { h.1 hl with }, h.2.congr rfl rfl⟩) (fun c _ h => h.2.exec h.1 c) ⟨awaiting, hs⟩ h

end Machine
end Sys2Proof
end

/-!
The frames of the alarm lines: how the bytes behind a start byte are judged (R162, R163, R201), and what good frames and silence do
(R164 to R166, R168).
-/
section
namespace Sys2Proof
namespace Machine

/-! ## Bytes behind a start byte -/

theorem panelType_iff (type : Byte) (n : Nat) : PanelType type n ↔ payloadLength type = some n := by
  constructor
  · intro h
    cases h <;> rfl
  · intro h
    have value {k : Nat} (hk : k < 256) (e : type.toNat = k) : type = BitVec.ofNat 8 k :=
      BitVec.eq_of_toNat_eq (by rw [e, BitVec.toNat_ofNat, Nat.mod_eq_of_lt hk])
    unfold payloadLength at h
    split at h <;> rename_i e <;> cases h
    · rw [value (by decide) e]; exact .zoneReport
    · rw [value (by decide) e]; exact .hallMode
    · rw [value (by decide) e]; exact .supervise
    · rw [value (by decide) e]; exact .statusRequest

theorem PanelType.unique {type : Byte} {n m : Nat} (h : PanelType type n) (k : PanelType type m) : n = m := by
  rw [panelType_iff] at h k
  exact Option.some.inj (h.symm.trans k)

theorem alarmVerdict_eq_none_iff (got : List Byte) : alarmVerdict got = none ↔ FrameGoesOn got := by
  unfold alarmVerdict FrameGoesOn
  split
  · rename_i seq type rest
    split
    · rename_i named
      simp only [reduceCtorEq, List.length_cons, false_iff, not_or, not_exists]
      refine ⟨by omega, ?_⟩
      rintro seq' type' rest' n ⟨e, panel, -⟩
      cases e
      rw [panelType_iff, named] at panel
      cases panel
    · rename_i n named
      split
      · rename_i short
        simp only [true_iff]
        exact .inr ⟨seq, type, rest, n, rfl, (panelType_iff ..).2 named, short⟩
      · rename_i long
        have ended : ¬ FrameGoesOn (seq :: type :: rest) := by
          rintro (h | ⟨seq', type', rest', m, e, panel, short⟩)
          · simp at h
          · cases e
            rw [panelType_iff, named] at panel
            cases panel
            exact long short
        split
        · exact iff_of_false (by simp) ended
        · exact iff_of_false (by simp) ended
  · rename_i short
    simp only [true_iff]
    left
    match got with
    | [] => decide
    | [_] => simp
    | a :: b :: c => exact absurd rfl (short a b c)

theorem FrameGoesOn.of_append {got more : List Byte} (h : FrameGoesOn (got ++ more)) : FrameGoesOn got := by
  rcases h with h | ⟨seq, type, rest, n, e, panel, short⟩
  · exact .inl (by simp at h; omega)
  · match got, e with
    | [], _ => exact .inl (by decide)
    | [_], _ => exact .inl (by simp)
    | a :: b :: c, e =>
      simp only [List.cons_append, List.cons.injEq] at e
      obtain ⟨rfl, rfl, rfl⟩ := e
      exact .inr ⟨a, b, c, n, rfl, panel, by simp at short; omega⟩

/-- Bytes that do not end the frame are taken one after another (R162). -/
theorem readAlarm_append {got more : List Byte} (h : FrameGoesOn (got ++ more)) (rest : List AlarmByte) :
    readAlarm got (cleanBytes more ++ rest) = readAlarm (got ++ more) rest := by
  induction more generalizing got with
  | nil => simp [cleanBytes]
  | cons b more ih =>
    have step : got ++ b :: more = (got ++ [b]) ++ more := by simp
    have on : alarmVerdict (got ++ [b]) = none := (alarmVerdict_eq_none_iff _).2 (FrameGoesOn.of_append (step ▸ h))
    rw [step, ← ih (step ▸ h)]
    show readAlarm got ({ val := b, err := false } :: (cleanBytes more ++ rest)) = _
    rw [readAlarm, if_neg (by simp)]
    simp only [on]

theorem readPayload_zoneReport {z st : Byte} {zone : ZoneIdx} {state : PanelState} (hz : z.toNat = zone.val)
    (hs : PanelState.ofCode st = some state) : readPayload 1 [z, st] = some (.zoneReport zone state) := by
  have read : readPayload 1 [z, st] =
      if h : z.toNat < 48 then (PanelState.ofCode st).map (FrameBody.zoneReport ⟨z.toNat, h⟩) else none := rfl
  rw [read, dif_pos (by rw [hz]; exact zone.isLt), hs, Option.map_some]
  exact congrArg some (congrArg (FrameBody.zoneReport · state) (Fin.ext hz))

/-- The bytes of a panel frame read back. -/
theorem readPayload_wire {type : Byte} {payload : List Byte} {body : FrameBody} (h : body.wire = type :: payload) :
    readPayload type payload = some body := by
  cases body with
  | zoneReport z st =>
    obtain ⟨rfl, rfl⟩ := List.cons.inj h
    exact readPayload_zoneReport (byte_fin_toNat z (by decide)) (by cases st <;> rfl)
  | hallMode m =>
    obtain ⟨rfl, rfl⟩ := List.cons.inj h
    cases m <;> rfl
  | supervise =>
    obtain ⟨rfl, rfl⟩ := List.cons.inj h
    rfl
  | statusRequest =>
    obtain ⟨rfl, rfl⟩ := List.cons.inj h
    rfl

theorem PanelState.code_of_ofCode {st : Byte} {state : PanelState} (h : PanelState.ofCode st = some state) : state.code = st := by
  unfold PanelState.ofCode at h
  split at h <;> cases h <;> rename_i e <;> exact BitVec.eq_of_toNat_eq (by rw [e]; rfl)

theorem HallMode.code_of_ofCode {m : Byte} {mode : HallMode} (h : HallMode.ofCode m = some mode) : mode.code = m := by
  unfold HallMode.ofCode at h
  split at h <;> cases h <;> rename_i e <;> exact BitVec.eq_of_toNat_eq (by rw [e]; rfl)

/-- A payload of the length its type fixes is in range exactly when the bytes are a panel frame's (R163). -/
theorem readPayload_eq_some_iff {type : Byte} {payload : List Byte} (panel : PanelType type payload.length) (body : FrameBody) :
    readPayload type payload = some body ↔ body.wire = type :: payload := by
  refine ⟨fun h => ?_, readPayload_wire⟩
  generalize length : payload.length = n at panel
  cases panel with
  | zoneReport =>
    obtain ⟨z, st, rfl⟩ := List.length_eq_two.1 length
    have read : (if h : z.toNat < 48 then (PanelState.ofCode st).map (FrameBody.zoneReport ⟨z.toNat, h⟩) else none) = some body := h
    split at read
    · obtain ⟨state, hs, rfl⟩ := Option.map_eq_some_iff.1 read
      have zone : byte z.toNat = z := by simp [byte]
      rw [FrameBody.wire, zone, PanelState.code_of_ofCode hs]
    · cases read
  | hallMode =>
    obtain ⟨m, rfl⟩ := List.length_eq_one_iff.1 length
    obtain ⟨mode, hm, rfl⟩ := Option.map_eq_some_iff.1 (h : (HallMode.ofCode m).map FrameBody.hallMode = some body)
    rw [FrameBody.wire, HallMode.code_of_ofCode hm]
  | supervise =>
    obtain rfl := List.length_eq_zero_iff.1 length
    cases Option.some.inj (h : some FrameBody.supervise = some body)
    rfl
  | statusRequest =>
    obtain rfl := List.length_eq_zero_iff.1 length
    cases Option.some.inj (h : some FrameBody.statusRequest = some body)
    rfl

theorem readAlarm_goesOn {got : List Byte} (h : FrameGoesOn got) (rest : List AlarmByte) :
    readAlarm [] (cleanBytes got ++ rest) = readAlarm got rest :=
  readAlarm_append (got := []) h rest

theorem FrameBody.panelType (body : FrameBody) : ∃ type payload, body.wire = type :: payload ∧ PanelType type payload.length := by
  cases body with
  | zoneReport z st => exact ⟨_, _, rfl, .zoneReport⟩
  | hallMode m => exact ⟨_, _, rfl, .hallMode⟩
  | supervise => exact ⟨_, _, rfl, .supervise⟩
  | statusRequest => exact ⟨_, _, rfl, .statusRequest⟩

/-- The verdict on a frame whose check byte has arrived (R163). -/
def frameVerdict (seq type check : Byte) (payload : List Byte) : AlarmVerdict :=
  if (0xA5 :: seq :: type :: payload ++ [check]).sum = 0 then (readPayload type payload).elim .void (.good seq) else .void

theorem alarmVerdict_whole {seq type check : Byte} {payload : List Byte} (panel : PanelType type payload.length) :
    alarmVerdict (seq :: type :: payload ++ [check]) = some (frameVerdict seq type check payload) := by
  have named := (panelType_iff ..).1 panel
  have taken : (payload ++ [check]).take payload.length = payload := List.take_left
  simp only [List.cons_append, alarmVerdict, named, List.length_append, List.length_singleton, Nat.lt_irrefl, if_false, taken,
    frameVerdict]
  by_cases sum : (0xA5 :: seq :: type :: (payload ++ [check])).sum = 0
  · rw [if_pos sum, show checkOk (Config.alarmStart :: seq :: type :: (payload ++ [check])) = true from (checkOk_iff _).2 sum]
    cases readPayload type payload with
    | none => rfl
    | some body => rfl
  · rw [if_neg sum, show checkOk (Config.alarmStart :: seq :: type :: (payload ++ [check])) = false by
      rw [← Bool.not_eq_true, checkOk_iff]; exact sum]

/-- How the bytes behind a start byte are judged (R162, R163): `none` while they do not end their frame. -/
inductive JudgedAs (bytes : List AlarmByte) : Option AlarmVerdict → Prop where
  | goesOn (got : List Byte) : bytes = cleanBytes got → FrameGoesOn got → JudgedAs bytes none
  | error (before : List Byte) (b : AlarmByte) (rest : List AlarmByte) : bytes = cleanBytes before ++ b :: rest →
      b.err = true → FrameGoesOn before → JudgedAs bytes (some .void)
  | type (seq type : Byte) (rest : List AlarmByte) : bytes = cleanBytes [seq, type] ++ rest →
      (∀ n, ¬ PanelType type n) → JudgedAs bytes (some .void)
  | whole (seq type check : Byte) (payload : List Byte) (rest : List AlarmByte) : PanelType type payload.length →
      bytes = cleanBytes (seq :: type :: payload ++ [check]) ++ rest →
      JudgedAs bytes (some (frameVerdict seq type check payload))

theorem cleanBytes_append (a b : List Byte) : cleanBytes (a ++ b) = cleanBytes a ++ cleanBytes b := List.map_append

theorem readAlarm_verdict {got : List Byte} {b : Byte} {v : AlarmVerdict} (h : alarmVerdict (got ++ [b]) = some v) (rest : List AlarmByte) :
    readAlarm got ({ val := b, err := false } :: rest) = some v := by
  rw [readAlarm, if_neg (by simp)]
  simp only [h]

theorem alarmVerdict_type {seq type : Byte} (none : ∀ n, ¬ PanelType type n) (rest : List Byte) :
    alarmVerdict (seq :: type :: rest) = some .void := by
  have named : payloadLength type = Option.none := Option.eq_none_iff_forall_ne_some.2 fun n h => none n ((panelType_iff ..).2 h)
  show (match payloadLength type with | .none => _ | some n => _) = _
  rw [named]

/-- The judgement is the one `readAlarm` gives. -/
theorem JudgedAs.eq {bytes : List AlarmByte} {v : Option AlarmVerdict} (h : JudgedAs bytes v) : readAlarm [] bytes = v := by
  cases h with
  | goesOn got e on =>
    rw [e, ← List.append_nil (cleanBytes got), readAlarm_goesOn on]
    rfl
  | error before b rest e err on =>
    rw [e, readAlarm_goesOn on, readAlarm, if_pos err]
  | type seq type rest e none =>
    rw [e]
    have first : FrameGoesOn [seq] := .inl (by simp)
    show readAlarm [] (cleanBytes [seq] ++ ({ val := type, err := false } :: rest)) = _
    rw [readAlarm_goesOn first]
    exact readAlarm_verdict (alarmVerdict_type none []) rest
  | whole seq type check payload rest panel e =>
    rw [e]
    have on : FrameGoesOn (seq :: type :: payload) := .inr ⟨seq, type, payload, _, rfl, panel, Nat.lt_succ_self _⟩
    rw [cleanBytes_append, List.append_assoc, readAlarm_goesOn on]
    exact readAlarm_verdict (alarmVerdict_whole panel) rest

/-- A byte that ends the frame gives it its verdict (R162, R163). -/
theorem JudgedAs.of_verdict {got : List Byte} {b : Byte} {v : AlarmVerdict} (on : FrameGoesOn got) (rest : List AlarmByte)
    (h : alarmVerdict (got ++ [b]) = some v) : JudgedAs (cleanBytes got ++ { val := b, err := false } :: rest) (some v) := by
  have ended : ¬ FrameGoesOn (got ++ [b]) := by
    rw [← alarmVerdict_eq_none_iff, h]
    exact Option.some_ne_none v
  match got, on, ended, h with
  | [], _, ended, _ => exact absurd (.inl (by decide : 1 < 2)) ended
  | [seq], _, ended, h =>
    have unnamed (n : Nat) (panel : PanelType b n) : False := ended (.inr ⟨seq, b, [], n, rfl, panel, Nat.succ_pos n⟩)
    have void := alarmVerdict_type (seq := seq) unnamed []
    cases void.symm.trans h
    exact JudgedAs.type seq b rest rfl unnamed
  | seq :: kind :: payload, on, ended, h =>
    rcases on with short | ⟨_, _, _, n, e, panel, short⟩
    · simp at short
    · cases e
      have length : payload.length = n := by
        by_contra other
        exact ended (.inr ⟨seq, kind, payload ++ [b], n, rfl, panel, by simp; omega⟩)
      rw [← length] at panel
      have verdict := (alarmVerdict_whole (seq := seq) (check := b) panel).symm.trans h
      rw [← verdict]
      exact JudgedAs.whole seq kind b payload rest panel (by simp [cleanBytes])

/-- Every run of bytes is judged. -/
theorem judgedAs_readAlarm {got : List Byte} (on : FrameGoesOn got) (bytes : List AlarmByte) :
    JudgedAs (cleanBytes got ++ bytes) (readAlarm got bytes) := by
  induction bytes generalizing got with
  | nil => exact .goesOn got (by simp) on
  | cons b rest ih =>
    obtain ⟨val, err⟩ := b
    rw [readAlarm]
    cases err with
    | true => exact .error got _ rest rfl rfl on
    | false =>
      simp only [Bool.false_eq_true, if_false]
      cases verdict : alarmVerdict (got ++ [val]) with
      | none =>
        have more := ih ((alarmVerdict_eq_none_iff _).1 verdict)
        rwa [cleanBytes_append, List.append_assoc] at more
      | some v => exact .of_verdict on rest verdict

theorem readAlarm_eq_iff (bytes : List AlarmByte) (v : Option AlarmVerdict) : readAlarm [] bytes = v ↔ JudgedAs bytes v :=
  ⟨fun h => h ▸ judgedAs_readAlarm (got := []) (.inl (by decide)) bytes, JudgedAs.eq⟩

theorem readAlarm_eq_none_iff (bytes : List AlarmByte) : readAlarm [] bytes = none ↔ ∃ got, bytes = cleanBytes got ∧ FrameGoesOn got := by
  rw [readAlarm_eq_iff]
  constructor
  · rintro ⟨got, e, on⟩
    exact ⟨got, e, on⟩
  · rintro ⟨got, e, on⟩
    exact .goesOn got e on

theorem readAlarm_eq_good_iff (bytes : List AlarmByte) (seq : Byte) (body : FrameBody) :
    readAlarm [] bytes = some (.good seq body) ↔ GoodFrame bytes seq body := by
  constructor
  · intro h
    have judged := (readAlarm_eq_iff ..).1 h
    generalize hv : some (AlarmVerdict.good seq body) = v at judged
    cases judged with
    | whole seq' type check payload rest panel e =>
      unfold frameVerdict at hv
      split at hv
      · rename_i sum
        cases read : readPayload type payload with
        | none =>
          rw [read] at hv
          cases hv
        | some named =>
          rw [read] at hv
          cases hv
          have wire := (readPayload_eq_some_iff panel _).1 read
          exact ⟨check, rest, by rw [wire]; exact e, by rw [wire]; exact sum⟩
      · cases hv
    | goesOn | error | type => cases hv
  · rintro ⟨check, rest, e, sum⟩
    obtain ⟨type, payload, wire, panel⟩ := body.panelType
    rw [wire] at e sum
    have read := readPayload_wire wire
    have whole := (JudgedAs.whole seq type check payload rest panel e).eq
    rw [whole, frameVerdict, if_pos sum, read]
    rfl

theorem readAlarm_eq_void_iff (bytes : List AlarmByte) : readAlarm [] bytes = some .void ↔ VoidFrame bytes := by
  constructor
  · intro h
    have judged := (readAlarm_eq_iff ..).1 h
    generalize hv : some AlarmVerdict.void = v at judged
    cases judged with
    | goesOn => cases hv
    | error before b rest e err on => exact .error before b rest e err on
    | type seq type rest e none => exact .type seq type rest e none
    | whole seq type check payload rest panel e =>
      by_cases sum : (0xA5 :: seq :: type :: payload ++ [check]).sum = 0
      · refine .range seq type check payload rest panel e fun body wire => ?_
        rw [frameVerdict, if_pos sum, readPayload_wire wire] at hv
        cases hv
      · exact .check seq type check payload rest panel e sum
  · intro h
    cases h with
    | error before b rest e err on => exact (JudgedAs.error before b rest e err on).eq
    | type seq type rest e none => exact (JudgedAs.type seq type rest e none).eq
    | check seq type check payload rest panel e sum =>
      rw [(JudgedAs.whole seq type check payload rest panel e).eq, frameVerdict, if_neg sum]
    | range seq type check payload rest panel e none =>
      have bad : readPayload type payload = Option.none :=
        Option.eq_none_iff_forall_ne_some.2 fun body h => none body ((readPayload_eq_some_iff panel _).1 h)
      rw [(JudgedAs.whole seq type check payload rest panel e).eq, frameVerdict, bad]
      split <;> rfl

/-- Settles O31: the judgements of the bytes are the manual's, and each of these events sets one line's record. -/
theorem alarmFramesBeginAndFail : Obligations.AlarmFramesBeginAndFail := by
  refine ⟨fun bytes => ⟨readAlarm_eq_void_iff bytes, readAlarm_eq_none_iff bytes⟩, ?_, ?_, ?_, ?_⟩
  · intro s l bytes on
    refine congrArg Host.Outcome.next ?_
    dsimp only
    split
    · rw [on]
    · rfl
  · intro s l loaded hunt
    exact congrArg Host.Outcome.next (if_pos (by rw [loaded, hunt]; rfl))
  · intro s l frame
    exact congrArg Host.Outcome.next (if_pos frame)
  · intro s l bytes frame void
    refine congrArg Host.Outcome.next ((if_pos frame).trans ?_)
    rw [void]
    rfl

/-! ## A line that changes its state, and the link -/

/-- Lines that follow in one state follow in another with the same lines and sources. -/
theorem LinesFollow.congr {s t u : State} {driven : OutputSource → Prop} (h : LinesFollow s t driven)
    (lines : u.exits.lines = t.exits.lines) (source : ∀ src, driven src → u.sourceTrue src = t.sourceTrue src) :
    LinesFollow s u driven where
  shown l src d ha hs hd := by rw [lines, source src hd]; exact h.shown l src d ha hs hd
  held l src ha hd := by rw [lines]; exact h.held l src ha hd
  inputs l v start hs := by rw [lines]; exact h.inputs l v start hs
  unnamed l ha := by rw [lines]; exact h.unnamed l ha

/-- Lines that follow from one state follow from another with the same ACTIVE and lines. -/
theorem LinesFollow.of_source {s s' t : State} {driven : OutputSource → Prop} (h : LinesFollow s t driven)
    (active : s'.active = s.active) (lines : s'.exits.lines = s.exits.lines) : LinesFollow s' t driven := by
  obtain ⟨shown, held, inputs, unnamed⟩ := h
  rw [← active, ← lines] at shown
  rw [← active, ← lines] at held
  rw [← lines] at inputs
  rw [← active, ← lines] at unnamed
  exact ⟨shown, held, inputs, unnamed⟩

/-- With no source to drive, lines that stay follow. -/
theorem LinesFollow.still {s t : State} {driven : OutputSource → Prop} (lines : t.exits.lines = s.exits.lines)
    (none : ∀ src, ¬ driven src) : LinesFollow s t driven where
  shown _ src _ _ _ hd := absurd hd (none src)
  held _ _ _ _ := by rw [lines]
  inputs _ _ _ hs := by rw [lines]; exact hs
  unnamed _ _ := by rw [lines]

/-- A flag that is set stays set where notices are posted. -/
theorem Port.postAll_flag {p : Port} {f : Flag} (h : p.flags.has f = true) (ns : List Notice) : (p.postAll ns).flags.has f = true := by
  induction ns generalizing p with
  | nil => exact h
  | cons n ns ih =>
    rw [Port.postAll_cons]
    refine ih ?_
    unfold Port.post
    split
    · exact h
    · rw [Port.setFlag, Flags.has_put]
      split
      · rfl
      · exact h

/-- One notice joins the back of a queue with room for it (R188). -/
theorem Port.postAll_one {p : Port} (room : p.notices.length < 64) (n : Notice) : (p.postAll [n]).notices = p.notices ++ [n] := by
  rw [Port.postAll_room p [n] (show p.notices.length + 1 ≤ 64 from room)]

/-- What follows in `t`, with the notices `ns` to post, once the record of one alarm line has been replaced in `s` (R164 to R166). -/
structure LinkFollows (s : State) (l : AlarmLine) (r : AlarmLineRec) (t : State) (ns : List Notice) : Prop where
  alarm : t.alarm = { s.alarm.setLine l r with link := t.alarm.link }
  link : t.alarm.link = if (s.alarm.line l).state = r.state then s.alarm.link
    else linkOf s.active.params.healthRule t.alarm.lineA.state t.alarm.lineB.state
  same : t.alarm.link = s.alarm.link → t.port = s.port ∧ ns = []
  changed : t.alarm.link ≠ s.alarm.link → ns = [s.notice .alarmLink none [s.alarm.link.code, t.alarm.link.code]]
  notices : t.port.notices = s.port.notices
  lost : t.alarm.link ≠ s.alarm.link → t.alarm.link = .lost → t.port.flags.has .alarmLinkLostSeen = true
  lines : LinesFollow s t fun src => src = .alarmLinkLost ∧ t.alarm.link ≠ s.alarm.link
  frame : t = { s with
    alarm := t.alarm
    exits := { s.exits with lines := t.exits.lines }
    port := { s.port with flags := t.port.flags, snapshot := t.port.snapshot } }

/-- A line's record set with its line state kept leaves the link. -/
theorem LinkFollows.kept {s : State} {l : AlarmLine} {r : AlarmLineRec} (h : (s.alarm.line l).state = r.state) :
    LinkFollows s l r (s.setLine l r) [] := by
  have link : (s.setLine l r).alarm.link = s.alarm.link := by cases l <;> rfl
  constructor
  · rw [link]
    cases l <;> rfl
  · rw [if_pos h, link]
  · exact fun _ => ⟨rfl, rfl⟩
  · exact fun ne => absurd link ne
  · rfl
  · exact fun ne => absurd link ne
  · exact .still rfl fun _ h => h.2 link
  · rfl

/-- A line's record set with another line state has the link derived anew (R166). -/
theorem LinkFollows.derived {s : State} {l : AlarmLine} {r : AlarmLineRec} (h : (s.alarm.line l).state ≠ r.state) :
    LinkFollows s l r (deriveLink (s.setLine l r)).1 (deriveLink (s.setLine l r)).2 := by
  have held : (s.setLine l r).alarm.link = s.alarm.link := by cases l <;> rfl
  have alarm := deriveLink_alarm (s.setLine l r)
  have rule : (s.setLine l r).derivedLink = linkOf s.active.params.healthRule (s.alarm.setLine l r).lineA.state
      (s.alarm.setLine l r).lineB.state := rfl
  have link : (deriveLink (s.setLine l r)).1.alarm.link = (s.setLine l r).derivedLink := by rw [alarm]
  by_cases same : (s.setLine l r).derivedLink = (s.setLine l r).alarm.link
  · have still := deriveLink_same same
    have unmoved : (deriveLink (s.setLine l r)).1.alarm.link = s.alarm.link := by rw [link, same, held]
    constructor
    · rw [alarm]
      rfl
    · rw [if_neg h, link, alarm, rule]
      rfl
    · exact fun _ => by rw [still]; exact ⟨rfl, rfl⟩
    · exact fun ne => absurd unmoved ne
    · rw [still]
      rfl
    · exact fun ne => absurd unmoved ne
    · exact .still (by rw [still]; rfl) fun _ h => h.2 unmoved
    · rw [still]
      rfl
  · have moved := deriveLink_changed same
    have other : (deriveLink (s.setLine l r)).1.alarm.link ≠ s.alarm.link := by rw [link, ← held]; exact same
    constructor
    · rw [alarm]
      rfl
    · rw [if_neg h, link, alarm, rule]
      rfl
    · exact fun eq => absurd eq other
    · intro _
      rw [link, moved, ← held]
      rfl
    · rw [moved]
      exact State.linked_notices _
    · intro _ lost
      rw [link] at lost
      rw [moved]
      show (s.setLine l r).linked.port.flags.has _ = _
      unfold State.linked
      rw [if_pos lost]
      exact (Flags.has_put (s.setLine l r).port.flags .alarmLinkLostSeen .alarmLinkLostSeen true).trans (if_pos rfl)
    · have driven := ((s.setLine l r).linked.drive_follows fun src => src = .alarmLinkLost).of_source (s' := s)
        (by rw [State.linked_active]; rfl) (by rw [State.linked_exits]; rfl)
      rw [moved]
      rw [moved] at other
      obtain ⟨shown, lheld, inputs, unnamed⟩ := driven
      exact ⟨fun l src d ha hs hd => shown l src d ha hs (by simpa using hd.1),
        fun l src ha hd => lheld l src ha fun e => hd ⟨by simpa using e, other⟩, inputs, unnamed⟩
    · obtain ⟨_, _, _, _, e⟩ := deriveLink_frame (s.setLine l r)
      rw [e]
      rfl

theorem loseLine_follows (l : AlarmLine) (s : State) :
    LinkFollows s l { s.alarm.line l with state := .silent, expiry := none } (loseLine l s).1 (loseLine l s).2 := by
  unfold loseLine
  dsimp only
  split
  · rename_i silent
    exact .kept silent
  · rename_i heard
    exact .derived heard

theorem hearLine_follows (l : AlarmLine) (s : State) :
    LinkFollows s l { s.alarm.line l with receiver := .hunt, state := .live, expiry := some s.supervisionFrom }
      (hearLine l s).1 (hearLine l s).2 := by
  unfold hearLine
  dsimp only
  split
  · rename_i live
    exact .kept live
  · rename_i lost
    exact .derived lost

theorem LinkFollows.lines_of {s t : State} {l : AlarmLine} {r : AlarmLineRec} {ns : List Notice} (h : LinkFollows s l r t ns) :
    (∀ m, t.alarm.line m = if m = l then r else s.alarm.line m) ∧ t.alarm.intake = s.alarm.intake
      ∧ t.alarm.handler = s.alarm.handler ∧ t.alarm.lastSeq = s.alarm.lastSeq ∧ t.alarm.mode = s.alarm.mode := by
  have line (a : Alarm) (k : LinkState) (m : AlarmLine) : ({ a with link := k } : Alarm).line m = a.line m := by cases m <;> rfl
  refine ⟨fun m => ?_, ?_⟩
  · rw [h.alarm, line, Alarm.line_setLine]
  · rw [h.alarm]
    cases l <;> exact ⟨rfl, rfl, rfl, rfl⟩

/-- The notice of a changed link joins a queue with room (R166). -/
theorem LinkFollows.posts {s t u : State} {l : AlarmLine} {r : AlarmLineRec} {ns : List Notice} (h : LinkFollows s l r t ns)
    (port : u.port = t.port) (ne : t.alarm.link ≠ s.alarm.link) (room : s.port.notices.length < 64) :
    (u.postAll ns).port.notices = s.port.notices
      ++ [{ kind := .alarmLink, time := s.port.clock, subject := none, value := [s.alarm.link.code, t.alarm.link.code] }] := by
  have notices : u.port.notices = s.port.notices := by rw [port, h.notices]
  rw [State.postAll_port, h.changed ne, Port.postAll_one (by rw [notices]; exact room), notices]
  rfl

/-- With the link as it was, nothing reaches the port (R166). -/
theorem LinkFollows.silent {s t u : State} {l : AlarmLine} {r : AlarmLineRec} {ns : List Notice} (h : LinkFollows s l r t ns)
    (port : u.port = t.port) (same : t.alarm.link = s.alarm.link) : (u.postAll ns).port = s.port := by
  obtain ⟨still, rfl⟩ := h.same same
  rw [State.postAll_port, port, still]
  rfl

/-- The lines follow the link in any later state with the same link. -/
theorem LinkFollows.follow {s t u : State} {l : AlarmLine} {r : AlarmLineRec} {ns : List Notice} (h : LinkFollows s l r t ns)
    (exits : u.exits = t.exits) (link : u.alarm.link = t.alarm.link) :
    LinesFollow s u fun src => src = .alarmLinkLost ∧ u.alarm.link ≠ s.alarm.link := by
  rw [link]
  refine h.lines.congr (by rw [exits]) ?_
  rintro _ ⟨rfl, -⟩
  simp only [State.sourceTrue, link]

/-- What an event of the alarm lines leaves alone. -/
theorem AlarmMove.frame {s u : State} (h : AlarmMove s u) (posted : Posted s.port u.port) : u = { s with
    alarm := { s.alarm with
      lineA := u.alarm.lineA, lineB := u.alarm.lineB, intake := u.alarm.intake, handler := u.alarm.handler, link := u.alarm.link }
    exits := { s.exits with lines := u.exits.lines }
    port := { s.port with notices := u.port.notices, flags := u.port.flags, snapshot := u.port.snapshot } } := by
  obtain ⟨a, b, i, k, n, l, p, rfl⟩ := h
  have port := posted.other
  dsimp only at port ⊢
  rw [← port]

theorem AlarmMove.whole {f : Emit} {s : State} (h : AlarmMove s (f s).1) (timely : Timely f) : f.run s = { s with
    alarm := { s.alarm with
      lineA := (f.run s).alarm.lineA, lineB := (f.run s).alarm.lineB, intake := (f.run s).alarm.intake
      handler := (f.run s).alarm.handler, link := (f.run s).alarm.link }
    exits := { s.exits with lines := (f.run s).exits.lines }
    port := { s.port with
      notices := (f.run s).port.notices, flags := (f.run s).port.flags, snapshot := (f.run s).port.snapshot } } :=
  AlarmMove.frame (h.trans ⟨_, _, _, _, _, _, _, Emit.run_of_eq rfl⟩) (timely.run s)

/-- Settles O33: a line falls silent, and the link follows a line that was LIVE. -/
theorem lineFallsSilent : Obligations.LineFallsSilent := by
  refine ⟨fun s l none => ?_, fun s l expiry running reached => ?_⟩
  · have run : s.supervisionOver l = false := by rw [State.supervisionOver, none]
    exact congrArg Host.Outcome.next (if_neg (by rw [run]; exact Bool.false_ne_true))
  · have run : s.supervisionOver l = true := by rw [State.supervisionOver, running]; exact decide_eq_true reached
    have follows := loseLine_follows l s
    obtain ⟨line, intake, handler, -⟩ := follows.lines_of
    have frame := (loseLine_alarmMove l s).whole (loseLine_timely l)
    refine ⟨(loseLine l).run s, congrArg Host.Outcome.next (if_pos run), ?_⟩
    unfold Emit.run at frame ⊢
    generalize (loseLine l s).1 = t at *
    generalize (loseLine l s).2 = ns at *
    refine ⟨?_, ?_, ?_, ?_, ?_, ?_, ?_, ?_⟩
    · rw [State.postAll_alarm, line, if_pos rfl]
    · intro m other
      rw [State.postAll_alarm, line, if_neg other]
    · rw [State.postAll_alarm, follows.link]
    · exact fun ne room => follows.posts rfl ne room
    · intro ne lost
      exact Port.postAll_flag (follows.lost ne lost) ns
    · exact follows.follow rfl rfl
    · exact fun same => follows.silent rfl same
    · rw [State.postAll_alarm, intake, handler] at frame
      exact frame

/-! ## Good frames -/

theorem State.offerFrame_room {s : State} (room : s.alarm.intake.length < 8) (f : IntakeFrame) :
    s.offerFrame f = { s with alarm := { s.alarm with intake := s.alarm.intake ++ [f], handler := .taking } } :=
  if_pos room

theorem State.offerFrame_full {s : State} (full : 8 ≤ s.alarm.intake.length) (f : IntakeFrame) :
    s.offerFrame f = s.setLine f.line { s.alarm.line f.line with overruns := bump (s.alarm.line f.line).overruns } :=
  if_neg (Nat.not_lt.2 full)

/-- What an offered frame leaves alone (R164, R168). -/
theorem State.offerFrame_leaves (s : State) (f : IntakeFrame) : (s.offerFrame f).alarm.link = s.alarm.link
    ∧ (s.offerFrame f).exits = s.exits ∧ (s.offerFrame f).port = s.port
    ∧ (s.offerFrame f).alarm.lineA.state = s.alarm.lineA.state ∧ (s.offerFrame f).alarm.lineB.state = s.alarm.lineB.state := by
  rcases Nat.lt_or_ge s.alarm.intake.length 8 with room | full
  · rw [State.offerFrame_room room]
    exact ⟨rfl, rfl, rfl, rfl, rfl⟩
  · rw [State.offerFrame_full full]
    obtain ⟨line, seq, body⟩ := f
    cases line <;> exact ⟨rfl, rfl, rfl, rfl, rfl⟩

theorem State.offerFrame_line (s : State) (f : IntakeFrame) (m : AlarmLine) : (s.offerFrame f).alarm.line m =
    if m = f.line ∧ 8 ≤ s.alarm.intake.length then { s.alarm.line m with overruns := bump (s.alarm.line m).overruns }
    else s.alarm.line m := by
  rcases Nat.lt_or_ge s.alarm.intake.length 8 with room | full
  · rw [State.offerFrame_room room, if_neg (fun h => Nat.not_lt.2 h.2 room)]
    cases m <;> rfl
  · rw [State.offerFrame_full full]
    refine (Alarm.line_setLine ..).trans ?_
    by_cases own : m = f.line
    · rw [if_pos own, if_pos ⟨own, full⟩, own]
    · rw [if_neg own, if_neg fun h => own h.1]

/-- The bytes of a panel frame with a correct Sum Check are good (R163, R201). -/
theorem goodFrame_sent (seq : Byte) (body : FrameBody) :
    GoodFrame (cleanBytes (seq :: body.wire ++ [sumCheck (0xA5 :: seq :: body.wire)])) seq body := by
  refine ⟨_, [], (List.append_nil _).symm, ?_⟩
  rw [List.sum_append, List.sum_singleton, sumCheck, byteSum_eq_sum]
  exact add_neg_cancel _

/-- Settles O32: a good frame has its line heard, and then joins the intake or is counted as an overrun. -/
theorem alarmFramesAreTaken : Obligations.AlarmFramesAreTaken := by
  refine ⟨fun seq body content sent => ?_, readAlarm_eq_good_iff, fun s l bytes seq body frame good => ?_⟩
  · rw [readAlarm_eq_good_iff]
    have wire : content = seq :: body.wire := by rw [sent]; cases body <;> rfl
    rw [wire]
    exact goodFrame_sent seq body
  · have runs : exec (.alarmFrameEnd l bytes) s = .next ((takeGood l seq body).run s) := by
      refine congrArg Host.Outcome.next ((if_pos frame).trans ?_)
      rw [good]
    have whole := (takeGood_alarmMove l seq body s).whole (takeGood_timely l seq body)
    have follows := hearLine_follows l s
    obtain ⟨line, intake, handler, -⟩ := follows.lines_of
    refine ⟨_, runs, ?_⟩
    have taken : (takeGood l seq body).run s =
        (((hearLine l s).1.offerFrame { line := l, seq := seq, body := body }).postAll (hearLine l s).2) := rfl
    rw [taken] at whole ⊢
    generalize (hearLine l s).1 = t at *
    generalize (hearLine l s).2 = ns at *
    obtain ⟨link, exits, port, stateA, stateB⟩ := t.offerFrame_leaves { line := l, seq := seq, body := body }
    have lines := t.offerFrame_line { line := l, seq := seq, body := body }
    rw [intake] at lines
    refine ⟨?_, ?_, ?_, ?_, ?_, ?_, ?_, ?_, whole⟩
    · rw [State.postAll_alarm, lines, line, if_pos rfl]
      rcases Nat.lt_or_ge s.alarm.intake.length 8 with room | full
      · rw [if_neg (fun h => Nat.not_lt.2 h.2 room), if_pos room]
        rfl
      · rw [if_pos ⟨rfl, full⟩, if_neg (Nat.not_lt.2 full)]
        rfl
    · intro m other
      rw [State.postAll_alarm, lines, if_neg (fun h => other h.1), line, if_neg other]
    · intro room
      rw [State.postAll_alarm, State.offerFrame_room (by rw [intake]; exact room)]
      exact ⟨by rw [intake], rfl⟩
    · intro full
      rw [State.postAll_alarm, State.offerFrame_full (by rw [intake]; exact full)]
      refine ⟨?_, ?_⟩
      · exact (Alarm.setLine_intake ..).trans intake
      · rw [← handler]
        cases l <;> rfl
    · rw [State.postAll_alarm, link, follows.link, stateA, stateB]
    · rw [State.postAll_alarm, link]
      exact fun ne room => follows.posts port ne room
    · exact follows.follow exits link
    · rw [State.postAll_alarm, link]
      exact fun same => follows.silent port same

end Machine
end Sys2Proof
end

/-!
The law of the passages and the adverts (R141, R148, R151, R154).
-/
section
namespace Sys2Proof
namespace Machine

/-! ## The passages an advert reaches -/

/-- An entry is used: the hall id is not 0, and its passage record is present and names the sender (R153). -/
def State.uses (s : State) (a : Advert) (e : AdvertEntry) : Bool :=
  (s.active.passages.get e.passage).elim false fun c => s.active.params.hallId ≠ 0 && c.neighbour = a.sender

theorem takeEntry_passed {s : State} {a : Advert} {e : AdvertEntry} (h : s.uses a e = false) : takeEntry a e s = (s, []) := by
  unfold takeEntry
  unfold State.uses at h
  split
  · rfl
  · rename_i c record
    rw [record] at h
    exact if_neg (by rw [show (_ && _) = false from h]; exact Bool.false_ne_true)

theorem takeEntry_used {s : State} {a : Advert} {e : AdvertEntry} (h : s.uses a e = true) : takeEntry a e s = useEntry a.generation e s := by
  unfold takeEntry
  unfold State.uses at h
  split
  · rename_i record
    rw [record] at h
    cases h
  · rename_i c record
    rw [record] at h
    exact if_pos h

theorem ExitMove.boundary {s t : State} (h : ExitMove s t) : t.boundary = s.boundary ∧ t.layout = s.layout := by
  obtain ⟨_, _, _, rfl⟩ := h
  exact ⟨rfl, rfl⟩

theorem useEntry_move (g : Gen) (e : AdvertEntry) (s : State) :
    ExitMove (s.setPassage e.passage (s.usedRecord g e)) (useEntry g e s).1 := by
  unfold useEntry
  dsimp only
  split
  · exact s.takeRecord_frame ..
  · exact (s.takeRecord_frame ..).trans (deriveStaleOf_frame ..)

/-- A part that changes the exits alone, once some fields of the controller are set, keeps what those fields decide. -/
theorem takeEntry_boundary (a : Advert) (e : AdvertEntry) (s : State) : (takeEntry a e s).1.layout = s.layout ∧
    (takeEntry a e s).1.boundary =
      if s.uses a e then (s.setPassage e.passage (s.usedRecord a.generation e)).boundary else s.boundary := by
  cases h : s.uses a e with
  | false =>
    rw [takeEntry_passed h]
    exact ⟨rfl, rfl⟩
  | true =>
    rw [takeEntry_used h]
    obtain ⟨boundary, layout⟩ := (useEntry_move a.generation e s).boundary
    exact ⟨layout, boundary⟩

/-! ## The law -/

/-- What the law says of one passage, under a hall id and the passage's record. -/
structure PassageRec.Lawful (own : HallId) (cfg : Option PassageCfg) (r : PassageRec) : Prop where
  absent : cfg = none → r = PassageRec.cold
  inactive : own = 0 → r = PassageRec.cold
  loop : ∀ path, r.path = some path → own ∈ path → r.remote = Config.inf
  neighbour : ∀ c path, cfg = some c → r.path = some path → path.head? = some c.neighbour ∧ path.length ≤ 4
  range : r.remote ≤ Config.inf
  heard : r.state = .heard → r.lastHeard.isSome = true

theorem PassageRec.Lawful.cold (own : HallId) (cfg : Option PassageCfg) : PassageRec.cold.Lawful own cfg where
  absent _ := rfl
  inactive _ := rfl
  loop _ h := nomatch h
  neighbour _ _ _ h := nomatch h
  range := Nat.le_refl _
  heard h := nomatch h

theorem passageLaw_iff (s : State) : PassageLaw s ↔
    (∀ p, (s.boundary.passages.get p).Lawful s.active.params.hallId (s.active.passages.get p))
    ∧ (s.active.params.hallId = 0 → s.boundary.waiting = none ∧ s.boundary.owed = false) ∧ s.boundary.errors ≤ 65535 :=
  ⟨fun h => ⟨fun p => ⟨h.absent p, fun own => h.inactive own p, h.loop p, h.neighbour p, h.range p, h.heard p⟩, h.pending, h.errors⟩,
    fun ⟨h, pending, errors⟩ => ⟨fun p => (h p).absent, fun own p => (h p).inactive own, fun p => (h p).loop,
      fun p => (h p).neighbour, fun p => (h p).range, fun p => (h p).heard, pending, errors⟩⟩

theorem PassageLaw.congr {s t : State} (h : PassageLaw s) (boundary : t.boundary = s.boundary)
    (hallId : t.active.params.hallId = s.active.params.hallId) (passages : t.active.passages = s.active.passages) : PassageLaw t := by
  rw [passageLaw_iff] at h ⊢
  rw [boundary, hallId, passages]
  exact h

theorem PassageLaw.of_eq {s t : State} (h : PassageLaw s) (boundary : t.boundary = s.boundary) (layout : t.layout = s.layout) :
    PassageLaw t :=
  h.congr boundary (by rw [State.active, layout]; rfl) (by rw [State.active, layout]; rfl)

theorem PassageLaw.postAll {s : State} (h : PassageLaw s) (l : List Notice) : PassageLaw (s.postAll l) := h.of_eq rfl rfl
theorem PassageLaw.respond {s : State} (h : PassageLaw s) (st : Status) (b : List Byte) : PassageLaw (s.respond st b) := h.of_eq rfl rfl

theorem PassageLaw.kickAll {s : State} (h : PassageLaw s) : PassageLaw s.kickAll := by
  obtain ⟨_, _, e⟩ := s.kickAll_frame
  rw [e]
  exact h.of_eq rfl rfl

theorem PassageLaw.moved {s t : State} (h : PassageLaw s) (move : ExitMove s t) : PassageLaw t :=
  h.of_eq move.boundary.1 move.boundary.2

theorem PassageLaw.setPassage {s : State} (h : PassageLaw s) {p : PassageIdx} {r : PassageRec}
    (hr : r.Lawful s.active.params.hallId (s.active.passages.get p)) : PassageLaw (s.setPassage p r) := by
  rw [passageLaw_iff] at h ⊢
  obtain ⟨passages, pending, errors⟩ := h
  refine ⟨fun q => ?_, pending, errors⟩
  show ((s.boundary.passages.set p r).get q).Lawful _ _
  rw [Table.get_set]
  split
  · rename_i same
    rw [same]
    exact hr
  · exact passages q

/-- The values of a used entry of a sound advert are lawful: its list begins with the neighbour, and one that names this hall gives INF
(R153, R154). -/
theorem State.usedRecord_lawful {s : State} {a : Advert} (sound : a.Sound) {e : AdvertEntry} (mem : e ∈ a.entries)
    (used : s.uses a e = true) (g : Gen) :
    (s.usedRecord g e).Lawful s.active.params.hallId (s.active.passages.get e.passage) := by
  unfold State.uses at used
  cases record : s.active.passages.get e.passage with
  | none =>
    rw [record] at used
    cases used
  | some c =>
    rw [record] at used
    simp only [Option.elim_some, Bool.and_eq_true, decide_eq_true_eq] at used
    obtain ⟨own, sender⟩ := used
    refine ⟨fun h => (nomatch h), fun h => absurd h own, ?_, ?_, ?_, fun _ => rfl⟩
    · intro path hp named
      cases hp
      exact if_pos (by simpa using named)
    · intro c' path hc hp
      cases hc
      cases hp
      rw [sender]
      exact ⟨sound.first e mem, (sound.paths e mem).2⟩
    · simp only [State.usedRecord]
      split
      · exact Nat.le_refl _
      · exact sound.cost e mem

theorem PassageLaw.takeAdvert {s : State} (h : PassageLaw s) {a : Advert} (sound : a.Sound) : PassageLaw (takeAdvert a s).1 := by
  unfold Sys2Proof.Machine.takeAdvert
  split
  · unfold seeDuplicate
    dsimp only
    obtain ⟨passages, pending, errors⟩ := (passageLaw_iff s).1 h
    split <;> exact (passageLaw_iff _).2 ⟨passages, pending, errors⟩
  · refine Emit.each_keeps (P := PassageLaw) (fun e mem t ht => ?_) h
    obtain ⟨layout, boundary⟩ := takeEntry_boundary a e t
    cases used : t.uses a e with
    | false =>
      rw [used] at boundary
      exact ht.of_eq boundary layout
    | true =>
      rw [used] at boundary
      exact (ht.setPassage (t.usedRecord_lawful sound mem used a.generation)).of_eq boundary layout

theorem PassageLaw.goStale {s : State} (h : PassageLaw s) {p : PassageIdx} (heard : (s.boundary.passages.get p).state = .heard) :
    PassageLaw (goStale p s).1 := by
  refine (h.setPassage ?_).moved (goStale_frame p s)
  have lawful := ((passageLaw_iff s).1 h).1 p
  have active : s.boundary.passages.get p ≠ PassageRec.cold := fun cold => by
    rw [cold] at heard
    cases heard
  exact ⟨fun absent => absurd (lawful.absent absent) active, fun own => absurd (lawful.inactive own) active, lawful.loop,
    lawful.neighbour, lawful.range, fun stale => nomatch stale⟩

theorem PassageLaw.build {s : State} (h : PassageLaw s) (own : s.active.params.hallId ≠ 0) (p : Published) : PassageLaw (s.build p) := by
  rw [passageLaw_iff] at h ⊢
  exact ⟨h.1, fun inactive => absurd inactive own, h.2.2⟩

theorem PassageLaw.takeField {s : State} (h : PassageLaw s) (p : Published) : PassageLaw (s.takeField p) := by
  unfold State.takeField
  split
  · exact h
  · rename_i own
    split
    · exact h.build own p
    · rw [passageLaw_iff] at h ⊢
      exact ⟨h.1, fun inactive => absurd inactive own, h.2.2⟩

theorem PassageLaw.adoptField {s t : State} (h : PassageLaw s) (p : Published) (ht : (adoptField p s).1 = t) : PassageLaw t := by
  obtain ⟨_, _, signs⟩ := ({ s with aspect := { s.aspect with published := some p, lastGeneration := p.field.generation } }
    : State).evalSigns_frame p
  obtain ⟨_, _, egress⟩ := formEgress_frame p (({ s with aspect := { s.aspect with
    published := some p, lastGeneration := p.field.generation } } : State).evalSigns p)
  rw [← ht]
  unfold Sys2Proof.Machine.adoptField
  dsimp only
  refine PassageLaw.takeField ?_ p
  rw [egress, signs]
  exact h.of_eq rfl rfl

theorem PassageLaw.nextRun {s : State} (h : PassageLaw s) : PassageLaw s.nextRun := by
  obtain ⟨_, e⟩ := s.nextRun_frame
  rw [e]
  exact h.of_eq rfl rfl

theorem PassageLaw.badFrame {s : State} (h : PassageLaw s) : PassageLaw s.badFrame := by
  rw [passageLaw_iff] at h ⊢
  exact ⟨h.1, h.2.1, bump_le _⟩

/-- A pending advert started leaves none pending (R143). -/
theorem PassageLaw.startFrame {s : State} (h : PassageLaw s) : PassageLaw (s.setBoundary s.boundary.startFrame) := by
  unfold Boundary.startFrame
  split
  · rw [passageLaw_iff] at h ⊢
    exact ⟨h.1, fun own => ⟨rfl, (h.2.1 own).2⟩, h.2.2⟩
  · exact h

theorem PassageLaw.exec_boundary {s : State} (h : PassageLaw s) {c : Instr} (hc : reach c = .boundary) : After (exec c s) PassageLaw := by
  obtain ⟨passages, pending, errors⟩ := (passageLaw_iff s).1 h
  cases c with
  | busFree cutOff =>
    refine .of_next ?_
    split
    · exact h
    · split
      · exact h.badFrame
      · exact h.startFrame
  | lostArbitration =>
    refine .of_next ?_
    split
    · exact h
    · refine (passageLaw_iff _).2 ⟨passages, fun own => ⟨if_pos own, (pending own).2⟩, errors⟩
  | advertSent => exact .of_next ((passageLaw_iff _).2 ⟨passages, pending, errors⟩)
  | advertReceived bits =>
    refine .of_next ?_
    split
    · exact h
    · split
      · exact h.badFrame
      · rename_i a read
        have sound := ((goodAdvert_iff bits a).1 ((readAdvert_eq_some_iff bits a).1 read)).2
        exact (h.takeAdvert sound).postAll _
  | advertIntervalExpiry =>
    refine .of_next ?_
    split
    · exact h
    · split
      · rename_i due
        simp only [Bool.and_eq_true, decide_eq_true_eq] at due
        exact h.build due.2 _
      · exact h
  | passageAgeExpiry p =>
    refine .of_next ?_
    split
    · rename_i expired
      refine (h.goStale ?_).postAll _
      unfold State.ageExpired at expired
      dsimp only at expired
      split at expired
      · rename_i heard _
        exact heard
      · cases expired
    · exact h
  | duplicateWatchExpiry =>
    refine .of_next ?_
    split
    · exact h
    · split
      · exact (passageLaw_iff _).2 ⟨passages, pending, errors⟩
      · exact h
  | _ => cases hc

/-- What a new ACTIVE leaves of the passages is lawful under it (R156, R158). -/
theorem PassageLaw.adopted {s t : State} {old : Layout} (errors : s.boundary.errors ≤ 65535)
    (lawful : ∀ p, (s.boundary.passages.get p).Lawful old.params.hallId (old.passages.get p)) (ht : (adopt old s).1 = t) : PassageLaw t := by
  have adopts := adopt_adopts old s
  obtain ⟨_, _, _, _, _, _, _, _, _, _, frame⟩ := adopt_frame old s
  rw [ht] at adopts frame
  rw [passageLaw_iff, adopts.active]
  refine ⟨fun p => ?_, fun _ => ?_, ?_⟩
  · rw [adopts.passages p]
    split
    · rename_i same
      rw [← same.1, ← same.2]
      exact lawful p
    · exact .cold ..
  · rw [frame]
    exact ⟨rfl, rfl⟩
  · rw [frame]
    exact errors

theorem PassageLaw.exec {s : State} (h : PassageLaw s) (awaiting : s.loaded = false → AwaitingLoad s) (c : Instr) :
    After (exec c s) PassageLaw := by
  obtain ⟨passages, pending, errors⟩ := (passageLaw_iff s).1 h
  cases hk : reach c with
  | boundary => exact h.exec_boundary hk
  | field =>
    cases c with
    | handover =>
      refine .of_next ?_
      split
      · exact h
      · split
        · rename_i r _ _
          dsimp only
          refine (PassageLaw.kickAll ?_).postAll _
          have started : PassageLaw (s.setEngine { s.engine with generation := s.engine.generation + 1 }) := h.of_eq rfl rfl
          exact (started.adoptField (s.handedOver r) rfl).nextRun
        · exact h
    | _ => cases hk
  | banks =>
    obtain ⟨t, ht, f⟩ := exec_frame hk (by nofun) s
    refine ⟨t, ht, ?_⟩
    rcases (exec_banks_active hk s).elim ht with e | ⟨ch, v, e⟩
    · exact h.congr (f.boundary (by nofun) (by nofun)) (by rw [e]) (by rw [e])
    · exact h.congr (f.boundary (by nofun) (by nofun)) (by rw [e]; rfl) (by rw [e]; rfl)
  | whole =>
    cases c with
    | coldReset =>
      refine .of_next ((passageLaw_iff _).2 ⟨fun p => ?_, fun _ => ⟨rfl, rfl⟩, Nat.zero_le _⟩)
      simp only [State.cold, Table.get_replicate]
      exact .cold ..
    | loadEvent =>
      refine execLoadEvent_keeps h fun unloaded => PassageLaw.postAll ?_ _
      have cold := awaiting unloaded
      obtain ⟨_, _, e⟩ := s.takeUp_frame
      have boundary : s.takeUp.boundary = s.boundary := by rw [e]; rfl
      rw [passageLaw_iff, boundary]
      refine ⟨fun p => ?_, fun _ => ⟨cold.adverts.2.2.1, cold.adverts.2.1⟩, errors⟩
      rw [cold.passages, Table.get_replicate]
      exact .cold ..
    | commitLayout =>
      have finish (r : State × List (List Notice)) (hr : PassageLaw r.1) : PassageLaw (s.finishCommit r) := by
        refine (PassageLaw.kickAll ?_).postAll _
        exact hr.of_eq rfl rfl
      refine execCommitLayout_keeps h h.respond fun _ => ?_
      rw [State.commit_eq]
      refine (finish _ (PassageLaw.adopted (s := s.beforeCommit) (old := s.active) ?_ ?_ rfl)).respond _ _
      · exact errors
      · exact passages
    | reinit =>
      have finish (r : State × List (List Notice)) (hr : PassageLaw r.1) : PassageLaw (s.finishRestart r) := by
        refine (PassageLaw.kickAll ?_).postAll _
        obtain ⟨_, hd⟩ := State.offers_frame (signsWhere r.1.active.signs.has)
          { r.1 with aspect := { r.1.aspect with published := none, signs := Table.replicate 192 SignRec.dark } }
        have darkened : PassageLaw r.1.darken := by
          unfold State.darken
          rw [hd]
          exact hr.of_eq rfl rfl
        exact darkened.of_eq rfl rfl
      refine execReinit_keeps h h.respond fun _ _ => ?_
      rw [State.restart_eq]
      refine (finish _ (PassageLaw.adopted (s := s.loadBanks.restartEngine) (old := s.active) ?_ ?_ rfl)).respond _ _
      · exact errors
      · exact passages
    | _ => cases hk
  | _ =>
    exact (exec_frame hk (by nofun) s).imp fun _ f => h.of_eq (f.boundary (by nofun) (by nofun)) (f.layout (by nofun))

/-- Settles O56: a used entry of a sound advert is lawful, an adoption keeps a record or resets it, and a hall id of 0 leaves nothing to send. -/
theorem passageLawIsKept : Obligations.PassageLawIsKept := fun _ _ awaiting hs h =>
  step_keeps (P := fun s => (s.loaded = false → AwaitingLoad s) ∧ PassageLaw s) (fun _ h => h.2)
    (fun _ _ h => ⟨fun hl => { h.1 hl with }, h.2.of_eq rfl rfl⟩) (fun c _ h => h.2.exec h.1 c) ⟨awaiting, hs⟩ h

end Machine
end Sys2Proof
end

/-!
How exits and lines follow several reason sets taken in one event: the parts of an event compose where no exit moves twice (R57, R68).
-/
section
namespace Sys2Proof
namespace Machine

/-! ## What a move of exits leaves alone -/

/-- What `t`, an exit move from `s`, shares with it. -/
structure ExitMove.Leaves (s t : State) : Prop where
  layout : t.layout = s.layout
  active : t.active = s.active
  zones : t.zones = s.zones
  beams : t.beams = s.beams
  boundary : t.boundary = s.boundary
  aspect : t.aspect = s.aspect
  alarm : t.alarm = s.alarm
  port : t.port = s.port
  signLine : t.signLine = s.signLine
  grace : t.exits.grace = s.exits.grace
  pins : t.exits.pins = s.exits.pins

theorem ExitMove.leaves {s t : State} (h : ExitMove s t) : ExitMove.Leaves s t := by
  obtain ⟨_, _, _, rfl⟩ := h
  exact ⟨rfl, rfl, rfl, rfl, rfl, rfl, rfl, rfl, rfl, rfl, rfl⟩

theorem ExitMove.baseCost {s t : State} (h : ExitMove s t) (e : ExitIdx) (u : Bool) : t.baseCost e u = s.baseCost e u :=
  State.baseCost_congr h.leaves.active (fun p => by rw [h.leaves.boundary]) e u

/-- A source is as true as it was where the exit it names keeps its record (R68). -/
theorem ExitMove.sourceTrue {s t : State} (h : ExitMove s t) {src : OutputSource}
    (named : ∀ e, OutputSource.names e src = true → t.exits.exits.get e = s.exits.exits.get e) : t.sourceTrue src = s.sourceTrue src := by
  have l := h.leaves
  cases src with
  | exitInUse e => simp only [State.sourceTrue, State.exitInUse, l.active, l.aspect, named e (decide_eq_true rfl)]
  | exitClosed e => simp only [State.sourceTrue, l.active, named e (decide_eq_true rfl)]
  | hallEvacuate => simp only [State.sourceTrue, l.alarm]
  | noEgressAny =>
    have count : t.noEgressCount = s.noEgressCount := by rw [State.noEgressCount, l.aspect]; rfl
    simp only [State.sourceTrue, count]
  | alarmLinkLost => simp only [State.sourceTrue, l.alarm]

/-! ## Sequences of moves -/

theorem State.moves_iff (s : State) (new : ExitIdx → ReasonSet) (e : ExitIdx) :
    s.moves new e = true ↔ s.active.exits.has e = true ∧ new e ≠ (s.exits.exits.get e).reasons := by
  simp [State.moves]

theorem State.moves_congr {s : State} {new new' : ExitIdx → ReasonSet} {e : ExitIdx} (h : s.active.exits.has e = true → new' e = new e) :
    s.moves new' e = s.moves new e := by
  unfold State.moves
  cases defined : s.active.exits.has e with
  | false => rfl
  | true => rw [h defined]

/-- Only the sets of defined exits matter. -/
theorem ExitsFollow.congr {s t : State} {new new' : ExitIdx → ReasonSet} {also also' : OutputSource → Prop} (h : ExitsFollow s t new also)
    (same : ∀ e, s.active.exits.has e = true → new' e = new e) (alike : ∀ src, also' src ↔ also src) : ExitsFollow s t new' also' := by
  have moves (e) : s.moves new' e = s.moves new e := State.moves_congr (same e)
  constructor
  · intro e
    rw [h.exits e, moves]
    split
    · rename_i moved
      rw [same e ((s.moves_iff new e).1 moved).1]
    · rfl
  · simp only [moves, alike]
    exact h.lines
  · simp only [moves]
    exact h.pending

/-- The reason set of a defined exit is the one given. -/
theorem ExitsFollow.reasons {s t : State} {new : ExitIdx → ReasonSet} {also : OutputSource → Prop} (h : ExitsFollow s t new also)
    {e : ExitIdx} (defined : s.active.exits.has e = true) : (t.exits.exits.get e).reasons = new e := by
  rw [h.exits e]
  split
  · rfl
  · rename_i still
    rw [State.moves_iff, not_and, not_not] at still
    exact (still defined).symm

theorem ExitsFollow.unmoved {s t : State} {new : ExitIdx → ReasonSet} {also : OutputSource → Prop} (h : ExitsFollow s t new also)
    {e : ExitIdx} (still : ¬ s.moves new e = true) : t.exits.exits.get e = s.exits.exits.get e := by
  rw [h.exits e, if_neg still]

/-- The sets after two moves of which the second is `u`'s. -/
def State.thenMoves (u : State) (first second : ExitIdx → ReasonSet) (e : ExitIdx) : ReasonSet :=
  if u.moves second e then second e else first e

/-- Two moves one after the other, no exit in both, are one move. -/
theorem ExitsFollow.trans {s u t : State} {first second : ExitIdx → ReasonSet} {also also' : OutputSource → Prop}
    (h : ExitsFollow s u first also) (k : ExitsFollow u t second also') (hm : ExitMove s u) (km : ExitMove u t)
    (disjoint : ∀ e, s.moves first e = true → ¬ u.moves second e = true) :
    ExitsFollow s t (u.thenMoves first second) (fun src => also src ∨ also' src) := by
  have hl := hm.leaves
  have moves (e) : s.moves (u.thenMoves first second) e = true ↔ s.moves first e = true ∨ u.moves second e = true := by
    by_cases moved : u.moves second e = true
    · have before : ¬ s.moves first e = true := fun hs => disjoint e hs moved
      have held := h.unmoved before
      simp only [moved, or_true, iff_true]
      rw [State.moves_iff] at moved ⊢
      rw [State.thenMoves, if_pos ((u.moves_iff second e).2 moved), ← hl.active, ← held]
      exact moved
    · rw [or_iff_left moved, State.moves_iff, State.moves_iff, State.thenMoves, if_neg moved]
  constructor
  · intro e
    rw [k.exits e]
    by_cases moved : u.moves second e = true
    · rw [if_pos moved, if_pos ((moves e).2 (.inr moved)), State.thenMoves, if_pos moved]
    · rw [if_neg moved, h.exits e]
      by_cases before : s.moves first e = true
      · rw [if_pos before, if_pos ((moves e).2 (.inl before)), State.thenMoves, if_neg moved, km.baseCost]
      · rw [if_neg before, if_neg fun both => ((moves e).1 both).elim before moved]
  · have active := hl.active
    have outputs (l : LineIdx) (d : Bool) (hd : s.exits.lines.get l = .output d) (src : OutputSource) (ha : s.active.lines.get l = .output src) :
        ∃ d', u.exits.lines.get l = .output d' := by
      by_cases driven : also src ∨ ∃ e, s.moves first e = true ∧ OutputSource.names e src = true
      · exact ⟨_, h.lines.shown l src d ha hd driven⟩
      · exact ⟨d, by rw [h.lines.held l src ha driven, hd]⟩
    constructor
    · intro l src d ha hs driven
      obtain ⟨d', hu⟩ := outputs l d hs src ha
      by_cases second_drives : also' src ∨ ∃ e, u.moves second e = true ∧ OutputSource.names e src = true
      · exact k.lines.shown l src d' (active ▸ ha) hu second_drives
      · have first_drives : also src ∨ ∃ e, s.moves first e = true ∧ OutputSource.names e src = true := by
          rcases driven with (a | a) | ⟨e, moved, named⟩
          · exact .inl a
          · exact absurd (.inl a) second_drives
          · rcases (moves e).1 moved with before | after
            · exact .inr ⟨e, before, named⟩
            · exact absurd (.inr ⟨e, after, named⟩) second_drives
        rw [k.lines.held l src (active ▸ ha) second_drives, h.lines.shown l src d ha hs first_drives]
        refine congrArg LineRec.output (km.sourceTrue fun e named => k.unmoved fun after => ?_).symm
        exact second_drives (.inr ⟨e, after, named⟩)
    · intro l src ha still
      rw [k.lines.held l src (active ▸ ha), h.lines.held l src ha]
      · exact fun d => still (d.elim (fun a => .inl (.inl a)) fun ⟨e, moved, named⟩ => .inr ⟨e, (moves e).2 (.inl moved), named⟩)
      · exact fun d => still (d.elim (fun a => .inl (.inr a)) fun ⟨e, moved, named⟩ => .inr ⟨e, (moves e).2 (.inr moved), named⟩)
    · exact fun l v start hs => k.lines.inputs l v start (h.lines.inputs l v start hs)
    · exact fun l ha => (k.lines.unnamed l (active ▸ ha)).trans (h.lines.unnamed l ha)
  · rw [k.pending, h.pending, or_assoc]
    exact or_congr_right ⟨fun hp => hp.elim (fun ⟨e, m⟩ => ⟨e, (moves e).2 (.inl m)⟩) fun ⟨e, m⟩ => ⟨e, (moves e).2 (.inr m)⟩,
      fun ⟨e, m⟩ => ((moves e).1 m).imp (fun a => ⟨e, a⟩) fun a => ⟨e, a⟩⟩

/-- Nothing moves. -/
theorem ExitsFollow.still {s t : State} {new : ExitIdx → ReasonSet} (exits : t.exits.exits = s.exits.exits)
    (lines : t.exits.lines = s.exits.lines) (pending : t.engine.changePending = s.engine.changePending)
    (held : ∀ e, s.active.exits.has e = true → new e = (s.exits.exits.get e).reasons) : ExitsFollow s t new (fun _ => False) := by
  have none (e) : ¬ s.moves new e = true := fun h => by
    rw [State.moves_iff] at h
    exact h.2 (held e h.1)
  refine ⟨fun e => by rw [if_neg (none e), exits], .still lines ?_, ?_⟩
  · rintro src (h | ⟨e, moved, -⟩)
    · exact h
    · exact none e moved
  · rw [pending]
    exact ⟨.inl, fun h => h.elim id fun ⟨e, moved⟩ => absurd moved (none e)⟩

/-! ## One reason set for each exit of a list -/

/-- A part that gives exit `e` the reason set `f` forms from the state. -/
def takeReasons (f : ExitIdx → State → ReasonSet) (e : ExitIdx) : Emit := fun s => setReasons e (f e s) s

/-- The reason sets once each exit of a list takes the one `f` forms in `s`. -/
def State.listed (s : State) (f : ExitIdx → State → ReasonSet) (l : List ExitIdx) (e : ExitIdx) : ReasonSet :=
  if e ∈ l then f e s else (s.exits.exits.get e).reasons

/-- The notice of an exit that takes a reason set. -/
def State.reasonNotice (s : State) (e : ExitIdx) (r : ReasonSet) : Notice :=
  s.notice .exitState (some (byte e.val)) [r.code, if r.isEmpty then 1 else 0]

theorem setReasons_notices (e : ExitIdx) (r : ReasonSet) (s : State) :
    (setReasons e r s).2 = if s.active.exits.has e && r ≠ (s.exits.exits.get e).reasons then [s.reasonNotice e r] else [] := by
  unfold setReasons
  split <;> rfl

/-- What a set formed in `s` for exit `e` may depend on: a move of other exits, and of the OUTPUT lines, leaves it as it is. -/
def Steady (s : State) (f : ExitIdx → State → ReasonSet) (e : ExitIdx) : Prop :=
  ∀ u, ExitMove s u → (∀ l, (∀ src, s.active.lines.get l ≠ .output src) → u.exits.lines.get l = s.exits.lines.get l) →
    u.exits.exits.get e = s.exits.exits.get e → f e u = f e s

theorem Steady.later {s u : State} {f : ExitIdx → State → ReasonSet} {e : ExitIdx} (h : Steady s f e) (move : ExitMove s u)
    (lines : ∀ l, (∀ src, s.active.lines.get l ≠ .output src) → u.exits.lines.get l = s.exits.lines.get l)
    (record : u.exits.exits.get e = s.exits.exits.get e) : Steady u f e := by
  intro v hv kept rec
  have active := move.leaves.active
  rw [h v (move.trans hv) (fun l hl => (kept l (active ▸ hl)).trans (lines l hl)) (rec.trans record), h u move lines record]

/-- Exits that each take a reason set, one after another, move as one (R57), and post in the order of the list. -/
theorem each_takeReasons {f : ExitIdx → State → ReasonSet} {l : List ExitIdx} (nodup : l.Nodup) {s : State}
    (steady : ∀ e ∈ l, Steady s f e) :
    ExitMove s (Emit.each l (takeReasons f) s).1
    ∧ ExitsFollow s (Emit.each l (takeReasons f) s).1 (s.listed f l) (fun _ => False)
    ∧ (Emit.each l (takeReasons f) s).2 = (l.filter (s.moves (s.listed f l))).map fun e => s.reasonNotice e (s.listed f l e) := by
  induction l generalizing s with
  | nil => exact ⟨.refl s, .still rfl rfl rfl fun _ _ => rfl, rfl⟩
  | cons e l ih =>
    rw [List.nodup_cons] at nodup
    obtain ⟨fresh, nodup⟩ := nodup
    have move : ExitMove s (takeReasons f e s).1 := setReasons_frame ..
    have follows : ExitsFollow s (takeReasons f e s).1 (s.withReasons e (f e s)) (fun _ => False) := setReasons_follows ..
    have notices : (takeReasons f e s).2 = if s.active.exits.has e && f e s ≠ (s.exits.exits.get e).reasons then [s.reasonNotice e (f e s)] else [] :=
      setReasons_notices ..
    rw [Emit.each_cons]
    generalize (takeReasons f e s).1 = u at move follows notices
    rw [notices]
    have active := move.leaves.active
    have record (x : ExitIdx) (hx : x ≠ e) : u.exits.exits.get x = s.exits.exits.get x :=
      follows.unmoved fun moved => by rw [State.moves_withReasons] at moved; simp [hx] at moved
    have formed (x : ExitIdx) (hx : x ∈ l) : f x u = f x s :=
      steady x (List.mem_cons_of_mem _ hx) u move follows.lines.unnamed (record x fun eq => fresh (eq ▸ hx))
    obtain ⟨rest_move, rest_follows, rest_notices⟩ := ih nodup (s := u) fun x hx =>
      (steady x (List.mem_cons_of_mem _ hx)).later move follows.lines.unnamed (record x fun eq => fresh (eq ▸ hx))
    have unlisted : ¬ u.moves (u.listed f l) e = true := fun moved => by
      rw [State.moves_iff, State.listed, if_neg fresh] at moved
      exact moved.2 rfl
    have other (x : ExitIdx) (hx : x ≠ e) : u.listed f l x = s.listed f (e :: l) x := by
      unfold State.listed
      by_cases hl : x ∈ l
      · rw [if_pos hl, if_pos (List.mem_cons_of_mem _ hl), formed x hl]
      · rw [if_neg hl, if_neg (by simp [hx, hl]), record x hx]
    have own : s.listed f (e :: l) e = f e s := if_pos List.mem_cons_self
    have moves (x : ExitIdx) (hx : x ≠ e) : u.moves (u.listed f l) x = s.moves (s.listed f (e :: l)) x := by
      unfold State.moves
      rw [active, other x hx, record x hx]
    refine ⟨move.trans rest_move, ?_, ?_⟩
    · refine (follows.trans rest_follows move rest_move ?_).congr ?_ (by simp)
      · intro x moved
        rw [State.moves_withReasons, Bool.and_eq_true, decide_eq_true_eq] at moved
        rw [moved.1]
        exact unlisted
      · intro x _
        unfold State.thenMoves
        by_cases hx : x = e
        · rw [hx, if_neg unlisted, own, State.withReasons, if_pos rfl]
        · by_cases moved : u.moves (u.listed f l) x = true
          · rw [if_pos moved, other x hx]
          · rw [if_neg moved, State.withReasons, if_neg hx]
            have still := moved
            rw [moves x hx, State.moves_iff, not_and, not_not] at still
            exact still ‹_›
    · have head : s.moves (s.listed f (e :: l)) e = (s.active.exits.has e && f e s ≠ (s.exits.exits.get e).reasons) := by
        rw [State.moves, own]
      have tail : (l.filter (u.moves (u.listed f l))).map (fun x => u.reasonNotice x (u.listed f l x))
          = (l.filter (s.moves (s.listed f (e :: l)))).map fun x => s.reasonNotice x (s.listed f (e :: l) x) := by
        have ne (x : ExitIdx) (hx : x ∈ l) : x ≠ e := fun eq => fresh (eq ▸ hx)
        rw [List.filter_congr fun x hx => moves x (ne x hx)]
        refine List.map_congr_left fun x hx => ?_
        rw [other x (ne x (List.mem_filter.1 hx).1)]
        unfold State.reasonNotice State.notice
        rw [move.leaves.port]
      dsimp only
      rw [rest_notices, tail, List.filter_cons, head]
      split
      · rw [List.map_cons, own]
        rfl
      · rfl

theorem exitsWhere_nodup (p : ExitIdx → Bool) : (exitsWhere p).Nodup := (List.nodup_finRange 24).filter p

theorem mem_exitsWhere {p : ExitIdx → Bool} {e : ExitIdx} : e ∈ exitsWhere p ↔ p e = true := by simp [exitsWhere]

/-- The reason sets once the exits of which `p` is true take the ones `f` forms in `s`. -/
def State.given (s : State) (f : ExitIdx → State → ReasonSet) (p : ExitIdx → Bool) (e : ExitIdx) : ReasonSet :=
  if p e then f e s else (s.exits.exits.get e).reasons

/-- The exits of which something is true take their reason sets in one event (R57, R61, R62, R65). -/
theorem exitsWhere_takeReasons (f : ExitIdx → State → ReasonSet) (p : ExitIdx → Bool) {s : State}
    (steady : ∀ e, p e = true → Steady s f e) :
    ExitMove s (Emit.each (exitsWhere p) (takeReasons f) s).1
    ∧ ExitsFollow s (Emit.each (exitsWhere p) (takeReasons f) s).1 (s.given f p) (fun _ => False)
    ∧ (Emit.each (exitsWhere p) (takeReasons f) s).2 = s.exitNotices (s.given f p) := by
  have given : s.listed f (exitsWhere p) = s.given f p := funext fun e => by
    unfold State.listed State.given
    simp only [mem_exitsWhere]
  obtain ⟨move, follows, notices⟩ := each_takeReasons (exitsWhere_nodup p) fun e he => steady e (mem_exitsWhere.1 he)
  rw [given] at follows notices
  refine ⟨move, follows, notices.trans ?_⟩
  unfold State.exitNotices exitsWhere
  rw [List.filter_filter]
  refine congrArg _ (List.filter_congr fun e _ => ?_)
  by_cases listed : p e = true
  · rw [listed, Bool.and_true]
  · have still : s.moves (s.given f p) e = false := by
      rw [← Bool.not_eq_true, State.moves_iff, State.given, if_neg listed]
      exact fun h => h.2 rfl
    rw [still, Bool.false_and]

end Machine
end Sys2Proof
end

/-!
What each event does to the exits: HAZARD, DOOR and STALE derived for the exits they concern (R61, R62, R64 to R66), and a zone that takes
inputs (R29, R30).
-/
section
namespace Sys2Proof
namespace Machine

/-! ## The reason sets of a derivation -/

/-- The reason set of an exit whose HAZARD is derived (R61). -/
def hazardSet (e : ExitIdx) (s : State) : ReasonSet := { (s.exits.exits.get e).reasons with hazard := s.hazardHolds e }

/-- The reason set of an exit whose DOOR is derived (R65). -/
def doorSet (e : ExitIdx) (s : State) : ReasonSet := { (s.exits.exits.get e).reasons with door := s.doorHolds e }

/-- The reason set of an exit whose STALE is derived (R62). -/
def staleSet (e : ExitIdx) (s : State) : ReasonSet := { (s.exits.exits.get e).reasons with stale := s.staleHolds e }

/-- The reason set of an exit that loses DOOR (R66). -/
def doorlessSet (e : ExitIdx) (s : State) : ReasonSet := { (s.exits.exits.get e).reasons with door := false }

theorem deriveHazard_eq : deriveHazard = takeReasons hazardSet := rfl
theorem deriveDoor_eq : deriveDoor = takeReasons doorSet := rfl
theorem deriveStale_eq : deriveStale = takeReasons staleSet := rfl
theorem removeDoor_eq : removeDoor = takeReasons doorlessSet := rfl

theorem hazardSet_steady (s : State) (e : ExitIdx) : Steady s hazardSet e := fun u move _ record => by
  rw [hazardSet, record, State.hazardHolds_congr move.leaves.active move.leaves.zones]
  rfl

theorem doorSet_steady (s : State) (e : ExitIdx) : Steady s doorSet e := fun u move lines record => by
  rw [doorSet, record, State.doorHolds_congr move.leaves.active move.leaves.grace fun l door => lines l fun src => by rw [door]; nofun]
  rfl

theorem staleSet_steady (s : State) (e : ExitIdx) : Steady s staleSet e := fun u move _ record => by
  rw [staleSet, record, State.staleHolds_congr move.leaves.active fun p => by rw [move.leaves.boundary]]
  rfl

theorem doorlessSet_steady (s : State) (e : ExitIdx) : Steady s doorlessSet e := fun u _ _ record => by
  rw [doorlessSet, record]
  rfl

/-! ## Events, the exits they concern and what they post -/

/-- What a part of an event does to the exits: it moves them and posts their notices (R57). -/
structure ExitPart (s t : State) (ns : List Notice) (new : ExitIdx → ReasonSet) : Prop where
  move : ExitMove s t
  follows : ExitsFollow s t new (fun _ => False)
  notices : ns = s.exitNotices new

theorem ExitPart.each (f : ExitIdx → State → ReasonSet) (p : ExitIdx → Bool) {s : State} (steady : ∀ e, Steady s f e) :
    ExitPart s (Emit.each (exitsWhere p) (takeReasons f) s).1 (Emit.each (exitsWhere p) (takeReasons f) s).2 (s.given f p) :=
  have ⟨move, follows, notices⟩ := exitsWhere_takeReasons f p fun e _ => steady e
  ⟨move, follows, notices⟩

theorem deriveStaleOf_part (p : PassageIdx) (s : State) :
    ExitPart s (deriveStaleOf p s).1 (deriveStaleOf p s).2 (s.given staleSet (s.active.exitUses p)) :=
  .each staleSet _ (staleSet_steady s)

theorem deriveDoorsOf_part (l : LineIdx) (s : State) :
    ExitPart s (deriveDoorsOf l s).1 (deriveDoorsOf l s).2 (s.given doorSet fun e => s.active.doorLineOf e l) :=
  .each doorSet _ (doorSet_steady s)

/-- The exit is a defined DOOR exit (R64). -/
def Layout.isDoor (a : Layout) (e : ExitIdx) : Bool :=
  match a.exits.get e with
  | none => false
  | some x => x.kind = .door

theorem Layout.isDoor_iff (a : Layout) (e : ExitIdx) : a.isDoor e = true ↔ (a.exits.get e).map ExitCfg.kind = some .door := by
  unfold Layout.isDoor
  cases a.exits.get e <;> simp

theorem Layout.doorExits_eq (a : Layout) : a.doorExits = exitsWhere a.isDoor := rfl

theorem enterElapsed_part (s : State) :
    ExitPart (s.setGrace .elapsed) (enterElapsed s).1 (enterElapsed s).2 ((s.setGrace .elapsed).given doorSet s.active.isDoor) :=
  .each doorSet _ (doorSet_steady _)

theorem endGrace_part (s : State) :
    ExitPart (s.setGrace .idle) (endGrace s).1 (endGrace s).2 ((s.setGrace .idle).given doorlessSet fun _ => true) := by
  have all : List.finRange 24 = exitsWhere fun _ => true := (List.filter_true _).symm
  rw [endGrace_eq, removeDoor_eq, all]
  exact .each doorlessSet _ (doorlessSet_steady _)

/-! ## A zone that takes inputs -/

/-- The level a zone's inputs give (R29). -/
def ZoneRec.greatest (r : ZoneRec) : Level := max r.panelLevel (max r.consoleLevel r.beamLevel)

/-- Inputs that leave the effective level (R29). -/
theorem zoneEvent_kept {z : ZoneIdx} {r : ZoneRec} {s : State} (h : r.greatest = (s.zones.get z).effective) :
    zoneEvent z r s =
      ({ s with zones := s.zones.set z { r with effective := r.greatest, lastChange := (s.zones.get z).lastChange } }, []) := by
  have formed : formZone z r s =
      ({ s with zones := s.zones.set z { r with effective := r.greatest, lastChange := (s.zones.get z).lastChange } }, []) := if_pos h
  unfold zoneEvent
  dsimp only
  rw [formed, if_pos]
  dsimp only
  rw [Table.get_set_self]
  exact h

/-- The state of a zone whose effective level has changed, before the exits follow (R30). -/
def State.zoneFormed (s : State) (z : ZoneIdx) (r : ZoneRec) : State :=
  { s with
    zones := s.zones.set z { r with effective := r.greatest, lastChange := s.port.clock }
    engine := { s.engine with changePending := true } }

/-- ZONE_LEVEL of a changed effective level (R30). -/
def State.zoneNotice (s : State) (z : ZoneIdx) (level : Level) : Notice :=
  s.notice .zoneLevel (some (byte z.val)) [byte (s.zones.get z).effective.val, byte level.val]

/-- HAZARD of the exits in a zone, once its level is formed (R61). -/
theorem State.zoneFormed_given (s : State) (z : ZoneIdx) (r : ZoneRec) :
    (s.zoneFormed z r).given hazardSet (fun e => s.active.exitZone e = some z) = s.hazardAt z r.greatest := by
  funext e
  unfold State.given State.hazardAt
  by_cases inside : s.active.exitZone e = some z
  · rw [if_pos (by simpa using inside), if_pos inside]
    have holds : (s.zoneFormed z r).hazardHolds e = decide (s.active.params.tImp ≤ r.greatest.val) := by
      unfold State.hazardHolds
      show (match s.active.exitZone e with | none => false | some z' => _) = _
      rw [inside]
      dsimp only
      rw [State.zoneFormed, Table.get_set_self]
      rfl
    rw [hazardSet, holds]
    rfl
  · rw [if_neg (by simpa using inside), if_neg inside]
    rfl

/-- Inputs that change the effective level (R30, R61). -/
theorem zoneEvent_changed {z : ZoneIdx} {r : ZoneRec} {s : State} (h : r.greatest ≠ (s.zones.get z).effective) :
    ∃ ns, (zoneEvent z r s).2 = s.zoneNotice z r.greatest :: ns
      ∧ ExitPart (s.zoneFormed z r) (zoneEvent z r s).1 ns (s.hazardAt z r.greatest) := by
  have formed : formZone z r s = (s.zoneFormed z r, [s.zoneNotice z r.greatest]) := if_neg h
  have event : zoneEvent z r s =
      ((Emit.each (exitsWhere fun e => s.active.exitZone e = some z) deriveHazard (s.zoneFormed z r)).1,
        [s.zoneNotice z r.greatest] ++ (Emit.each (exitsWhere fun e => s.active.exitZone e = some z) deriveHazard (s.zoneFormed z r)).2) := by
    unfold zoneEvent
    dsimp only
    rw [formed, if_neg]
    dsimp only
    rw [State.zoneFormed, Table.get_set_self]
    exact h
  rw [event, deriveHazard_eq, ← State.zoneFormed_given]
  exact ⟨_, rfl, .each hazardSet _ (hazardSet_steady _)⟩

/-- What a zone's event reads and moves is alike in two states. -/
structure State.Alike (s u : State) : Prop where
  layout : u.layout = s.layout
  zones : u.zones = s.zones
  exits : u.exits = s.exits
  engine : u.engine = s.engine
  boundary : u.boundary = s.boundary
  aspect : u.aspect = s.aspect

theorem State.Alike.active {s u : State} (h : s.Alike u) : u.active = s.active := by rw [State.active, h.layout]; rfl

theorem State.Alike.moves {s u : State} (h : s.Alike u) (new : ExitIdx → ReasonSet) (e : ExitIdx) : u.moves new e = s.moves new e := by
  rw [State.moves, h.active, h.exits]
  rfl

theorem State.Alike.exitNotices {s u : State} (h : s.Alike u) (clock : u.port.clock = s.port.clock) (new : ExitIdx → ReasonSet) :
    u.exitNotices new = s.exitNotices new := by
  unfold State.exitNotices State.notice
  rw [clock, funext (h.moves new)]

theorem State.Alike.sourceTrue {s u : State} (h : s.Alike u) {e : ExitIdx} {src : OutputSource} (named : OutputSource.names e src = true) :
    u.sourceTrue src = s.sourceTrue src := by
  cases src with
  | exitInUse e => simp only [State.sourceTrue, State.exitInUse, h.active, h.aspect, h.exits]
  | exitClosed e => simp only [State.sourceTrue, h.active, h.exits]
  | hallEvacuate => cases named
  | noEgressAny => cases named
  | alarmLinkLost => cases named

/-- Exits that follow in one state follow in another alike. -/
theorem ExitsFollow.into {s t u : State} {new : ExitIdx → ReasonSet} (h : ExitsFollow s t new (fun _ => False)) (alike : t.Alike u) :
    ExitsFollow s u new (fun _ => False) where
  exits e := by
    rw [State.baseCost_congr alike.active (fun p => by rw [alike.boundary]), alike.exits]
    exact h.exits e
  lines := h.lines.congr (by rw [alike.exits]) fun src driven =>
    driven.elim False.elim fun ⟨_, _, named⟩ => alike.sourceTrue named
  pending := by rw [alike.engine]; exact h.pending

/-- Exits that follow from one state follow from another with the same ACTIVE, exits and change pending. -/
theorem ExitsFollow.from {s s' t : State} {new : ExitIdx → ReasonSet} {also : OutputSource → Prop} (h : ExitsFollow s t new also)
    (active : s'.active = s.active) (exits : s'.exits.exits = s.exits.exits) (lines : s'.exits.lines = s.exits.lines)
    (pending : s'.engine.changePending = s.engine.changePending) : ExitsFollow s' t new also := by
  have moves (e) : s'.moves new e = s.moves new e := by rw [State.moves, active, exits]; rfl
  constructor
  · intro e
    rw [moves, exits]
    exact h.exits e
  · simp only [moves]
    exact h.lines.of_source active lines
  · simp only [moves, pending]
    exact h.pending

/-- A zone takes inputs in an event from `u`, alike to `s`, and `t` is alike to what the event leaves: with what was posted before, the
notices of the event join the queue. -/
theorem zoneEvent_takes {s u t : State} (source : s.Alike u) (port : u.port = s.port) (z : ZoneIdx) (r : ZoneRec)
    (target : (zoneEvent z r u).1.Alike t) (before : List Notice)
    (posted : t.port.notices = (s.port.postAll (before ++ (zoneEvent z r u).2)).notices) :
    ZoneTakes s t z r r.greatest before := by
  have post {ns : List Notice} (h : before ++ (zoneEvent z r u).2 = ns) : Posts s t ns := by
    intro room
    rw [posted, h, Port.postAll_room _ _ room]
  have old : (u.zones.get z).effective = (s.zones.get z).effective := by rw [source.zones]
  by_cases same : r.greatest = (s.zones.get z).effective
  · have event := zoneEvent_kept (s := u) (same.trans old.symm)
    rw [event] at target post
    refine ⟨rfl, ?_, fun _ => ⟨target.exits.trans source.exits, target.engine.trans source.engine, post (List.append_nil _)⟩,
      fun other => absurd same other⟩
    rw [target.zones, if_pos same, source.zones]
  · obtain ⟨ns, notices, part⟩ := zoneEvent_changed (s := u) (z := z) (r := r) (fun h => same (h.trans old))
    have level : u.hazardAt z r.greatest = s.hazardAt z r.greatest := by
      funext e
      unfold State.hazardAt
      rw [source.active, source.exits]
    refine ⟨rfl, ?_, fun eq => absurd eq same, fun _ => ⟨?_, post ?_⟩⟩
    · rw [target.zones, part.move.leaves.zones, if_neg same, State.zoneFormed, source.zones, port]
    · have follows := part.follows.into target
      rw [level] at follows
      refine follows.from ?_ ?_ ?_ rfl
      · exact source.active.symm
      · exact (congrArg ExitUnit.exits source.exits).symm
      · exact (congrArg ExitUnit.lines source.exits).symm
    · rw [notices, part.notices, level]
      have clock : u.port.clock = s.port.clock := by rw [port]
      have exits : (u.zoneFormed z r).exitNotices (s.hazardAt z r.greatest) = s.exitNotices (s.hazardAt z r.greatest) := by
        refine Eq.trans ?_ (source.exitNotices clock _)
        rfl
      rw [exits, State.zoneNotice, State.notice, port, source.zones]
      rfl

end Machine
end Sys2Proof
end

/-!
The commands that set a zone's inputs or an exit's CONSOLE reason: SET_ZONE_LEVEL (R32, R33), ZONE_REPORT (R168 to R170) and
SET_EXIT_CLOSURE (R59, R60).
-/
section
namespace Sys2Proof
namespace Machine

/-! ## The first notice of an event -/

theorem Port.notices_prefix (p : Port) (ns : List Notice) : p.notices <+: (p.postAll ns).notices := by
  induction ns generalizing p with
  | nil => exact List.prefix_rfl
  | cons n ns ih =>
    rw [Port.postAll_cons]
    refine List.IsPrefix.trans ?_ (ih _)
    unfold Port.post
    split
    · exact List.prefix_append ..
    · exact List.prefix_rfl

/-- The first notice of an event stands at the end of a queue with room (R188). -/
theorem Port.postAll_first {p : Port} (room : p.notices.length < 64) (n : Notice) (ns : List Notice) :
    (p.postAll (n :: ns)).notices[p.notices.length]? = some n := by
  have joined : (p.post n).notices = p.notices ++ [n] := by
    rw [Port.post, if_pos (show p.notices.length < Config.noticeCapacity from room)]
  obtain ⟨more, h⟩ := (p.post n).notices_prefix ns
  rw [Port.postAll_cons, ← h, joined]
  simp

/-! ## A zone's event, whole -/

theorem zoneEvent_port (z : ZoneIdx) (r : ZoneRec) (s : State) : (zoneEvent z r s).1.port = s.port := by
  obtain ⟨_, move⟩ := zoneEvent_frame z r s
  exact move.port

/-- A changed effective level: what the event leaves of the other fields (R30). -/
theorem zoneEvent_changed_frame {z : ZoneIdx} {r : ZoneRec} {s : State} (h : r.greatest ≠ (s.zones.get z).effective) :
    (zoneEvent z r s).1 = { s with
      zones := s.zones.set z { r with effective := r.greatest, lastChange := s.port.clock }
      engine := { s.engine with changePending := true }
      exits := { s.exits with exits := (zoneEvent z r s).1.exits.exits, lines := (zoneEvent z r s).1.exits.lines } } := by
  obtain ⟨ns, -, part⟩ := zoneEvent_changed h
  obtain ⟨x, l, p, e⟩ := part.move
  have pending : (zoneEvent z r s).1.engine.changePending = true := part.follows.pending.2 (.inl rfl)
  rw [e] at pending ⊢
  obtain rfl : p = true := pending
  rfl

/-- What follows from a changed level: HAZARD of the exits in the zone, and of no other (R61). -/
theorem ZoneTakes.exits {s t : State} {z : ZoneIdx} {r : ZoneRec} {level : Level} {before : List Notice} (h : ZoneTakes s t z r level before)
    (changed : level ≠ (s.zones.get z).effective) :
    (∀ e, s.active.exits.has e = true → s.active.exitZone e = some z → (t.exits.exits.get e).reasons =
      { (s.exits.exits.get e).reasons with hazard := decide (s.active.params.tImp ≤ level.val) })
    ∧ ∀ e, s.active.exitZone e ≠ some z → t.exits.exits.get e = s.exits.exits.get e := by
  obtain ⟨follows, -⟩ := h.changed changed
  refine ⟨fun e defined inside => ?_, fun e outside => ?_⟩
  · exact (follows.reasons defined).trans (if_pos inside)
  · refine follows.unmoved fun moved => ?_
    rw [State.moves_iff, State.hazardAt, if_neg outside] at moved
    exact moved.2 rfl

/-! ## SET_ZONE_LEVEL -/

theorem execSetZoneLevel_asks {s : State} {z : ZoneIdx} {l : Level} (h : s.asks 0x0C [byte z.val, byte l.val]) :
    exec .setZoneLevel s = .next (
      if s.alarm.mode = .evacuate && l < (s.zones.get z).consoleLevel then s.respond .mode []
      else (s.takeConsoleLevel z l).respond .ok
        [byte ((s.takeConsoleLevel z l).zones.get z).consoleLevel.val, byte ((s.takeConsoleLevel z l).zones.get z).effective.val]) := by
  refine (exec_of_asks rfl h rfl rfl).trans ?_
  have zone : arg [byte z.val, byte l.val] 0 = z.val := byte_fin_toNat z (by decide)
  have level : arg [byte z.val, byte l.val] 1 = l.val := byte_fin_toNat l (by decide)
  have hz : arg [byte z.val, byte l.val] 0 < 48 := by rw [zone]; exact z.isLt
  have hl : arg [byte z.val, byte l.val] 1 < 8 := by rw [level]; exact l.isLt
  have sameZ : (⟨arg [byte z.val, byte l.val] 0, hz⟩ : ZoneIdx) = z := Fin.ext zone
  have sameL : (⟨arg [byte z.val, byte l.val] 1, hl⟩ : Level) = l := Fin.ext level
  rw [dif_pos hz, dif_pos hl]
  simp only [sameZ, sameL] <;> rfl

theorem State.Alike.refl (s : State) : s.Alike s := ⟨rfl, rfl, rfl, rfl, rfl, rfl⟩
theorem State.Alike.postAll (s : State) (ns : List Notice) : s.Alike (s.postAll ns) := ⟨rfl, rfl, rfl, rfl, rfl, rfl⟩
theorem State.Alike.answer (s : State) (ns : List Notice) (st : Status) (b : List Byte) : s.Alike ((s.postAll ns).respond st b) :=
  ⟨rfl, rfl, rfl, rfl, rfl, rfl⟩

/-- A whole event, and its answer, change the port alone of what the event leaves. -/
theorem State.answer_eq (s : State) (ns : List Notice) (st : Status) (b : List Byte) :
    (s.postAll ns).respond st b = { s with port := (s.port.postAll ns).hold { status := st, body := b } } := rfl

/-- Settles O17: the tests of R32 in their order, and a zone's event. -/
theorem zoneLevelIsSet : Obligations.ZoneLevelIsSet := by
  refine ⟨?_, ?_, ?_⟩
  · intro s zone level h bad
    refine (exec_of_asks rfl h rfl rfl).trans ?_
    by_cases hz : zone.toNat < 48
    · by_cases hl : level.toNat < 8
      · omega
      · rw [dif_pos (show arg [zone, level] 0 < 48 from hz), dif_neg (show ¬ arg [zone, level] 1 < 8 from hl)]
        rfl
    · rw [dif_neg (show ¬ arg [zone, level] 0 < 48 from hz)]
      rfl
  · intro s z l h evacuate lower
    rw [execSetZoneLevel_asks h, if_pos (by simp [evacuate, lower])]
    rfl
  · intro s z l old new h allowed hold hnew
    have runs : exec .setZoneLevel s = .next ((s.takeConsoleLevel z l).respond .ok
        [byte ((s.takeConsoleLevel z l).zones.get z).consoleLevel.val, byte ((s.takeConsoleLevel z l).zones.get z).effective.val]) := by
      rw [execSetZoneLevel_asks h, if_neg]
      simp only [Bool.and_eq_true, decide_eq_true_eq, not_and, not_lt]
      exact allowed
    generalize hr : ({ s.zones.get z with consoleLevel := l } : ZoneRec) = r
    have greatest : r.greatest = new := by rw [hnew, ← hr]; rfl
    have event : s.takeConsoleLevel z l = (zoneEvent z r).run s := by rw [← hr]; rfl
    refine ⟨fun same => ?_, fun differ => ?_⟩
    · have kept := zoneEvent_kept (s := s) (z := z) (r := r) (by rw [greatest, ← hold, same])
      have record : ({ r with effective := r.greatest, lastChange := (s.zones.get z).lastChange } : ZoneRec) = r := by
        rw [greatest, ← same, hold, ← hr]
      have left : s.takeConsoleLevel z l = { s with zones := s.zones.set z r } := by
        rw [event, Emit.run, kept, record]
        rfl
      rw [runs, left]
      simp only [Table.get_set_self]
      have level : r.effective = new := by rw [← same, hold, ← hr]
      rw [level, ← hr]
      rfl
    · have changed : r.greatest ≠ (s.zones.get z).effective := by rw [greatest, ← hold]; exact differ.symm
      have frame := zoneEvent_changed_frame changed
      have zones : (s.takeConsoleLevel z l).zones = s.zones.set z { r with effective := r.greatest, lastChange := s.port.clock } := by
        rw [event, Emit.run, State.postAll_zones, frame]
      have values : ((s.takeConsoleLevel z l).zones.get z).consoleLevel = l ∧ ((s.takeConsoleLevel z l).zones.get z).effective = new := by
        rw [zones, Table.get_set_self]
        exact ⟨by rw [← hr], greatest⟩
      rw [values.1, values.2] at runs
      obtain ⟨ns, notices, -⟩ := zoneEvent_changed changed
      have port : ((s.takeConsoleLevel z l).respond .ok [byte l.val, byte new.val]).port =
          (s.port.postAll (zoneEvent z r s).2).hold { status := .ok, body := [byte l.val, byte new.val] } := by
        rw [event, Emit.run, State.answer_eq, zoneEvent_port]
      have takes : ZoneTakes s ((s.takeConsoleLevel z l).respond .ok [byte l.val, byte new.val]) z r new [] := by
        rw [← greatest]
        refine zoneEvent_takes (.refl s) rfl z r ?_ [] ?_
        · rw [event]
          exact State.Alike.answer ..
        · rw [greatest, port]
          rfl
      obtain ⟨inside, outside⟩ := takes.exits (by rw [← greatest]; exact changed)
      refine ⟨_, runs, ?_, inside, outside, takes, ?_⟩
      · intro room
        rw [port, notices, hold, ← greatest]
        exact Port.postAll_first room _ ns
      · have posted := Posted.other (Posted.refl.postAll (zoneEvent z r s).2 ((zoneEvent_timely z r) s).2)
        rw [event, Emit.run, State.answer_eq, zoneEvent_port, frame, posted, greatest, ← hr]
        rfl

/-! ## ZONE_REPORT -/

theorem State.Alike.drop (s : State) (ns : List Notice) : s.Alike (s.postAll ns).dropFrame := ⟨rfl, rfl, rfl, rfl, rfl, rfl⟩

/-- Settles O34: a duplicate leaves the intake, and any other report is a zone's event under the accepted sequence. -/
theorem zoneReportIsTaken : Obligations.ZoneReportIsTaken := by
  intro s l seq z st rest handler intake
  have taken := State.taken_of_intake handler intake
  refine ⟨fun duplicate => ?_, fun panel old new fresh hpanel hold hnew => ?_⟩
  · have dup : s.isDuplicate seq = true := decide_eq_true duplicate
    have runs : exec .zoneReport s = .next s.dropFrame := by
      refine congrArg Host.Outcome.next ?_
      rw [taken]
      exact if_pos dup
    rw [runs, State.dropFrame_of_intake intake]
  · have dup : s.isDuplicate seq = false := decide_eq_false fresh
    generalize hr : ({ s.zones.get z with panelState := st, panelLevel := panel } : ZoneRec) = r
    have report : takeReport z st (s.accept seq) = zoneEvent z r (s.accept seq) := by
      rw [takeReport_eq, ← hr, hpanel]
      refine congrArg (fun r => zoneEvent z r (s.accept seq)) ?_
      cases st <;> rfl
    have runs : exec .zoneReport s =
        .next ((zoneEvent z r (s.accept seq)).1.postAll (zoneEvent z r (s.accept seq)).2).dropFrame := by
      refine congrArg Host.Outcome.next ?_
      rw [taken, ← report]
      exact if_neg (by rw [dup]; exact Bool.false_ne_true)
    have greatest : r.greatest = new := by rw [hnew, ← hr]; rfl
    have takes : ZoneTakes s ((zoneEvent z r (s.accept seq)).1.postAll (zoneEvent z r (s.accept seq)).2).dropFrame z r new [] := by
      rw [← greatest]
      refine zoneEvent_takes (s := s) (u := s.accept seq) ⟨rfl, rfl, rfl, rfl, rfl, rfl⟩ rfl z r (State.Alike.drop ..) [] ?_
      rw [State.dropFrame_port, State.postAll_port, zoneEvent_port]
      rfl
    refine ⟨_, runs, ?_, ?_, ?_, ?_, takes, ?_⟩
    · rw [takes.zones, ← hr, hold]
      simp only [eq_comm]
    · intro same
      have kept := takes.kept (by rw [← same, hold])
      refine ⟨kept.1, kept.2.1, ?_⟩
      have silent := zoneEvent_kept (s := s.accept seq) (z := z) (r := r) (by rw [greatest, ← same, hold]; rfl)
      rw [silent]
      rfl
    · intro differ
      have changed : new ≠ (s.zones.get z).effective := by rw [← hold]; exact differ.symm
      obtain ⟨follows, -⟩ := takes.changed changed
      refine ⟨follows.pending.2 (.inl rfl), fun room => ?_, (takes.exits changed).1⟩
      obtain ⟨ns, notices, -⟩ := zoneEvent_changed (s := s.accept seq) (z := z) (r := r) (by rw [greatest]; exact changed)
      rw [State.dropFrame_port, State.postAll_port, zoneEvent_port, notices, greatest, hold]
      exact Port.postAll_first (p := s.port) room _ ns
    · intro e outside
      by_cases same : new = (s.zones.get z).effective
      · rw [(takes.kept same).1]
      · exact (takes.exits same).2 e outside
    · obtain ⟨x, _, _, _, e⟩ := zoneEvent_frame z r (s.accept seq)
      have posted := Posted.other (Posted.refl.postAll (zoneEvent z r (s.accept seq)).2 ((zoneEvent_timely z r) (s.accept seq)).2)
      generalize (zoneEvent z r (s.accept seq)).2 = ns at posted ⊢
      have left : (((zoneEvent z r (s.accept seq)).1).postAll ns).alarm.intake =
          { line := l, seq := seq, body := .zoneReport z st } :: rest := by
        rw [State.postAll_alarm, e]
        exact intake
      rw [State.dropFrame_of_intake left, e]
      dsimp only [State.accept, State.postAll] at posted ⊢
      rw [← posted]

/-! ## SET_EXIT_CLOSURE -/

theorem execSetExitClosure_asks {s : State} {e : ExitIdx} {close : Bool} (h : s.asks 0x0D [byte e.val, if close then 1 else 0])
    (defined : s.active.exits.has e = true) : exec .setExitClosure s = .next (
      if close && s.alarm.mode = .evacuate then s.respond .mode []
      else (s.takeClosure e close).respond .ok [(s.takeClosure e close).exitCode e]) := by
  refine (exec_of_asks rfl h rfl rfl).trans ?_
  have exit : arg [byte e.val, if close then 1 else 0] 0 = e.val := byte_fin_toNat e (by decide)
  have action : arg [byte e.val, if close then 1 else 0] 1 = if close then 1 else 0 := by cases close <;> rfl
  have inRange : arg [byte e.val, if close then 1 else 0] 0 < 24 := by rw [exit]; exact e.isLt
  have same : (⟨arg [byte e.val, if close then 1 else 0] 0, inRange⟩ : ExitIdx) = e := Fin.ext exit
  rw [dif_pos inRange]
  simp only [same, action, defined]
  cases close <;> simp

/-- Settles O18: the tests of R60 in their order, and one reason set taken. -/
theorem exitClosureIsSet : Obligations.ExitClosureIsSet := by
  refine ⟨?_, ?_, ?_⟩
  · intro s exit action h bad
    refine (exec_of_asks rfl h rfl rfl).trans ?_
    by_cases inRange : exit.toNat < 24
    · rw [dif_pos (show arg [exit, action] 0 < 24 from inRange)]
      dsimp only
      rw [if_neg]
      · rfl
      · rw [Bool.and_eq_true, decide_eq_true_eq]
        rintro ⟨known, defined⟩
        rcases bad with high | high | ⟨e, named, undefined⟩
        · omega
        · exact absurd (show action.toNat ≤ 1 from known) (by omega)
        · rw [show (⟨arg [exit, action] 0, inRange⟩ : ExitIdx) = e from Fin.ext named.symm, undefined] at defined
          cases defined
    · rw [dif_neg (show ¬ arg [exit, action] 0 < 24 from inRange)]
      rfl
  · intro s e h defined evacuate
    rw [execSetExitClosure_asks (close := true) h defined, if_pos (by rw [evacuate]; rfl)]
    rfl
  · intro s e close r h defined allowed hr
    have runs : exec .setExitClosure s = .next ((s.takeClosure e close).respond .ok [(s.takeClosure e close).exitCode e]) := by
      rw [execSetExitClosure_asks h defined, if_neg]
      rw [Bool.and_eq_true, decide_eq_true_eq]
      rintro ⟨closing, evacuate⟩
      rw [allowed closing] at evacuate
      cases evacuate
    have taken : s.takeClosure e close = (setReasons e r).run s := by rw [hr]; rfl
    refine ⟨fun same => ?_, fun differ => ?_⟩
    · have still : setReasons e r s = (s, []) := if_neg (by simp [same])
      rw [runs, taken, Emit.run, still]
      rfl
    · have moved : setReasons e r s =
          (({ s with exits := { s.exits with exits := s.exits.exits.set e (s.exitRecord e r) } } : State).setPending.drive (OutputSource.names e),
            [s.exitNotice e (s.exitRecord e r)]) := if_pos (by simp [defined, differ])
      have lines := ({ s with exits := { s.exits with exits := s.exits.exits.set e (s.exitRecord e r) } } : State).setPending.drive_follows
        (OutputSource.names e)
      rw [taken, Emit.run, moved] at runs
      generalize driven : ({ s with exits := { s.exits with exits := s.exits.exits.set e (s.exitRecord e r) } } : State).setPending.drive
        (OutputSource.names e) = m at runs lines
      have frame : m = { s with
          engine := { s.engine with changePending := true }
          exits := { s.exits with exits := s.exits.exits.set e (s.exitRecord e r), lines := m.exits.lines } } := by
        rw [← driven]
        rfl
      have alike := State.Alike.answer m [s.exitNotice e (s.exitRecord e r)] .ok
        [(m.postAll [s.exitNotice e (s.exitRecord e r)]).exitCode e]
      have port : ((m.postAll [s.exitNotice e (s.exitRecord e r)]).respond .ok
          [(m.postAll [s.exitNotice e (s.exitRecord e r)]).exitCode e]).port =
          (s.port.postAll [s.exitNotice e (s.exitRecord e r)]).hold
            { status := .ok, body := [(m.postAll [s.exitNotice e (s.exitRecord e r)]).exitCode e] } := by
        rw [State.answer_eq, frame]
      refine ⟨_, runs, ?_, ?_, ?_, ?_, ?_, ?_⟩
      · rw [alike.exits, frame]
        rfl
      · intro l src ha named d hd
        rw [alike.exits, lines.shown l src d ha hd named, alike.sourceTrue named]
      · intro l unnamed
        rw [alike.exits]
        by_cases output : ∃ src, s.active.lines.get l = .output src
        · obtain ⟨src, ha⟩ := output
          exact lines.held l src ha (by rw [unnamed src ha]; exact Bool.false_ne_true)
        · exact lines.unnamed l fun src ha => output ⟨src, ha⟩
      · intro l v start hs
        rw [alike.exits]
        exact lines.inputs l v start hs
      · intro room
        rw [port]
        exact Port.postAll_one room _
      · have posted := Posted.other (Posted.refl.postAll (p := s.port) [s.exitNotice e (s.exitRecord e r)] (by simp [State.exitNotice, State.notice]))
        rw [State.answer_eq, frame, posted]
        rfl

end Machine
end Sys2Proof
end

/-!
BEAM_SAMPLE: the history, the evaluation, the movement of the level, and the zone that follows (R41 to R51).
-/
section
namespace Sys2Proof
namespace Machine

/-! ## The sample and its evaluation -/

/-- The history after a sample: the last three readings and the new one (R41). -/
theorem pushReading_eq {history : List Nat} (h : history.length ≤ 4) (r : Nat) :
    pushReading history r = history.drop (history.length - 3) ++ [r] := by
  unfold pushReading
  split
  · have : history.length - 3 = 1 := by omega
    rw [this]
  · have : history.length - 3 = 0 := by omega
    rw [this, List.drop_zero]

theorem BeamRec.evaluated_readings (b : BeamRec) (c : BeamCfg) (now : Ticks) (o : BeamOutcome) :
    (b.evaluated c now o).history = b.history ∧ (b.evaluated c now o).working = b.working
    ∧ (b.evaluated c now o).corrected = b.corrected := by
  cases o <;> exact ⟨rfl, rfl, rfl⟩

/-- A sample that is evaluated (R41, R51). -/
theorem State.sampleBeam_evaluated {s : State} {ch : BeamIdx} {r v : Nat}
    (due : s.evaluates ((s.beams.get ch).sampled (s.active.beams.get ch) r) = true)
    (corrected : ((s.beams.get ch).sampled (s.active.beams.get ch) r).corrected = some v) :
    s.sampleBeam ch r = ((s.beams.get ch).sampled (s.active.beams.get ch) r).evaluated (s.active.beams.get ch) s.port.clock
      ((s.active.beams.get ch).evaluate v (s.zones.get (s.active.beams.get ch).zone).effective (s.beams.get ch).level) := by
  unfold State.sampleBeam
  simp only [due, corrected]
  rfl

/-- A sample that is not (R51; log entry 12). -/
theorem State.sampleBeam_held {s : State} {ch : BeamIdx} {r : Nat}
    (h : s.evaluates ((s.beams.get ch).sampled (s.active.beams.get ch) r) = false
      ∨ ((s.beams.get ch).sampled (s.active.beams.get ch) r).corrected = none) :
    s.sampleBeam ch r = (s.beams.get ch).sampled (s.active.beams.get ch) r := by
  unfold State.sampleBeam
  dsimp only
  split
  · rename_i due corrected
    rcases h with h | h
    · rw [h] at due
      cases due
    · rw [h] at corrected
      cases corrected
  · rfl

/-- The readings a sample leaves (R41), evaluated or not. -/
theorem State.sampleBeam_readings (s : State) (ch : BeamIdx) (r : Nat) :
    (s.sampleBeam ch r).history = pushReading (s.beams.get ch).history r
    ∧ (s.sampleBeam ch r).working = workingValue (pushReading (s.beams.get ch).history r)
    ∧ (s.sampleBeam ch r).corrected =
      (workingValue (pushReading (s.beams.get ch).history r)).map fun w => w - (s.active.beams.get ch).offset := by
  unfold State.sampleBeam
  dsimp only
  split
  · obtain ⟨history, working, corrected⟩ := BeamRec.evaluated_readings ((s.beams.get ch).sampled (s.active.beams.get ch) r)
      (s.active.beams.get ch) s.port.clock ((s.active.beams.get ch).evaluate _
        (s.zones.get (s.active.beams.get ch).zone).effective ((s.beams.get ch).sampled (s.active.beams.get ch) r).level)
    exact ⟨history, working, corrected⟩
  · exact ⟨rfl, rfl, rfl⟩

/-- The state an evaluation gives (R42 to R45). -/
theorem BeamRec.evaluated_state (b : BeamRec) (c : BeamCfg) (now : Ticks) (v : Nat) (zone own : Level) :
    (b.evaluated c now (c.evaluate v zone own)).state =
      if c.reference + c.reference / 4 < v then .overRange
      else if min 256 (v * 256 / c.reference) < c.rb ∧ zone.val < 2 ∧ own.val < 2 then .blocked
      else .measuring := by
  unfold BeamCfg.evaluate BeamCfg.limit BeamCfg.ratio
  by_cases high : c.reference + c.reference / 4 < v
  · rw [if_pos high, if_pos high]
    rfl
  · rw [if_neg high, if_neg high]
    by_cases dark : min 256 (v * 256 / c.reference) < c.rb
    · rw [if_pos dark]
      by_cases fire : 2 ≤ zone.val ∨ 2 ≤ own.val
      · rw [if_pos (by simpa using fire), if_neg (by omega)]
        rfl
      · rw [if_neg (by simpa using fire), if_pos (by omega)]
        rfl
    · rw [if_neg dark, if_neg (fun h => dark h.1)]
      rfl

/-- The target of a channel that measures (R44, R45). -/
def BeamCfg.target (c : BeamCfg) (v : Nat) : Level :=
  if min 256 (v * 256 / c.reference) < c.rb then c.l3
  else if c.o3 ≤ 256 - min 256 (v * 256 / c.reference) then c.l3
  else if c.o2 ≤ 256 - min 256 (v * 256 / c.reference) then c.l2
  else if c.o1 ≤ 256 - min 256 (v * 256 / c.reference) then c.l1
  else 0

/-- Each outcome of an evaluation: the level held, or moved toward the target (R42 to R49). -/
theorem BeamRec.evaluated_cases (b : BeamRec) (c : BeamCfg) (now : Ticks) (v : Nat) (zone own : Level) {new : BeamRec}
    (h : b.evaluated c now (c.evaluate v zone own) = new) :
    new.warmStart = none
    ∧ (new.state ≠ .measuring → new.level = b.level ∧ new.decay = none)
    ∧ (new.state = .measuring → (new.level, new.decay) = moveLevel b.level (c.target v) b.decay (100 * c.decayHold) now) := by
  subst h
  have moved (target : Level) (ht : target = c.target v) :
      ((b.evaluated c now (.measuring target)).level, (b.evaluated c now (.measuring target)).decay)
        = moveLevel b.level (c.target v) b.decay (100 * c.decayHold) now := by
    rw [← ht, Nat.mul_comm]
    rfl
  unfold BeamCfg.evaluate BeamCfg.ratio
  split
  · exact ⟨rfl, fun _ => ⟨rfl, rfl⟩, fun m => nomatch m⟩
  · dsimp only
    split
    · rename_i dark
      split
      · exact ⟨rfl, fun m => absurd rfl m, fun _ => moved _ (if_pos dark).symm⟩
      · exact ⟨rfl, fun _ => ⟨rfl, rfl⟩, fun m => nomatch m⟩
    · rename_i clear
      exact ⟨rfl, fun m => absurd rfl m, fun _ => moved _ (if_neg clear).symm⟩

/-! ## The movement of the level (R48, R49) -/

theorem moveLevel_up {level target : Level} (h : level ≤ target) (decay : Option DecayHold) (hold : Nat) (now : Ticks) :
    moveLevel level target decay hold now = (target, none) := by
  unfold moveLevel
  by_cases less : level < target
  · rw [if_pos less]
  · have same : target = level := le_antisymm (not_lt.1 less) h
    rw [if_neg less, if_pos same, same]

/-- A fall of the target starts a hold where none runs, and restarts one on a rise below the level (R49). -/
theorem moveLevel_starts {level target : Level} (h : target < level) {decay : Option DecayHold}
    (starts : decay = none ∨ ∃ d, decay = some d ∧ d.lastTarget < target) (hold : Nat) (now : Ticks) :
    moveLevel level target decay hold now = (level, some { start := now, lastTarget := target }) := by
  unfold moveLevel
  rw [if_neg (not_lt.2 h.le), if_neg h.ne]
  rcases starts with none | ⟨d, some, rises⟩
  · rw [none]
  · rw [some]
    exact if_pos rises

/-- A hold that runs keeps running, and at its end the level falls by one step (R49). -/
theorem moveLevel_holds {level target : Level} (h : target < level) {d : DecayHold} (falls : target ≤ d.lastTarget) (hold : Nat) (now : Ticks) :
    moveLevel level target (some d) hold now =
      if (now - d.start).toNat < hold then (level, some { start := d.start, lastTarget := target })
      else (lower level, if target < lower level then some { start := now, lastTarget := target } else none) := by
  unfold moveLevel
  rw [if_neg (not_lt.2 h.le), if_neg h.ne]
  exact if_neg (not_lt.2 falls)

theorem lower_val {level target : Level} (h : target < level) : (lower level).val + 1 = level.val ∧ target ≤ lower level := by
  have : target.val < level.val := h
  refine ⟨?_, ?_⟩
  · show level.val - 1 + 1 = level.val
    omega
  · show target.val ≤ level.val - 1
    omega

/-- A level above the target stays or falls by one step, not below the target (R48). -/
theorem moveLevel_down {level target : Level} (h : target < level) (decay : Option DecayHold) (hold : Nat) (now : Ticks) :
    target ≤ (moveLevel level target decay hold now).1
    ∧ ((moveLevel level target decay hold now).1 = level ∨ (moveLevel level target decay hold now).1.val + 1 = level.val) := by
  by_cases starts : decay = none ∨ ∃ d, decay = some d ∧ d.lastTarget < target
  · rw [moveLevel_starts h starts]
    exact ⟨h.le, .inl rfl⟩
  · cases decay with
    | none => exact absurd (.inl rfl) starts
    | some d =>
      have falls : target ≤ d.lastTarget := not_lt.1 fun rises => starts (.inr ⟨d, rfl, rises⟩)
      rw [moveLevel_holds h falls]
      split
      · exact ⟨h.le, .inl rfl⟩
      · exact ⟨(lower_val h).2, .inr (lower_val h).1⟩

/-! ## The values of the record -/

/-- What the record of a sampled channel says once its history is full (R42 to R51). -/
theorem State.sampleBeam_full {s : State} {ch : BeamIdx} {r : Nat} {b new : BeamRec} {cfg : BeamCfg} (hb : b = s.beams.get ch)
    (hcfg : cfg = s.active.beams.get ch) (hnew : new = s.sampleBeam ch r) (enabled : b.state ≠ .disabled)
    (full : (pushReading b.history r).length = 4) {v : Nat} (hv : v = (pushReading b.history r).sum / 4 - cfg.offset) :
    new.corrected = some v
    ∧ ((∃ w, b.state = .warming ∧ b.warmStart = some w ∧ (s.port.clock - w).toNat < 1000) → new.state = .warming ∧ new.level = b.level)
    ∧ ((b.state = .warming → ∃ w, b.warmStart = some w ∧ 1000 ≤ (s.port.clock - w).toNat) →
      new.state = (if cfg.reference + cfg.reference / 4 < v then .overRange
        else if min 256 (v * 256 / cfg.reference) < cfg.rb ∧ (s.zones.get cfg.zone).effective.val < 2 ∧ b.level.val < 2 then .blocked
        else .measuring)
      ∧ (new.state ≠ .measuring → new.level = b.level ∧ new.decay = none)
      ∧ new.warmStart = none
      ∧ (new.state = .measuring →
        (new.level, new.decay) = moveLevel b.level (cfg.target v) b.decay (100 * cfg.decayHold) s.port.clock)) := by
  subst hb hcfg
  have corrected : ((s.beams.get ch).sampled (s.active.beams.get ch) r).corrected = some v := by
    show (workingValue (pushReading (s.beams.get ch).history r)).map _ = _
    rw [workingValue, if_pos full, Option.map_some, hv]
  refine ⟨?_, ?_, ?_⟩
  · rw [hnew, (s.sampleBeam_readings ch r).2.2, workingValue, if_pos full, Option.map_some, hv]
  · rintro ⟨w, warming, start, early⟩
    have held : s.evaluates ((s.beams.get ch).sampled (s.active.beams.get ch) r) = false := by
      have sampled : ((s.beams.get ch).sampled (s.active.beams.get ch) r).state = .warming := warming
      have started : ((s.beams.get ch).sampled (s.active.beams.get ch) r).warmStart = some w := start
      unfold State.evaluates
      rw [sampled, started]
      exact decide_eq_false (Nat.not_le.2 early)
    rw [hnew, State.sampleBeam_held (.inl held)]
    exact ⟨warming, rfl⟩
  · intro warmed
    have due : s.evaluates ((s.beams.get ch).sampled (s.active.beams.get ch) r) = true := by
      have sampled : ((s.beams.get ch).sampled (s.active.beams.get ch) r).state = (s.beams.get ch).state := rfl
      unfold State.evaluates
      rw [sampled]
      cases state : (s.beams.get ch).state with
      | disabled => exact absurd state enabled
      | warming =>
        obtain ⟨w, start, late⟩ := warmed state
        have started : ((s.beams.get ch).sampled (s.active.beams.get ch) r).warmStart = some w := start
        dsimp only
        rw [started]
        exact decide_eq_true late
      | measuring => rfl
      | blocked => rfl
      | overRange => rfl
    have evaluated := State.sampleBeam_evaluated due corrected
    rw [← hnew] at evaluated
    obtain ⟨warm, held, moved⟩ := BeamRec.evaluated_cases _ _ _ _ _ _ evaluated.symm
    refine ⟨?_, held, warm, moved⟩
    rw [evaluated]
    exact BeamRec.evaluated_state ..

/-- A sample without four readings leaves state and level (log entry 12). -/
theorem State.sampleBeam_short {s : State} {ch : BeamIdx} {r : Nat} (h : (pushReading (s.beams.get ch).history r).length < 4) :
    (s.sampleBeam ch r).state = (s.beams.get ch).state ∧ (s.sampleBeam ch r).level = (s.beams.get ch).level := by
  have corrected : ((s.beams.get ch).sampled (s.active.beams.get ch) r).corrected = none := by
    show (workingValue (pushReading (s.beams.get ch).history r)).map _ = _
    rw [workingValue, if_neg (Nat.ne_of_lt h)]
    rfl
  rw [State.sampleBeam_held (.inr corrected)]
  exact ⟨rfl, rfl⟩

/-! ## The event -/

/-- The notices a channel's new record posts ahead of its zone's (R50). -/
def State.beamNotices (s : State) (ch : BeamIdx) (b : BeamRec) : List Notice :=
  if b.state = (s.beams.get ch).state then [] else [s.beamNotice ch (s.beams.get ch).state b.state]

/-- The inputs of a channel's zone with its beam level formed anew (R28). -/
def State.beamZone (s : State) (ch : BeamIdx) : ZoneRec :=
  { s.zones.get (s.active.beams.get ch).zone with beamLevel := s.beamLevel (s.active.beams.get ch).zone }

theorem beamEvent_quiet {ch : BeamIdx} {b : BeamRec} {s : State} (h : b.contribution = (s.beams.get ch).contribution) :
    beamEvent ch b s = ({ s with beams := s.beams.set ch b }, s.beamNotices ch b) := if_pos h

theorem beamEvent_zone {ch : BeamIdx} {b : BeamRec} {s u : State} (h : b.contribution ≠ (s.beams.get ch).contribution)
    (hu : u = { s with beams := s.beams.set ch b }) : beamEvent ch b s =
      ((zoneEvent (s.active.beams.get ch).zone (u.beamZone ch) u).1,
        s.beamNotices ch b ++ (zoneEvent (s.active.beams.get ch).zone (u.beamZone ch) u).2) := by
  subst hu
  exact if_neg h

/-- What a channel's new record does to its zone, its exits and the port (R28, R50, R61). -/
structure BeamTakes (s t : State) (ch : BeamIdx) (b : BeamRec) : Prop where
  beams : t.beams = s.beams.set ch b
  quiet : b.contribution = (s.beams.get ch).contribution →
    t.zones = s.zones ∧ t.exits = s.exits ∧ t.engine = s.engine ∧ Posts s t (s.beamNotices ch b)
  zone : b.contribution ≠ (s.beams.get ch).contribution →
    ZoneTakes s t (s.active.beams.get ch).zone
      { s.zones.get (s.active.beams.get ch).zone with beamLevel := t.beamLevel (s.active.beams.get ch).zone }
      (t.zones.get (s.active.beams.get ch).zone).effective (s.beamNotices ch b)
  first : b.state ≠ (s.beams.get ch).state → s.port.notices.length < 64 →
    t.port.notices[s.port.notices.length]? = some (s.beamNotice ch (s.beams.get ch).state b.state)
  frame : t = { s with
    beams := t.beams, zones := t.zones
    exits := { s.exits with exits := t.exits.exits, lines := t.exits.lines }
    engine := { s.engine with changePending := t.engine.changePending }
    port := { s.port with notices := t.port.notices, flags := t.port.flags, snapshot := t.port.snapshot } }

theorem beamEvent_takes (ch : BeamIdx) (b : BeamRec) (s : State) : BeamTakes s ((beamEvent ch b).run s) ch b := by
  obtain ⟨zs, move⟩ := beamEvent_frame ch b s
  have leaves := move.leaves
  have beams : ((beamEvent ch b).run s).beams = s.beams.set ch b := leaves.beams
  have port : ((beamEvent ch b).run s).port = s.port.postAll (beamEvent ch b s).2 := by
    rw [Emit.run_port, leaves.port]
  have ahead : ∃ ns, (beamEvent ch b s).2 = s.beamNotices ch b ++ ns := by
    by_cases quiet : b.contribution = (s.beams.get ch).contribution
    · exact ⟨[], by rw [beamEvent_quiet quiet, List.append_nil]⟩
    · exact ⟨_, by rw [beamEvent_zone quiet rfl]⟩
  refine ⟨beams, fun quiet => ?_, fun loud => ?_, fun other room => ?_, ?_⟩
  · have event := beamEvent_quiet quiet
    unfold Emit.run
    rw [event]
    exact ⟨rfl, rfl, rfl, fun room => by rw [State.postAll_port, Port.postAll_room _ _ room]⟩
  · obtain ⟨u, hu⟩ : ∃ u, u = ({ s with beams := s.beams.set ch b } : State) := ⟨_, rfl⟩
    have event := beamEvent_zone loud hu
    have source : s.Alike u := by rw [hu]; exact ⟨rfl, rfl, rfl, rfl, rfl, rfl⟩
    have same : u.port = s.port := by rw [hu]
    have target : (zoneEvent (s.active.beams.get ch).zone (u.beamZone ch) u).1.Alike ((beamEvent ch b).run s) := by
      unfold Emit.run
      rw [event]
      exact State.Alike.postAll ..
    have takes := zoneEvent_takes source same (s.active.beams.get ch).zone (u.beamZone ch) target (s.beamNotices ch b)
      (by rw [port, event])
    have level : ((beamEvent ch b).run s).beamLevel (s.active.beams.get ch).zone = u.beamLevel (s.active.beams.get ch).zone := by
      refine State.beamLevel_of_beams ?_ (by rw [beams, hu]) _
      rw [source.active]
      exact leaves.active
    have inputs : u.beamZone ch = { s.zones.get (s.active.beams.get ch).zone with
        beamLevel := ((beamEvent ch b).run s).beamLevel (s.active.beams.get ch).zone } := by
      rw [level, State.beamZone, source.active, source.zones]
    have effective : (((beamEvent ch b).run s).zones.get (s.active.beams.get ch).zone).effective = (u.beamZone ch).greatest := by
      rw [takes.zones, Table.get_set_self]
    rw [effective, ← inputs]
    exact takes
  · obtain ⟨ns, notices⟩ := ahead
    rw [port, notices, State.beamNotices, if_neg other]
    exact Port.postAll_first room _ ns
  · have posted := Posted.other ((beamEvent_timely ch b).run s)
    obtain ⟨_, _, _, e⟩ := move
    have whole := Emit.run_of_eq e
    rw [← posted, whole]

/-- Settles O24: the readings, the evaluation and the level of the channel, and what its zone takes. -/
theorem beamIsSampled : Obligations.BeamIsSampled := by
  refine ⟨fun s ch r disabled => congrArg Host.Outcome.next (if_pos disabled), ?_⟩
  intro s ch r b cfg h hb hcfg enabled hh short
  rw [← pushReading_eq short] at hh
  have runs : exec (.beamSample ch r) s = .next ((beamEvent ch (s.sampleBeam ch r.val)).run s) :=
    congrArg Host.Outcome.next (if_neg (hb ▸ enabled))
  obtain ⟨beams, quiet, zone, first, frame⟩ := beamEvent_takes ch (s.sampleBeam ch r.val) s
  obtain ⟨history, working, -⟩ := s.sampleBeam_readings ch r.val
  have brief := State.sampleBeam_short (s := s) (ch := ch) (r := r.val)
  have whole (v : Nat) := State.sampleBeam_full (v := v) hb hcfg rfl enabled (r := r.val)
  unfold State.beamNotices at quiet zone
  refine ⟨_, runs, ?_⟩
  rw [← hb] at history working brief quiet zone first
  rw [← hcfg] at zone
  rw [← hh] at history working brief whole
  generalize s.sampleBeam ch r.val = new at *
  generalize (beamEvent ch new).run s = t at *
  have own : t.beams.get ch = new := by rw [beams, Table.get_set_self]
  rw [own]
  refine ⟨history, working, ?_, brief, ?_, ?_, ?_, ?_, ?_, ?_, frame⟩
  · intro c other
    rw [beams, Table.get_set_ne _ _ other]
  · intro v full hv
    obtain ⟨corrected, warming, warmed⟩ := whole v full hv
    refine ⟨corrected, warming, fun started => ?_⟩
    obtain ⟨state, held, warm, moved⟩ := warmed started
    refine ⟨state, held, warm, fun target measuring htarget => ?_⟩
    have level := moved measuring
    rw [show cfg.target v = target from htarget.symm, Prod.mk.injEq] at level
    obtain ⟨hlevel, hdecay⟩ := level
    refine ⟨fun up => ?_, fun down => ?_, fun down starts => ?_, fun d down running falls => ?_⟩
    · rw [hlevel, hdecay, moveLevel_up up]
      exact ⟨rfl, rfl⟩
    · rw [hlevel]
      exact moveLevel_down down ..
    · rw [hlevel, hdecay, moveLevel_starts down starts]
      exact ⟨rfl, rfl⟩
    · rw [hlevel, hdecay, running, moveLevel_holds down falls]
      refine ⟨fun early => ?_, fun late => ?_⟩
      · rw [if_pos early]
        exact ⟨rfl, rfl⟩
      · rw [if_neg (Nat.not_lt.2 late)]
        exact ⟨(lower_val down).1, rfl⟩
  · exact fun same => (quiet same).1
  · intro differ
    have takes := zone differ
    refine ⟨?_, takes.greatest⟩
    rw [takes.zones, Table.get_set_self]
  · intro differ room
    exact first differ room
  · intro z other
    by_cases same : new.contribution = b.contribution
    · rw [(quiet same).1]
    · rw [(zone same).zones, Table.get_set_ne _ _ other]
  · rintro posted rfl
    exact ⟨fun same => (quiet same).2, zone⟩

end Machine
end Sys2Proof
end

/-!
The events of the discrete lines, the door grace and a passage that goes STALE (R62 to R65, R155).
-/
section
namespace Sys2Proof
namespace Machine

/-! ## A part of an event, run whole -/

/-- What a whole event does whose one part, from `m`, moves exits: the exits follow, and what is posted is theirs behind `before`. -/
structure ExitEvent (m t : State) (before : List Notice) (new : ExitIdx → ReasonSet) : Prop where
  follows : ExitsFollow m t new (fun _ => False)
  port : t.port = m.port.postAll (before ++ m.exitNotices new)
  frame : t = { m with
    exits := { m.exits with exits := t.exits.exits, lines := t.exits.lines }
    engine := { m.engine with changePending := t.engine.changePending }
    port := { m.port with notices := t.port.notices, flags := t.port.flags, snapshot := t.port.snapshot } }

theorem ExitPart.run {m u : State} {ns : List Notice} {new : ExitIdx → ReasonSet} (h : ExitPart m u ns new) (before : List Notice)
    (timely : ∀ n ∈ before ++ ns, n.time = m.port.clock) : ExitEvent m (u.postAll (before ++ ns)) before new := by
  obtain ⟨move, follows, notices⟩ := h
  have posted := Posted.other (Posted.refl.postAll _ timely)
  refine ⟨follows.into (.postAll ..), ?_, ?_⟩
  · rw [State.postAll_port, move.leaves.port, notices]
  · rw [State.postAll_port, move.leaves.port, ← posted]
    obtain ⟨_, _, _, rfl⟩ := move
    rfl

theorem ExitEvent.posts {m t : State} {before : List Notice} {new : ExitIdx → ReasonSet} (h : ExitEvent m t before new) :
    Posts m t (before ++ m.exitNotices new) := fun room => by
  rw [h.port, Port.postAll_room _ _ room]

/-- The lines that are no OUTPUT stay in an event of the exits. -/
theorem ExitEvent.doorHolds {m t : State} {before : List Notice} {new : ExitIdx → ReasonSet} (h : ExitEvent m t before new) (e : ExitIdx) :
    t.doorHolds e = m.doorHolds e := by
  refine State.doorHolds_congr ?_ ?_ ?_ e
  · rw [h.frame]
    rfl
  · rw [h.frame]
  · exact fun l door => h.follows.lines.unnamed l fun src => by rw [door]; nofun

/-- An event from a state that differs from `s` in nothing the exits' following reads. -/
theorem ExitEvent.from {s m t : State} {before : List Notice} {new : ExitIdx → ReasonSet} (h : ExitEvent m t before new)
    (active : m.active = s.active) (exits : m.exits.exits = s.exits.exits) (lines : m.exits.lines = s.exits.lines)
    (pending : m.engine.changePending = s.engine.changePending) (port : m.port = s.port) :
    ExitsFollow s t new (fun _ => False) ∧ Posts s t (before ++ s.exitNotices new) := by
  refine ⟨h.follows.from active.symm exits.symm lines.symm pending.symm, ?_⟩
  have posts := h.posts
  have notices : m.exitNotices new = s.exitNotices new := by
    unfold State.exitNotices State.notice State.moves
    rw [port, active, exits]
  rw [notices] at posts
  intro room
  rw [← port]
  exact posts (by rw [port]; exact room)

/-! ## Discrete lines -/

theorem LineRec.pinChange_eq (r : LineRec) (active : Bool) (now : Ticks) : r.pinChange active now =
    match r with
    | .output d => .output d
    | .input v start => if active = v then .input v none else .input v (some (start.getD now)) := by
  cases r with
  | output d => rfl
  | input v start => cases start <;> rfl

/-- The DOOR reason of an exit whose door line has been handed over (R65). -/
theorem State.doorHolds_handed {s : State} {e : ExitIdx} {l : LineIdx} (named : s.active.doorLineOf e l = true) {v : Bool} {start : Option Ticks}
    (line : s.exits.lines.get l = .input v start) : s.doorHolds e = (decide (s.exits.grace = .elapsed) && !v) := by
  have own := named
  unfold Layout.doorLineOf at own
  unfold State.doorHolds
  split at own
  · cases own
  · rename_i x hx
    simp only [Bool.and_eq_true, decide_eq_true_eq] at own
    simp only [own.1.2]
    rw [named, line, Bool.true_and]

theorem execDebounceExpiry_runs {s : State} {l : LineIdx} {v : Bool} {start : Ticks} (line : s.exits.lines.get l = .input v (some start))
    (passed : 50 ≤ (s.port.clock - start).toNat) :
    exec (.debounceExpiry l) s = .next ((deriveDoorsOf l).run (s.setLineRec l (.input (s.exits.pins.get l) none))) := by
  refine congrArg Host.Outcome.next ?_
  rw [line]
  exact if_pos (decide_eq_true passed)

theorem execDoorGraceExpiry_runs {s : State} {start : Ticks} (grace : s.exits.grace = .running start)
    (passed : s.active.params.doorGrace * 100 ≤ (s.port.clock - start).toNat) :
    exec .doorGraceExpiry s = .next (enterElapsed.run s) := by
  refine congrArg Host.Outcome.next ?_
  rw [grace]
  exact if_pos (decide_eq_true passed)

/-- The record of an exit that takes the reason set of a derivation. -/
theorem ExitsFollow.record {s t : State} {new : ExitIdx → ReasonSet} {also : OutputSource → Prop} (h : ExitsFollow s t new also)
    {e : ExitIdx} (defined : s.active.exits.has e = true) : t.exits.exits.get e =
      if new e = (s.exits.exits.get e).reasons then s.exits.exits.get e
      else { reasons := new e, usable := (new e).isEmpty, base := t.baseCost e (new e).isEmpty } := by
  rw [h.exits e]
  by_cases same : new e = (s.exits.exits.get e).reasons
  · rw [if_pos same, if_neg fun moved => ((s.moves_iff new e).1 moved).2 same]
  · rw [if_neg same, if_pos ((s.moves_iff new e).2 ⟨defined, same⟩)]

/-- An exit whose set stays keeps its record. -/
theorem ExitsFollow.same {s t : State} {new : ExitIdx → ReasonSet} {also : OutputSource → Prop} (h : ExitsFollow s t new also)
    {e : ExitIdx} (same : new e = (s.exits.exits.get e).reasons) : t.exits.exits.get e = s.exits.exits.get e :=
  h.unmoved fun moved => ((s.moves_iff new e).1 moved).2 same

theorem Layout.doorLineOf_defined {a : Layout} {e : ExitIdx} {l : LineIdx} (h : a.doorLineOf e l = true) : a.exits.has e = true := by
  unfold Layout.doorLineOf at h
  split at h
  · cases h
  · rename_i x hx
    exact Table.has_iff.2 ⟨x, hx⟩

theorem State.notice_time (s : State) (new : ExitIdx → ReasonSet) : ∀ n ∈ s.exitNotices new, n.time = s.port.clock := by
  intro n hn
  obtain ⟨_, _, rfl⟩ := List.mem_map.1 hn
  rfl

/-- A part with its notices, run as a whole event. -/
theorem ExitPart.event {f : Emit} {s m : State} {new : ExitIdx → ReasonSet} (h : ExitPart m (f s).1 (f s).2 new) :
    ExitEvent m (f.run s) [] new := by
  have run := h.run [] (by rw [List.nil_append, h.notices]; exact m.notice_time new)
  exact run

/-- The baseCost after an event is the one before it. -/
theorem ExitEvent.baseCost {m t : State} {before : List Notice} {new : ExitIdx → ReasonSet} (h : ExitEvent m t before new) (e : ExitIdx) (u : Bool) :
    t.baseCost e u = m.baseCost e u := by
  refine State.baseCost_congr ?_ (fun p => ?_) e u
  · rw [h.frame]
    rfl
  · rw [h.frame]

/-- Settles O25: a pin starts or clears a debounce, and the two expiries derive DOOR of the exits they concern. -/
theorem linesAndGraceMove : Obligations.LinesAndGraceMove := by
  refine ⟨?_, ?_, ?_⟩
  · intro s l active
    have line := (s.exits.lines.get l).pinChange_eq active s.port.clock
    exact congrArg (fun r => Host.Outcome.next ((s.setPin l active).setLineRec l r)) line
  · intro s l v start line passed
    refine ⟨_, execDebounceExpiry_runs line passed, ?_⟩
    have event := (deriveDoorsOf_part l (s.setLineRec l (.input (s.exits.pins.get l) none))).event
    have handed : (s.setLineRec l (.input (s.exits.pins.get l) none)).exits.lines.get l = .input (s.exits.pins.get l) none :=
      Table.get_set_self ..
    have given (e : ExitIdx) : (s.setLineRec l (.input (s.exits.pins.get l) none)).given doorSet (fun e => s.active.doorLineOf e l) e =
        if s.active.doorLineOf e l then { (s.exits.exits.get e).reasons with
          door := (s.setLineRec l (.input (s.exits.pins.get l) none)).doorHolds e } else (s.exits.exits.get e).reasons := rfl
    generalize hm : s.setLineRec l (.input (s.exits.pins.get l) none) = m at event handed given
    have same : m.active = s.active ∧ m.exits.exits = s.exits.exits ∧ m.exits.grace = s.exits.grace ∧ m.port = s.port
        ∧ m.boundary = s.boundary := by
      rw [← hm]
      exact ⟨rfl, rfl, rfl, rfl, rfl⟩
    obtain ⟨active, exits, grace, port, boundary⟩ := same
    generalize (deriveDoorsOf l).run m = t at event
    rw [active] at event
    refine ⟨event.follows.lines.inputs l _ _ handed, fun e => ?_, ?_, ?_⟩
    · by_cases named : s.active.doorLineOf e l = true
      · have defined : m.active.exits.has e = true := by rw [active]; exact Layout.doorLineOf_defined named
        rw [event.follows.record defined, given, if_pos named, if_pos named,
          State.doorHolds_handed (by rw [active]; exact named) handed, grace, exits, event.baseCost,
          State.baseCost_congr active (fun p => by rw [boundary])]
      · rw [if_neg named, event.follows.same (by rw [given, if_neg named, exits]), exits]
    · rintro new rfl
      have sets : m.given doorSet (fun e => s.active.doorLineOf e l) = fun e => if s.active.doorLineOf e l then
          { (s.exits.exits.get e).reasons with door := t.doorHolds e } else (s.exits.exits.get e).reasons := by
        funext e
        rw [given, event.doorHolds]
      rw [sets] at event
      refine ⟨?_, ?_⟩
      · have follows := event.follows
        rw [← hm] at follows
        exact follows
      · have posts := event.posts
        rw [← hm] at posts
        exact posts
    · have frame := event.frame
      rw [← hm] at frame
      exact frame
  · intro s start grace passed
    refine ⟨_, execDoorGraceExpiry_runs grace passed, ?_⟩
    have event := (enterElapsed_part s).event
    have given (e : ExitIdx) : (s.setGrace .elapsed).given doorSet s.active.isDoor e = if s.active.isDoor e then
        { (s.exits.exits.get e).reasons with door := (s.setGrace .elapsed).doorHolds e } else (s.exits.exits.get e).reasons := rfl
    generalize enterElapsed.run s = t at event
    have frame := event.frame
    have elapsed : t.exits.grace = .elapsed := by rw [frame]; rfl
    have sets : (s.setGrace .elapsed).given doorSet s.active.isDoor = fun e =>
        if (s.active.exits.get e).map ExitCfg.kind = some .door then { (s.exits.exits.get e).reasons with door := t.doorHolds e }
        else (s.exits.exits.get e).reasons := by
      funext e
      rw [given, event.doorHolds]
      simp only [Layout.isDoor_iff]
    obtain ⟨follows, posts⟩ := event.from (s := s) rfl rfl rfl rfl rfl
    rw [sets] at follows posts
    refine ⟨elapsed, fun e x hx door => ?_, fun e x hx passage => ?_, ?_, ?_⟩
    · refine (follows.reasons (Table.has_iff.2 ⟨x, hx⟩)).trans (if_pos ?_)
      rw [hx, Option.map_some, door]
    · refine follows.same (if_neg ?_)
      rw [hx, Option.map_some, passage]
      simp
    · rintro new rfl
      exact ⟨follows, posts⟩
    · rw [elapsed]
      exact frame

/-! ## A passage that goes STALE -/

theorem State.staleHolds_of_uses {s : State} {p : PassageIdx} {e : ExitIdx} (h : s.active.exitUses p e = true) :
    s.staleHolds e = decide ((s.boundary.passages.get p).state = .stale) := by
  unfold Layout.exitUses at h
  split at h
  · cases h
  · rename_i x hx
    simp only [Bool.and_eq_true, decide_eq_true_eq] at h
    unfold State.staleHolds
    rw [hx]
    simp only [h.1, h.2]

theorem Layout.exitUses_iff (a : Layout) (p : PassageIdx) (e : ExitIdx) :
    a.exitUses p e = true ↔ ∃ x, a.exits.get e = some x ∧ x.kind = .passage ∧ x.passage = some p := by
  unfold Layout.exitUses
  cases a.exits.get e <;> simp

/-- Settles O30: a passage not heard for 3 s goes STALE, and its exits gain STALE. -/
theorem passageGoesStale : Obligations.PassageGoesStale := by
  refine ⟨fun s p heard state last early => ?_, fun s p heard state last late => ?_⟩
  · have young : s.ageExpired p = false := by
      unfold State.ageExpired
      simp only [state, last]
      exact decide_eq_false (Nat.not_le.2 early)
    exact congrArg Host.Outcome.next (if_neg (by rw [young]; exact Bool.false_ne_true))
  · have old : s.ageExpired p = true := by
      unfold State.ageExpired
      simp only [state, last]
      exact decide_eq_true late
    have runs : exec (.passageAgeExpiry p) s = .next ((goStale p).run s) := congrArg Host.Outcome.next (if_pos old)
    refine ⟨_, runs, ?_⟩
    have part := deriveStaleOf_part p (s.setPassage p { s.boundary.passages.get p with state := .stale })
    have whole : (goStale p).run s = ((deriveStaleOf p (s.setPassage p { s.boundary.passages.get p with state := .stale })).1.postAll
        ([s.notice .passageState (some (byte p.val)) [0, 1]]
          ++ (deriveStaleOf p (s.setPassage p { s.boundary.passages.get p with state := .stale })).2)) := rfl
    generalize hm : s.setPassage p { s.boundary.passages.get p with state := .stale } = m at part whole
    have same : m.active = s.active ∧ m.exits = s.exits ∧ m.engine = s.engine ∧ m.port = s.port := by
      rw [← hm]
      exact ⟨rfl, rfl, rfl, rfl⟩
    obtain ⟨active, exits, engine, port⟩ := same
    have stale (e : ExitIdx) (uses : s.active.exitUses p e = true) : m.staleHolds e = true := by
      rw [State.staleHolds_of_uses (by rw [active]; exact uses), ← hm]
      simp [State.setPassage, State.setBoundary]
    have sets : m.given staleSet (m.active.exitUses p) = fun e =>
        if s.active.exitUses p e then { (s.exits.exits.get e).reasons with stale := true } else (s.exits.exits.get e).reasons := by
      funext e
      unfold State.given staleSet
      rw [active, exits]
      by_cases uses : s.active.exitUses p e = true
      · rw [if_pos uses, if_pos uses, stale e uses]
      · rw [if_neg uses, if_neg uses]
    have event := part.run [s.notice .passageState (some (byte p.val)) [0, 1]] (by
      intro n hn
      rcases List.mem_append.1 hn with hn | hn
      · obtain rfl := List.mem_singleton.1 hn
        rw [port]
        rfl
      · rw [part.notices] at hn
        exact m.notice_time _ n hn)
    rw [sets] at event
    rw [whole]
    generalize (deriveStaleOf p m).1.postAll _ = t at event
    obtain ⟨follows, posts⟩ := event.from active (by rw [exits]) (by rw [exits]) (by rw [engine]) port
    have frame := event.frame
    refine ⟨?_, ?_, ?_, ?_, ?_, ?_⟩
    · rw [frame, ← hm]
      rfl
    · intro e x hx passage number
      refine (follows.reasons (Table.has_iff.2 ⟨x, hx⟩)).trans (if_pos ?_)
      exact (Layout.exitUses_iff ..).2 ⟨x, hx, passage, number⟩
    · intro e unused
      exact follows.same (if_neg (by rw [unused]; exact Bool.false_ne_true))
    · rintro new rfl
      exact ⟨follows, posts⟩
    · intro room
      rw [event.port, port]
      exact Port.postAll_first room _ _
    · have boundary : t.boundary = m.boundary := by rw [frame]
      rw [boundary]
      rw [← hm] at frame ⊢
      exact frame

end Machine
end Sys2Proof
end

/-!
The OUTPUT lines (R68): what a source reads, and that every event but those of a new ACTIVE has each line show its source. The laws of
the outputs and of the lines with the door grace (R63, R64, R67).
-/
section
namespace Sys2Proof
namespace Machine

/-! ## What a source reads -/

/-- What the sources of the lines read is alike in two states (R68). -/
structure State.SameSources (s t : State) : Prop where
  active : t.active.exits = s.active.exits
  exits : ∀ e, (t.exits.exits.get e).usable = (s.exits.exits.get e).usable ∧ (t.exits.exits.get e).reasons = (s.exits.exits.get e).reasons
  published : t.aspect.published = s.aspect.published
  egressSet : t.aspect.egressSet = s.aspect.egressSet
  mode : t.alarm.mode = s.alarm.mode
  link : t.alarm.link = s.alarm.link

theorem State.SameSources.sourceTrue {s t : State} (h : s.SameSources t) (src : OutputSource) : t.sourceTrue src = s.sourceTrue src := by
  cases src with
  | exitInUse e => simp only [State.sourceTrue, State.exitInUse, h.active, (h.exits e).1, h.published]
  | exitClosed e => simp only [State.sourceTrue, h.active, (h.exits e).2]
  | hallEvacuate => simp only [State.sourceTrue, h.mode]
  | noEgressAny =>
    have count : t.noEgressCount = s.noEgressCount := congrArg List.length h.egressSet
    simp only [State.sourceTrue, count]
  | alarmLinkLost => simp only [State.sourceTrue, h.link]

/-- An event from `s` to `t` keeps the lines: their modes, the inputs, the outputs as outputs; and an output that showed its source shows
it still, where `x` is not true of the source. -/
structure State.ShowsBut (x : OutputSource → Prop) (s t : State) : Prop where
  modes : t.active.lines = s.active.lines
  inputs : ∀ l v start, s.exits.lines.get l = .input v start → t.exits.lines.get l = .input v start
  outputs : ∀ l d, s.exits.lines.get l = .output d → ∃ d', t.exits.lines.get l = .output d'
  shown : ∀ l src, s.active.lines.get l = .output src → ¬ x src → s.exits.lines.get l = .output (s.sourceTrue src) →
    t.exits.lines.get l = .output (t.sourceTrue src)

/-- An event that keeps the lines and has every output show its source. -/
abbrev State.Shows (s t : State) : Prop := s.ShowsBut (fun _ => False) t

theorem State.ShowsBut.of_lines {x : OutputSource → Prop} {s t : State} (modes : t.active.lines = s.active.lines)
    (lines : t.exits.lines = s.exits.lines) (sources : ∀ src, ¬ x src → t.sourceTrue src = s.sourceTrue src) : s.ShowsBut x t := by
  refine ⟨modes, fun l v start h => by rw [lines, h], fun l d h => ⟨d, by rw [lines, h]⟩, fun l src _ hx h => ?_⟩
  rw [lines, h, sources src hx]

theorem State.SameSources.shows {s t : State} (h : s.SameSources t) (modes : t.active.lines = s.active.lines)
    (lines : t.exits.lines = s.exits.lines) : s.Shows t := .of_lines modes lines fun src _ => h.sourceTrue src

theorem State.ShowsBut.trans {x : OutputSource → Prop} {s u t : State} (h : s.ShowsBut x u) (k : u.Shows t) : s.ShowsBut x t := by
  refine ⟨k.modes.trans h.modes, fun l v start hl => k.inputs l v start (h.inputs l v start hl), fun l d hl => ?_, fun l src mode hx hl => ?_⟩
  · obtain ⟨d', hu⟩ := h.outputs l d hl
    exact k.outputs l d' hu
  · exact k.shown l src (by rw [h.modes]; exact mode) not_false (h.shown l src mode hx hl)

theorem State.ShowsBut.refl (x : OutputSource → Prop) (s : State) : s.ShowsBut x s := .of_lines rfl rfl fun _ _ => rfl

/-- Once the sources of which `x` is true are driven, every output shows its source (R68). -/
theorem State.ShowsBut.drive {x : OutputSource → Prop} {s u : State} (h : s.ShowsBut x u) {p : OutputSource → Bool}
    (hp : ∀ src, x src → p src = true) : s.Shows (u.drive p) := by
  have f := u.drive_follows p
  have modes (l) : u.active.lines.get l = s.active.lines.get l := by rw [h.modes]
  refine ⟨h.modes, fun l v start hl => f.inputs l v start (h.inputs l v start hl), fun l d hl => ?_, fun l src mode _ hl => ?_⟩
  · obtain ⟨d', hu⟩ := h.outputs l d hl
    have line : (u.drive p).exits.lines.get l = u.drivenLine p l := Table.get_ofFn ..
    rw [line, State.drivenLine, hu]
    cases u.active.lines.get l <;> exact ⟨_, rfl⟩
  · obtain ⟨d', hu⟩ := h.outputs l _ hl
    by_cases driven : p src = true
    · exact f.shown l src d' ((modes l).trans mode) hu driven
    · rw [f.held l src ((modes l).trans mode) driven, h.shown l src mode (fun hx => driven (hp src hx)) hl]
      exact congrArg LineRec.output (u.sourceTrue_lines _ src).symm

/-- A part that has every output show its source in each of its turns does so whole. -/
theorem State.ShowsBut.each {α : Type} {f : α → Emit} {l : List α} (h : ∀ a ∈ l, ∀ s, State.Shows s (f a s).1) (s : State) :
    s.Shows (Emit.each l f s).1 :=
  Emit.each_keeps (P := s.Shows) (fun a ha t ht => ht.trans (h a ha t)) (.refl _ s)

/-! ## The parts of the events -/

theorem setReasons_shows (e : ExitIdx) (r : ReasonSet) (s : State) : s.Shows (setReasons e r s).1 := by
  unfold setReasons
  split
  · dsimp only
    refine State.ShowsBut.drive (x := fun src => OutputSource.names e src = true) ?_ fun src hx => hx
    refine .of_lines rfl rfl fun src other => ?_
    refine ExitMove.sourceTrue (s := s) ⟨_, _, _, rfl⟩ fun f named => ?_
    refine Table.get_set_ne _ _ fun same => other (?_)
    rw [← same]
    exact named
  · exact .refl _ s

theorem deriveDoorsOf_shows (l : LineIdx) (s : State) : s.Shows (deriveDoorsOf l s).1 := .each (fun _ _ _ => setReasons_shows ..) s
theorem deriveStaleOf_shows (p : PassageIdx) (s : State) : s.Shows (deriveStaleOf p s).1 := .each (fun _ _ _ => setReasons_shows ..) s

theorem formZone_shows (z : ZoneIdx) (r : ZoneRec) (s : State) : s.Shows (formZone z r s).1 := by
  unfold formZone
  dsimp only
  split <;> exact .of_lines rfl rfl fun src _ => by cases src <;> rfl

theorem zoneEvent_shows (z : ZoneIdx) (r : ZoneRec) (s : State) : s.Shows (zoneEvent z r s).1 := by
  unfold zoneEvent
  dsimp only
  split
  · exact formZone_shows z r s
  · exact (formZone_shows z r s).trans (.each (fun _ _ _ => setReasons_shows ..) _)

theorem beamEvent_shows (ch : BeamIdx) (b : BeamRec) (s : State) : s.Shows (beamEvent ch b s).1 := by
  have moved : s.Shows { s with beams := s.beams.set ch b } := .of_lines rfl rfl fun src _ => by cases src <;> rfl
  unfold beamEvent
  dsimp only
  split
  · exact moved
  · exact moved.trans (zoneEvent_shows ..)

theorem deriveLink_shows (s : State) : s.Shows (deriveLink s).1 := by
  unfold deriveLink
  dsimp only
  split
  · exact .refl _ s
  · refine State.ShowsBut.drive (x := fun src => src = .alarmLinkLost) ?_ fun src hx => decide_eq_true hx
    split
    all_goals
      refine .of_lines rfl rfl fun src other => ?_
      cases src with
      | alarmLinkLost => exact absurd rfl other
      | _ => rfl

/-- What the exits, the Aspect Unit, the Alarm Line Interface and ACTIVE do not share in moves no line. -/
theorem State.ShowsBut.still {x : OutputSource → Prop} {s u t : State} (h : s.ShowsBut x u) (active : t.active = u.active)
    (exits : t.exits = u.exits) (aspect : t.aspect = u.aspect) (mode : t.alarm.mode = u.alarm.mode)
    (link : t.alarm.link = u.alarm.link) : s.ShowsBut x t := by
  refine h.trans (State.SameSources.shows ⟨by rw [active], fun e => by rw [exits]; exact ⟨rfl, rfl⟩, by rw [aspect], by rw [aspect], mode, link⟩
    (by rw [active]) (by rw [exits]))

theorem State.ShowsBut.postAll {x : OutputSource → Prop} {s u : State} (h : s.ShowsBut x u) (ns : List Notice) : s.ShowsBut x (u.postAll ns) :=
  h.still rfl rfl rfl rfl rfl

theorem State.ShowsBut.respond {x : OutputSource → Prop} {s u : State} (h : s.ShowsBut x u) (st : Status) (b : List Byte) :
    s.ShowsBut x (u.respond st b) :=
  h.still rfl rfl rfl rfl rfl

theorem State.ShowsBut.dropFrame {x : OutputSource → Prop} {s u : State} (h : s.ShowsBut x u) : s.ShowsBut x u.dropFrame :=
  h.still rfl rfl rfl rfl rfl

theorem State.ShowsBut.setBoundary {x : OutputSource → Prop} {s u : State} (h : s.ShowsBut x u) (b : Boundary) :
    s.ShowsBut x (u.setBoundary b) :=
  h.still rfl rfl rfl rfl rfl

theorem State.ShowsBut.kickAll {x : OutputSource → Prop} {s u : State} (h : s.ShowsBut x u) : s.ShowsBut x u.kickAll := by
  obtain ⟨_, _, e⟩ := u.kickAll_frame
  rw [e]
  exact h.still rfl rfl rfl rfl rfl

theorem State.ShowsBut.run {s : State} {f : Emit} (h : s.Shows (f s).1) : s.Shows (f.run s) := h.postAll _

/-! ## The passages -/

/-- A base source cost formed anew changes no usable field and no reason set. -/
theorem State.reformBase_shows (s : State) (e : ExitIdx) : s.Shows (s.reformBase e) := by
  unfold State.reformBase
  split
  · refine State.SameSources.shows ⟨rfl, fun f => ?_, rfl, rfl, rfl, rfl⟩ rfl rfl
    dsimp only
    rw [Table.get_set]
    split
    · rename_i same
      rw [same]
      exact ⟨rfl, rfl⟩
    · exact ⟨rfl, rfl⟩
  · exact .refl _ s

theorem State.reformBases_shows (l : List ExitIdx) (s : State) : s.Shows (l.foldl State.reformBase s) := by
  induction l generalizing s with
  | nil => exact .refl _ s
  | cons e l ih => exact (s.reformBase_shows e).trans (ih _)

theorem State.remoteChanged_shows (s : State) (p : PassageIdx) : s.Shows (s.remoteChanged p) := by
  have marked : s.Shows s.setPending := State.ShowsBut.still (.refl _ s) rfl rfl rfl rfl rfl
  exact marked.trans (State.reformBases_shows _ _)

theorem State.takeRecord_shows (s : State) (p : PassageIdx) (r : PassageRec) : s.Shows (s.takeRecord p r) := by
  have set : s.Shows (s.setPassage p r) := State.ShowsBut.setBoundary (.refl _ s) _
  unfold State.takeRecord
  dsimp only
  split
  · exact set
  · exact set.trans ((s.setPassage p r).remoteChanged_shows p)

theorem useEntry_shows (g : Gen) (e : AdvertEntry) (s : State) : s.Shows (useEntry g e s).1 := by
  unfold useEntry
  dsimp only
  split
  · exact s.takeRecord_shows _ _
  · exact (s.takeRecord_shows _ _).trans (deriveStaleOf_shows _ _)

theorem takeEntry_shows (a : Advert) (e : AdvertEntry) (s : State) : s.Shows (takeEntry a e s).1 := by
  cases used : s.uses a e with
  | false =>
    rw [takeEntry_passed used]
    exact .refl _ s
  | true =>
    rw [takeEntry_used used]
    exact useEntry_shows _ e s

theorem takeAdvert_shows (a : Advert) (s : State) : s.Shows (takeAdvert a s).1 := by
  unfold takeAdvert
  split
  · unfold seeDuplicate
    dsimp only
    split <;> exact State.ShowsBut.setBoundary (.refl _ s) _
  · exact .each (fun e _ => takeEntry_shows a e) s

theorem goStale_shows (p : PassageIdx) (s : State) : s.Shows (goStale p s).1 :=
  (State.ShowsBut.setBoundary (.refl _ s) _).trans (deriveStaleOf_shows p (s.setPassage p { s.boundary.passages.get p with state := .stale }))

/-! ## The alarm lines and the hall mode -/

theorem hearLine_shows (l : AlarmLine) (s : State) : s.Shows (hearLine l s).1 := by
  have set (r : AlarmLineRec) : s.Shows (s.setLine l r) := by
    cases l <;> exact State.ShowsBut.still (.refl _ s) rfl rfl rfl rfl rfl
  unfold hearLine
  dsimp only
  split
  · exact set _
  · exact (set _).trans (deriveLink_shows _)

theorem loseLine_shows (l : AlarmLine) (s : State) : s.Shows (loseLine l s).1 := by
  have set (r : AlarmLineRec) : s.Shows (s.setLine l r) := by
    cases l <;> exact State.ShowsBut.still (.refl _ s) rfl rfl rfl rfl rfl
  unfold loseLine
  dsimp only
  split
  · exact set _
  · exact (set _).trans (deriveLink_shows _)

theorem State.offerFrame_shows (s : State) (f : IntakeFrame) : s.Shows (s.offerFrame f) := by
  unfold State.offerFrame
  split
  · exact State.ShowsBut.still (.refl _ s) rfl rfl rfl rfl rfl
  · cases f.line <;> exact State.ShowsBut.still (.refl _ s) rfl rfl rfl rfl rfl

theorem State.setGrace_shows (s : State) (g : DoorGrace) : s.Shows (s.setGrace g) :=
  State.SameSources.shows ⟨rfl, fun _ => ⟨rfl, rfl⟩, rfl, rfl, rfl, rfl⟩ rfl rfl

theorem enterElapsed_shows (s : State) : s.Shows (enterElapsed s).1 :=
  (s.setGrace_shows .elapsed).trans (.each (fun _ _ _ => setReasons_shows ..) _)

theorem endGrace_shows (s : State) : s.Shows (endGrace s).1 := by
  rw [endGrace_eq]
  exact (s.setGrace_shows .idle).trans (.each (fun _ _ _ => setReasons_shows ..) _)

theorem moveGrace_shows (m : HallMode) (s : State) : s.Shows (moveGrace m s).1 := by
  cases m with
  | standby => exact endGrace_shows s
  | evacuate =>
    unfold moveGrace startGrace
    dsimp only
    split
    · exact enterElapsed_shows s
    · exact s.setGrace_shows _

theorem State.recodeSigns_shows (s : State) (m : HallMode) : s.Shows (s.recodeSigns m) := by
  obtain ⟨_, hq⟩ := s.recodeSigns_frame m
  rw [hq]
  exact State.SameSources.shows ⟨rfl, fun _ => ⟨rfl, rfl⟩, rfl, rfl, rfl, rfl⟩ rfl rfl

theorem changeMode_shows (m : HallMode) (s : State) : s.Shows (changeMode m s).1 := by
  have set : s.ShowsBut (fun src => src = .hallEvacuate) (s.setMode m) := .of_lines rfl rfl fun src other => by
    cases src with
    | hallEvacuate => exact absurd rfl other
    | _ => rfl
  have driven := (set.trans (moveGrace_shows m _)).drive (p := fun src => src = .hallEvacuate) fun src hx => decide_eq_true hx
  exact driven.trans (State.recodeSigns_shows _ m)

/-! ## A field adopted -/

theorem formEgress_shows (p : Published) (s : State) : s.Shows (formEgress p s).1 := by
  unfold formEgress State.takeEgress
  dsimp only
  split
  · exact .refl _ s
  · have set : s.ShowsBut (fun src => src = .noEgressAny) (s.setEgress (s.active.cutOff p)) := .of_lines rfl rfl fun src other => by
      cases src with
      | noEgressAny => exact absurd rfl other
      | _ => rfl
    split
    · rename_i count
      refine .of_lines rfl rfl fun src _ => ?_
      cases src with
      | noEgressAny => simp only [State.sourceTrue, show (s.setEgress (s.active.cutOff p)).noEgressCount = s.noEgressCount from count]
      | _ => rfl
    · exact set.drive fun src hx => decide_eq_true hx

theorem adoptField_shows (p : Published) (s : State) : s.Shows (adoptField p s).1 := by
  have set : s.ShowsBut (fun src => OutputSource.isInUse src = true)
      { s with aspect := { s.aspect with published := some p, lastGeneration := p.field.generation } } := .of_lines rfl rfl fun src other => by
    cases src with
    | exitInUse e => exact absurd rfl other
    | _ => rfl
  unfold adoptField
  dsimp only
  generalize ({ s with aspect := { s.aspect with published := some p, lastGeneration := p.field.generation } } : State) = t at set
  obtain ⟨_, _, he⟩ := t.evalSigns_frame p
  have evaluated : t.Shows (t.evalSigns p) := by
    rw [he]
    exact State.SameSources.shows ⟨rfl, fun _ => ⟨rfl, rfl⟩, rfl, rfl, rfl, rfl⟩ rfl rfl
  obtain ⟨_, hb⟩ := ((formEgress p (t.evalSigns p)).1.drive OutputSource.isInUse).takeField_frame p
  rw [hb]
  exact (((set.trans evaluated).trans (formEgress_shows p _)).drive fun src hx => hx).setBoundary _

theorem State.nextRun_shows (s : State) : s.Shows s.nextRun := by
  obtain ⟨_, h⟩ := s.nextRun_frame
  rw [h]
  exact State.ShowsBut.still (.refl _ s) rfl rfl rfl rfl rfl

/-! ## Every command -/

theorem exec_zones_shows {c : Instr} (hc : reach c = .zones) (s : State) : After (exec c s) s.Shows := by
  have still (st b) : s.Shows (s.respond st b) := (State.ShowsBut.refl _ s).respond st b
  cases c with
  | setZoneLevel =>
    refine After.served (.refl _ s) still fun body => ?_
    split
    · split
      · dsimp only
        split
        · exact still _ _
        · exact (zoneEvent_shows ..).run.respond _ _
      · exact still _ _
    · exact still _ _
  | beamSample ch r =>
    refine .of_next ?_
    split
    · exact .refl _ s
    · exact (beamEvent_shows ..).run
  | zoneReport =>
    refine .of_next ?_
    split
    · rename_i seq z st _
      split
      · exact (State.ShowsBut.refl _ s).dropFrame
      · have accepted : s.Shows (s.accept seq) := (State.ShowsBut.refl _ s).still rfl rfl rfl rfl rfl
        exact (accepted.trans (zoneEvent_shows ..).run).dropFrame
    · exact .refl _ s
  | _ => cases hc

theorem exec_boundary_shows {c : Instr} (hc : reach c = .boundary) (s : State) : After (exec c s) s.Shows := by
  have set (b) : s.Shows (s.setBoundary b) := (State.ShowsBut.refl _ s).setBoundary b
  cases c with
  | busFree cutOff =>
    refine .of_next ?_
    split
    · exact .refl _ s
    · split <;> exact set _
  | lostArbitration =>
    refine .of_next ?_
    split
    · exact .refl _ s
    · exact set _
  | advertSent => exact .of_next (set _)
  | advertReceived bits =>
    refine .of_next ?_
    split
    · exact .refl _ s
    · split
      · exact set _
      · exact (takeAdvert_shows ..).run
  | advertIntervalExpiry =>
    refine .of_next ?_
    split
    · exact .refl _ s
    · split
      · exact set _
      · exact .refl _ s
  | passageAgeExpiry p =>
    refine .of_next ?_
    split
    · exact (goStale_shows ..).run
    · exact .refl _ s
  | duplicateWatchExpiry =>
    refine .of_next ?_
    split
    · exact .refl _ s
    · split
      · exact set _
      · exact .refl _ s
  | _ => cases hc

theorem exec_alarm_shows {c : Instr} (hc : reach c = .alarm) (s : State) : After (exec c s) s.Shows := by
  have set (l r) : s.Shows (s.setLine l r) := by
    cases l <;> exact State.ShowsBut.still (.refl _ s) rfl rfl rfl rfl rfl
  cases c with
  | alarmStartByte l =>
    refine .of_next ?_
    dsimp only
    split
    · exact set _ _
    · exact .refl _ s
  | alarmFrameEnd l bytes =>
    refine .of_next ?_
    dsimp only
    split
    · split
      · exact .refl _ s
      · exact set _ _
      · exact ((hearLine_shows l s).trans (State.offerFrame_shows ..)).run (f := takeGood l _ _)
    · exact .refl _ s
  | alarmGapLimit l =>
    refine .of_next ?_
    dsimp only
    split
    · exact set _ _
    · exact .refl _ s
  | supervisionExpiry l =>
    refine .of_next ?_
    split
    · exact (loseLine_shows ..).run
    · exact .refl _ s
  | supervise =>
    refine .of_next ?_
    split
    · exact (State.ShowsBut.refl _ s).dropFrame
    · exact .refl _ s
  | statusRequest =>
    refine .of_next ?_
    split
    · refine State.ShowsBut.dropFrame ?_
      unfold State.request
      dsimp only
      split <;> exact set _ _
    · exact .refl _ s
  | egressStatusSent l =>
    refine .of_next ?_
    dsimp only
    split
    · exact .refl _ s
    · exact set _ _
    · exact set _ _
  | _ => cases hc

theorem execHandover_shows (s : State) : After (execHandover s) s.Shows := by
  refine .of_next ?_
  split
  · exact .refl _ s
  · split
    · dsimp only
      have counted (g) : s.Shows (s.setEngine g) := (State.ShowsBut.refl _ s).still rfl rfl rfl rfl rfl
      exact ((((counted _).trans (adoptField_shows ..)).trans (State.nextRun_shows _)).kickAll).postAll _
    · exact .refl _ s

theorem execHallMode_shows (s : State) : After (execHallMode s) s.Shows := by
  refine .of_next ?_
  split
  · rename_i seq mode _
    have accepted : s.Shows (s.accept seq) := (State.ShowsBut.refl _ s).still rfl rfl rfl rfl rfl
    split
    · exact (State.ShowsBut.refl _ s).dropFrame
    · split
      · exact accepted.dropFrame
      · exact (accepted.trans (changeMode_shows ..).run).kickAll.dropFrame
  · exact .refl _ s

/-- Every command but those of the lines and of a new ACTIVE has every output show its source (R68). -/
theorem exec_shows {c : Instr} {k : Reach} (hc : reach c = k) (exits : k ≠ .exits) (whole : k ≠ .whole) (s : State) :
    After (exec c s) s.Shows := by
  have plain (zones : k ≠ .zones) (field : k ≠ .field) (boundary : k ≠ .boundary) (alarm : k ≠ .alarm) (mode : k ≠ .mode)
      (active : After (exec c s) fun t => t.active.exits = s.active.exits ∧ t.active.lines = s.active.lines) : After (exec c s) s.Shows := by
    obtain ⟨t, run, same, modes⟩ := active
    obtain ⟨t', run', f⟩ := exec_frame hc whole s
    cases run.symm.trans run'
    refine ⟨t, run, State.SameSources.shows ⟨same, fun e => ?_, ?_, ?_, ?_, (f.link alarm).2.2⟩ modes ?_⟩
    · rw [f.records zones exits boundary mode]
      exact ⟨rfl, rfl⟩
    · rw [f.aspect field mode]
    · rw [f.aspect field mode]
    · exact f.mode mode
    · exact f.lines zones exits field boundary alarm mode
  have kept (banks : k ≠ .banks) : After (exec c s) fun t => t.active.exits = s.active.exits ∧ t.active.lines = s.active.lines :=
    (exec_frame hc whole s).imp fun t f => by
      rw [State.active, f.layout banks]
      exact ⟨rfl, rfl⟩
  cases k with
  | port => exact plain nofun nofun nofun nofun nofun (kept nofun)
  | banks =>
    refine plain nofun nofun nofun nofun nofun ((exec_banks_active hc s).imp fun t active => ?_)
    rcases active with same | ⟨ch, v, set⟩
    · rw [same]
      exact ⟨rfl, rfl⟩
    · rw [set]
      exact ⟨rfl, rfl⟩
  | zones => exact exec_zones_shows hc s
  | exits => exact absurd rfl exits
  | store => exact plain nofun nofun nofun nofun nofun (kept nofun)
  | engine => exact plain nofun nofun nofun nofun nofun (kept nofun)
  | field =>
    cases c with
    | handover => exact execHandover_shows s
    | _ => cases hc
  | signLine => exact plain nofun nofun nofun nofun nofun (kept nofun)
  | boundary => exact exec_boundary_shows hc s
  | alarm => exact exec_alarm_shows hc s
  | mode =>
    cases c with
    | hallMode => exact execHallMode_shows s
    | _ => cases hc
  | whole => exact absurd rfl whole

/-! ## The law of the outputs -/

theorem OutputLaw.shows {s t : State} (h : OutputLaw s) (k : s.Shows t) : OutputLaw t := by
  intro l src d mode line
  rw [k.modes] at mode
  cases held : s.exits.lines.get l with
  | input v start => exact nomatch (k.inputs l v start held).symm.trans line
  | output d' =>
    rw [h l src d' mode held] at held
    have shown := k.shown l src mode not_false held
    rw [line] at shown
    exact LineRec.output.inj shown

/-- Driving every line has every output show its source (R68). -/
theorem OutputLaw.driven (s : State) : OutputLaw (s.drive fun _ => true) := by
  intro l src d mode line
  have shows : (s.drive fun _ => true).exits.lines.get l = s.drivenLine (fun _ => true) l := Table.get_ofFn ..
  have source := s.sourceTrue_lines (Table.ofFn (s.drivenLine fun _ => true)) src
  rw [line, State.drivenLine, show s.active.lines.get l = .output src from mode] at shows
  cases held : s.exits.lines.get l with
  | input v start =>
    rw [held] at shows
    cases shows
  | output d' =>
    rw [held] at shows
    exact (LineRec.output.inj shows).trans source.symm

/-- A line that ACTIVE does not make an OUTPUT, or an input's record, may take any input's value. -/
theorem OutputLaw.setLineRec {s : State} (h : OutputLaw s) (l : LineIdx) {r : LineRec}
    (hr : ∀ d, r = .output d → s.exits.lines.get l = .output d) : OutputLaw (s.setLineRec l r) := by
  intro j src d mode line
  have own : s.exits.lines.get j = .output d := by
    have set : (s.exits.lines.set l r).get j = .output d := line
    rw [Table.get_set] at set
    split at set
    · rename_i same
      rw [same]
      exact hr d set
    · exact set
  exact (h j src d mode own).trans (s.sourceTrue_lines _ src).symm

end Machine
end Sys2Proof
end

/-!
What a new ACTIVE settles (R19 to R21, R71, R199): the adoption's records stand, every line is driven, and free trunks start. The laws of
the outputs and of the lines.
-/
section
namespace Sys2Proof
namespace Machine

/-! ## What follows an adoption -/

/-- From `u`, the state the blocks leave that took up a new ACTIVE, to `t`: every OUTPUT line is driven, and nothing else of the exits,
zones, channels, passages and alarm lines moves. -/
structure State.Settles (u t : State) : Prop where
  layout : t.layout = u.layout
  zones : t.zones = u.zones
  beams : t.beams = u.beams
  boundary : t.boundary = u.boundary
  alarm : t.alarm = u.alarm
  engine : t.engine = u.engine
  records : t.exits.exits = u.exits.exits
  grace : t.exits.grace = u.exits.grace
  pins : t.exits.pins = u.exits.pins
  lines : LinesFollow u t (fun _ => True)
  outputs : OutputLaw t

theorem State.Settles.active {u t : State} (h : u.Settles t) : t.active = u.active := by rw [State.active, h.layout]; rfl

theorem State.Settles.drive (u : State) : u.Settles (u.drive fun _ => true) where
  layout := rfl
  zones := rfl
  beams := rfl
  boundary := rfl
  alarm := rfl
  engine := rfl
  records := rfl
  grace := rfl
  pins := rfl
  lines := ⟨fun l src d a b _ => (u.drive_follows _).shown l src d a b rfl, fun _ _ _ h => absurd trivial h, (u.drive_follows _).inputs, (u.drive_follows _).unnamed⟩
  outputs := .driven u

theorem State.Settles.still {u t v : State} (h : u.Settles t) (layout : v.layout = t.layout) (zones : v.zones = t.zones) (beams : v.beams = t.beams)
    (boundary : v.boundary = t.boundary) (alarm : v.alarm = t.alarm) (engine : v.engine = t.engine) (exits : v.exits = t.exits)
    (aspect : v.aspect = t.aspect) : u.Settles v := by
  have active : v.active = t.active := by rw [State.active, layout]; rfl
  have shows : t.Shows v := State.ShowsBut.still (.refl _ t) active exits aspect (by rw [alarm]) (by rw [alarm])
  have sources : t.SameSources v := ⟨by rw [active], fun e => by rw [exits]; exact ⟨rfl, rfl⟩, by rw [aspect], by rw [aspect], by rw [alarm], by rw [alarm]⟩
  exact ⟨layout.trans h.layout, zones.trans h.zones, beams.trans h.beams, boundary.trans h.boundary, alarm.trans h.alarm,
    engine.trans h.engine, by rw [exits, h.records], by rw [exits, h.grace], by rw [exits, h.pins],
    h.lines.congr (by rw [exits]) fun src _ => sources.sourceTrue src, h.outputs.shows shows⟩

theorem State.Settles.kickAll {u t : State} (h : u.Settles t) : u.Settles t.kickAll := by
  obtain ⟨_, _, e⟩ := t.kickAll_frame
  rw [e]
  exact h.still rfl rfl rfl rfl rfl rfl rfl rfl

theorem State.Settles.postAll {u t : State} (h : u.Settles t) (ns : List Notice) : u.Settles (t.postAll ns) :=
  h.still rfl rfl rfl rfl rfl rfl rfl rfl

theorem State.Settles.respond {u t : State} (h : u.Settles t) (st : Status) (b : List Byte) : u.Settles (t.respond st b) :=
  h.still rfl rfl rfl rfl rfl rfl rfl rfl

theorem State.Settles.from {u u' t : State} (h : u'.Settles t) (layout : u'.layout = u.layout) (zones : u'.zones = u.zones) (beams : u'.beams = u.beams)
    (boundary : u'.boundary = u.boundary) (alarm : u'.alarm = u.alarm) (engine : u'.engine = u.engine) (exits : u'.exits = u.exits) : u.Settles t :=
  ⟨h.layout.trans layout, h.zones.trans zones, h.beams.trans beams, h.boundary.trans boundary, h.alarm.trans alarm, h.engine.trans engine,
    by rw [h.records, exits], by rw [h.grace, exits], by rw [h.pins, exits],
    h.lines.of_source (by rw [State.active, ← layout]; rfl) (by rw [exits]), h.outputs⟩

/-- An accepted commit, once the blocks have adopted the new ACTIVE (R19). -/
theorem State.commit_settles (s : State) {u : State} (hu : (adopt s.active s.beforeCommit).1 = u) : u.Settles s.commit := by
  have finish (r : State × List (List Notice)) : r.1.Settles (s.finishCommit r) :=
    (((State.Settles.drive { r.1 with freeCount := r.1.freeCount + r.2.flatten.length }).kickAll).postAll _).from rfl rfl rfl rfl rfl rfl rfl
  rw [State.commit_eq, ← hu]
  exact finish _

theorem State.darken_frame (s : State) : ∃ q, s.darken =
    { s with aspect := { s.aspect with published := none, signs := Table.replicate 192 SignRec.dark } }.setQueue q :=
  State.offers_frame _ _

/-- REINIT, once the blocks have adopted the loaded ACTIVE (R199). -/
theorem State.restart_settles (s : State) {u : State} (hu : (adopt s.active s.loadBanks.restartEngine).1 = u) : u.Settles s.restart := by
  have finish (r : State × List (List Notice)) : r.1.Settles (s.finishRestart r) := by
    refine (((State.Settles.drive r.1.darken).kickAll).postAll _).from ?_ ?_ ?_ ?_ ?_ ?_ ?_
    all_goals
      obtain ⟨_, h⟩ := r.1.darken_frame
      rw [h]
      rfl
  rw [State.restart_eq, ← hu]
  exact finish _

/-- The state the load event leaves before the lines are driven (R198). -/
def State.takenUp (s : State) : State :=
  s.loadBanks.loadBeams.loadLines.loadExits.loadHeads.startSupervision.openPort.setPending

theorem State.takeUp_settles (s : State) : s.takenUp.Settles s.takeUp := (State.Settles.drive _).kickAll

/-! ## The law of the outputs -/

theorem OutputLaw.respond {s : State} (h : OutputLaw s) (st : Status) (b : List Byte) : OutputLaw (s.respond st b) :=
  h.shows ((State.ShowsBut.refl _ s).respond st b)

theorem OutputLaw.exec_exits {s : State} (h : OutputLaw s) {c : Instr} (hc : reach c = .exits) : After (exec c s) OutputLaw := by
  cases c with
  | setExitClosure =>
    refine After.served h (fun st b => h.respond st b) fun body => ?_
    split
    · dsimp only
      split
      · split
        · exact h.respond _ _
        · exact h.shows ((setReasons_shows ..).run.respond _ _)
      · exact h.respond _ _
    · exact h.respond _ _
  | discretePinChange l active =>
    have pinned : OutputLaw (s.setPin l active) := h.shows (State.SameSources.shows ⟨rfl, fun _ => ⟨rfl, rfl⟩, rfl, rfl, rfl, rfl⟩ rfl rfl)
    refine .of_next (pinned.setLineRec l fun d hd => ?_)
    show s.exits.lines.get l = .output d
    rw [LineRec.pinChange_eq] at hd
    split at hd
    · rename_i d' record
      rw [record]
      exact hd
    · split at hd <;> cases hd
  | debounceExpiry l =>
    refine .of_next ?_
    split
    · split
      · exact (h.setLineRec l (r := .input _ none) (fun d hd => by cases hd)).shows (deriveDoorsOf_shows ..).run
      · exact h
    · exact h
    · exact h
  | doorGraceExpiry =>
    refine .of_next ?_
    split
    · split
      · exact h.shows (enterElapsed_shows s).run
      · exact h
    · exact h
    · exact h
  | _ => cases hc

theorem OutputLaw.cold (image : Image) (pins : Table Bool 32) (n : Nat) (q : List Instr) : OutputLaw (State.cold image pins n q) := by
  intro l src d mode
  cases (show LineMode.inputPlain = .output src from (Table.get_replicate ..).symm.trans mode)

theorem OutputLaw.exec {s : State} (h : OutputLaw s) (c : Instr) : After (exec c s) OutputLaw := by
  by_cases exits : reach c = .exits
  · exact h.exec_exits exits
  by_cases whole : reach c = .whole
  · cases c with
    | coldReset => exact .of_next (OutputLaw.cold _ _ _ _)
    | loadEvent => exact execLoadEvent_keeps h fun _ => (s.takeUp_settles.postAll _).outputs
    | commitLayout => exact execCommitLayout_keeps h h.respond fun _ => ((s.commit_settles rfl).respond _ _).outputs
    | reinit => exact execReinit_keeps h h.respond fun _ _ => ((s.restart_settles rfl).respond _ _).outputs
    | _ => cases whole
  · exact (exec_shows rfl exits whole s).imp fun _ => h.shows

/-- Settles O52: every command has its outputs show their sources, and a new ACTIVE has all lines driven. -/
theorem outputLawIsKept : Obligations.OutputLawIsKept := fun _ _ hs h =>
  step_keeps (P := OutputLaw) (fun _ h => h) (fun _ _ h => h.shows (State.ShowsBut.still (.refl _ _) rfl rfl rfl rfl rfl)) (fun c _ h => h.exec c) hs h

/-! ## The law of the lines and the door grace -/

theorem LineLaw.shows {x : OutputSource → Prop} {s t : State} (h : LineLaw s) (k : s.ShowsBut x t) (pins : t.exits.pins = s.exits.pins)
    (grace : t.exits.grace = .idle ↔ t.alarm.mode = .standby) : LineLaw t := by
  obtain ⟨modes, debounce, -⟩ := h
  refine ⟨fun l => ?_, fun l v start line => ?_, grace⟩
  · rw [k.modes, ← modes l]
    refine ⟨fun ⟨d, line⟩ => ?_, fun ⟨d, line⟩ => k.outputs l d line⟩
    cases held : s.exits.lines.get l with
    | input v start => exact nomatch (k.inputs l v start held).symm.trans line
    | output d' => exact ⟨d', rfl⟩
  · cases held : s.exits.lines.get l with
    | input v' start' =>
      rw [k.inputs l v' start' held] at line
      cases line
      rw [pins]
      exact debounce l v start held
    | output d' =>
      obtain ⟨d, other⟩ := k.outputs l d' held
      exact nomatch other.symm.trans line

theorem LineLaw.kept {s t : State} (h : LineLaw s) (k : s.Shows t) (pins : t.exits.pins = s.exits.pins)
    (grace : t.exits.grace = s.exits.grace) (mode : t.alarm.mode = s.alarm.mode) : LineLaw t :=
  h.shows k pins (by rw [grace, mode]; exact h.grace)

/-- A line's record replaced by one of its mode, with a debounce exactly where its pin has another value (R63). -/
theorem LineLaw.setLineRec {s : State} (h : LineLaw s) {l : LineIdx} {r : LineRec} {pins : Table Bool 32}
    (others : ∀ j, j ≠ l → pins.get j = s.exits.pins.get j)
    (mode : (∃ d, r = .output d) ↔ ∃ d, s.exits.lines.get l = .output d)
    (debounce : ∀ v start, r = .input v start → (start.isSome = true ↔ pins.get l ≠ v)) :
    LineLaw ({ s with exits := { s.exits with pins := pins } }.setLineRec l r) := by
  have line (j) : ({ s with exits := { s.exits with pins := pins } }.setLineRec l r).exits.lines.get j
      = if j = l then r else s.exits.lines.get j := Table.get_set ..
  refine ⟨fun j => ?_, fun j v start => ?_, h.grace⟩
  · rw [line]
    by_cases same : j = l
    · rw [if_pos same, mode, same]
      exact h.mode l
    · rw [if_neg same]
      exact h.mode j
  · rw [line]
    by_cases same : j = l
    · rw [if_pos same, same]
      exact debounce v start
    · rw [if_neg same]
      intro held
      show _ ↔ pins.get j ≠ v
      rw [others j same]
      exact h.debounce j v start held

theorem LineLaw.exec_exits {s : State} (h : LineLaw s) {c : Instr} (hc : reach c = .exits) : After (exec c s) LineLaw := by
  have answered (st b) : LineLaw (s.respond st b) := h.kept ((State.ShowsBut.refl _ s).respond st b) rfl rfl rfl
  have moved {m t : State} (law : LineLaw m) (shows : m.Shows t) {x u : State} (move : ExitMove m u) (post : t.exits = u.exits ∧ t.alarm = u.alarm) :
      LineLaw t := by
    have leaves := move.leaves
    exact law.kept shows (by rw [post.1, leaves.pins]) (by rw [post.1, leaves.grace]) (by rw [post.2, leaves.alarm])
  cases c with
  | setExitClosure =>
    refine After.served h answered fun body => ?_
    split
    · dsimp only
      split
      · split
        · exact answered _ _
        · exact moved h ((setReasons_shows ..).run.respond _ _) (x := s) (setReasons_frame ..) ⟨rfl, rfl⟩
      · exact answered _ _
    · exact answered _ _
  | discretePinChange l active =>
    refine .of_next (h.setLineRec (pins := s.exits.pins.set l active) (fun j other => Table.get_set_ne _ _ other) ?_ fun v start record => ?_)
    · rw [LineRec.pinChange_eq]
      cases s.exits.lines.get l with
      | output d => exact Iff.rfl
      | input v start =>
        dsimp only
        split <;> exact ⟨fun ⟨_, e⟩ => (nomatch e), fun ⟨_, e⟩ => (nomatch e)⟩
    · rw [Table.get_set_self]
      rw [LineRec.pinChange_eq] at record
      split at record
      · cases record
      · split at record
        · rename_i same
          cases record
          exact ⟨fun some => (nomatch some), fun other => absurd same other⟩
        · rename_i other
          cases record
          exact ⟨fun _ => other, fun _ => rfl⟩
  | debounceExpiry l =>
    refine .of_next ?_
    split
    · rename_i v start held
      split
      · have handed := h.setLineRec (l := l) (r := .input (s.exits.pins.get l) none) (pins := s.exits.pins) (fun _ _ => rfl)
          ⟨fun ⟨_, e⟩ => (nomatch e), fun ⟨_, e⟩ => (nomatch held.symm.trans e)⟩ fun v start e => by
            cases e
            exact ⟨fun some => (nomatch some), fun other => absurd rfl other⟩
        exact moved handed (deriveDoorsOf_shows ..).run (x := s) (deriveDoorsOf_frame l _) ⟨rfl, rfl⟩
      · exact h
    · exact h
    · exact h
  | doorGraceExpiry =>
    refine .of_next ?_
    split
    · rename_i start running
      split
      · have leaves := (enterElapsed_frame s).leaves
        refine h.shows (enterElapsed_shows s).run leaves.pins ?_
        show (enterElapsed s).1.exits.grace = .idle ↔ (enterElapsed s).1.alarm.mode = .standby
        rw [leaves.grace, leaves.alarm]
        have active := h.grace
        rw [running] at active
        exact ⟨fun e => (nomatch e), fun e => (nomatch active.2 e)⟩
      · exact h
    · exact h
    · exact h
  | _ => cases hc

/-- The Door Grace is IDLE after a change to STANDBY, and not after one to EVACUATE (R64, R66). -/
theorem moveGrace_idle (m : HallMode) (s : State) : (moveGrace m s).1.exits.grace = .idle ↔ m = .standby := by
  cases m with
  | standby =>
    rw [show moveGrace .standby s = endGrace s from rfl, (endGrace_frame s).leaves.grace]
    exact ⟨fun _ => rfl, fun _ => rfl⟩
  | evacuate =>
    refine ⟨fun idle => ?_, fun e => (nomatch e)⟩
    unfold moveGrace startGrace at idle
    dsimp only at idle
    split at idle
    · exact nomatch (enterElapsed_frame s).leaves.grace.symm.trans idle
    · cases idle

theorem changeMode_grace (m : HallMode) (s : State) : (changeMode m s).1.exits.grace = (moveGrace m (s.setMode m)).1.exits.grace := by
  obtain ⟨_, hq⟩ := ((moveGrace m (s.setMode m)).1.drive fun src => src = .hallEvacuate).recodeSigns_frame m
  unfold changeMode
  dsimp only
  rw [hq]
  rfl

theorem LineLaw.execHallMode {s : State} (h : LineLaw s) : After (exec .hallMode s) LineLaw := by
  refine .of_next ?_
  split
  · rename_i seq mode _
    split
    · exact h.kept (State.ShowsBut.refl _ s).dropFrame rfl rfl rfl
    · have accepted : LineLaw (s.accept seq) := h.kept ((State.ShowsBut.refl _ s).still rfl rfl rfl rfl rfl) rfl rfl rfl
      split
      · exact accepted.kept (State.ShowsBut.refl _ _).dropFrame rfl rfl rfl
      · have grace := changeMode_grace mode (s.accept seq)
        have idle := moveGrace_idle mode ((s.accept seq).setMode mode)
        obtain ⟨_, _, _, _, _, frame⟩ := changeMode_frame mode (s.accept seq)
        have shows := (changeMode_shows mode (s.accept seq)).run.kickAll.dropFrame
        obtain ⟨_, _, kicked⟩ := ((changeMode mode).run (s.accept seq)).kickAll_frame
        refine accepted.shows shows ?_ ?_
        · rw [kicked]
          show (changeMode mode (s.accept seq)).1.exits.pins = _
          rw [frame]
        · rw [kicked]
          show (changeMode mode (s.accept seq)).1.exits.grace = .idle ↔ (changeMode mode (s.accept seq)).1.alarm.mode = .standby
          rw [grace, idle, frame]
  · exact h

/-- The lines that a new ACTIVE leaves: an output where it makes one, an input kept or at its pin value (R67). -/
theorem LineLaw.settles {u t : State} (h : LineLaw u) (k : u.Settles t) : LineLaw t := by
  have outputs (l : LineIdx) (d : Bool) (line : u.exits.lines.get l = .output d) : ∃ d', t.exits.lines.get l = .output d' := by
    obtain ⟨src, mode⟩ := (h.mode l).1 ⟨d, line⟩
    exact ⟨_, k.lines.shown l src d mode line trivial⟩
  refine h.shows (x := fun _ => True) ⟨by rw [k.active], k.lines.inputs, outputs, fun _ _ _ other => absurd trivial other⟩ k.pins ?_
  rw [k.grace, k.alarm]
  exact h.grace

/-- A line that is no OUTPUT now keeps an input's record, and takes its pin value where it was an output (R63, R67). -/
theorem adoptLine_of_input {mode : LineMode} (other : ∀ src, mode ≠ .output src) (pin : Bool) (r : LineRec) :
    adoptLine mode pin r = match r with
      | .input v start => .input v start
      | .output _ => .input pin none := by
  cases mode with
  | output src => exact absurd rfl (other src)
  | inputPlain => cases r <;> rfl
  | inputDoor => cases r <;> rfl

theorem LineMode.output_or (mode : LineMode) : (∃ src, mode = .output src) ∨ ∀ src, mode ≠ .output src := by
  cases mode with
  | output src => exact .inl ⟨src, rfl⟩
  | inputPlain => exact .inr nofun
  | inputDoor => exact .inr nofun

theorem LineLaw.adopts {old : Layout} {s before u : State} (h : LineLaw s) (exits : before.exits = s.exits) (alarm : before.alarm = s.alarm)
    (a : Adopts old before u) (pins : u.exits.pins = before.exits.pins) (mode : u.alarm.mode = before.alarm.mode) : LineLaw u := by
  have input (l) (other : ∀ src, before.active.lines.get l ≠ .output src) :
      ∃ v start, u.exits.lines.get l = .input v start ∧ (start.isSome = true ↔ u.exits.pins.get l ≠ v) := by
    rw [a.inputs l other, pins, exits, adoptLine_of_input other]
    cases held : s.exits.lines.get l with
    | output d => exact ⟨_, _, rfl, fun some => (nomatch some), fun different => absurd rfl different⟩
    | input v start => exact ⟨_, _, rfl, h.debounce l v start held⟩
  refine ⟨fun l => ?_, fun l v start line => ?_, ?_⟩
  · rw [a.active]
    refine ⟨fun ⟨d, line⟩ => ?_, fun ⟨src, output⟩ => a.outputs l src output⟩
    refine (LineMode.output_or _).resolve_right fun other => ?_
    obtain ⟨v, start, record, -⟩ := input l other
    exact nomatch record.symm.trans line
  · rcases LineMode.output_or (before.active.lines.get l) with ⟨src, output⟩ | other
    · obtain ⟨d, record⟩ := a.outputs l src output
      exact nomatch record.symm.trans line
    · obtain ⟨v', start', record, debounced⟩ := input l other
      cases record.symm.trans line
      exact debounced
  · have grace := h.grace
    rw [a.grace, State.adoptGrace_grace, mode, alarm, ← grace, exits]
    cases s.exits.grace with
    | running start =>
      dsimp only
      split <;> exact ⟨fun e => (nomatch e), fun e => (nomatch e)⟩
    | idle => exact Iff.rfl
    | elapsed => exact Iff.rfl

/-- The lines as the load event leaves them, before the outputs are driven (R71). -/
theorem LineLaw.takenUp {s : State} (awaiting : AwaitingLoad s) : LineLaw s.takenUp := by
  have line (l) : s.takenUp.exits.lines.get l = s.loadBanks.loadBeams.loadLine l := Table.get_ofFn ..
  have active : s.takenUp.active = s.loadBanks.loadBeams.active := rfl
  have pins : s.takenUp.exits.pins = s.loadBanks.loadBeams.exits.pins := rfl
  refine ⟨fun l => ?_, fun l v start record => ?_, ?_⟩
  · rw [line, active, State.loadLine]
    cases s.loadBanks.loadBeams.active.lines.get l with
    | output src => exact ⟨fun _ => ⟨src, rfl⟩, fun _ => ⟨_, rfl⟩⟩
    | inputPlain => exact ⟨fun ⟨_, e⟩ => (nomatch e), fun ⟨_, e⟩ => (nomatch e)⟩
    | inputDoor => exact ⟨fun ⟨_, e⟩ => (nomatch e), fun ⟨_, e⟩ => (nomatch e)⟩
  · rw [line, State.loadLine] at record
    rw [pins]
    cases mode : s.loadBanks.loadBeams.active.lines.get l with
    | output src =>
      rw [mode] at record
      cases record
    | inputPlain =>
      rw [mode] at record
      cases record
      exact ⟨fun some => (nomatch some), fun different => absurd rfl different⟩
    | inputDoor =>
      rw [mode] at record
      cases record
      exact ⟨fun some => (nomatch some), fun different => absurd rfl different⟩
  · have grace : s.takenUp.exits.grace = s.exits.grace := rfl
    have mode : s.takenUp.alarm.mode = s.alarm.mode := rfl
    rw [grace, mode, awaiting.grace, awaiting.alarm]
    exact ⟨fun _ => rfl, fun _ => rfl⟩

theorem adopt_pins (old : Layout) (s : State) : (adopt old s).1.exits.pins = s.exits.pins ∧ (adopt old s).1.alarm.mode = s.alarm.mode := by
  obtain ⟨_, _, _, _, _, _, _, _, _, _, h⟩ := adopt_frame old s
  rw [h]
  exact ⟨rfl, rfl⟩

theorem LineLaw.cold (image : Image) (pins : Table Bool 32) (n : Nat) (q : List Instr) : LineLaw (State.cold image pins n q) := by
  refine ⟨fun l => ?_, fun l v start record => ?_, fun _ => rfl, fun _ => rfl⟩
  · refine ⟨fun ⟨d, record⟩ => ?_, fun ⟨src, mode⟩ => ?_⟩
    · cases (Table.get_ofFn ..).symm.trans record
    · cases (show LineMode.inputPlain = .output src from (Table.get_replicate ..).symm.trans mode)
  · cases (Table.get_ofFn ..).symm.trans record
    exact ⟨fun some => (nomatch some), fun different => absurd rfl different⟩

theorem LineLaw.exec {s : State} (h : LineLaw s) (awaiting : s.loaded = false → AwaitingLoad s) (c : Instr) : After (exec c s) LineLaw := by
  have answered (st b) : LineLaw (s.respond st b) := h.kept ((State.ShowsBut.refl _ s).respond st b) rfl rfl rfl
  by_cases exits : reach c = .exits
  · exact h.exec_exits exits
  by_cases whole : reach c = .whole
  · cases c with
    | coldReset => exact .of_next (LineLaw.cold ..)
    | loadEvent =>
      exact execLoadEvent_keeps h fun unloaded => (LineLaw.takenUp (awaiting unloaded)).settles (s.takeUp_settles.postAll _)
    | commitLayout =>
      obtain ⟨pins, mode⟩ := adopt_pins s.active s.beforeCommit
      have adopted := h.adopts (before := s.beforeCommit) rfl rfl (adopt_adopts ..) pins mode
      exact execCommitLayout_keeps h answered fun _ => adopted.settles ((s.commit_settles rfl).respond _ _)
    | reinit =>
      obtain ⟨pins, mode⟩ := adopt_pins s.active s.loadBanks.restartEngine
      have adopted := h.adopts (before := s.loadBanks.restartEngine) rfl rfl (adopt_adopts ..) pins mode
      exact execReinit_keeps h answered fun _ _ => adopted.settles ((s.restart_settles rfl).respond _ _)
    | _ => cases whole
  by_cases mode : reach c = .mode
  · cases c with
    | hallMode => exact h.execHallMode
    | _ => cases mode
  · obtain ⟨t, run, shows⟩ := exec_shows rfl exits whole s
    obtain ⟨t', run', f⟩ := exec_frame rfl whole s
    cases run.symm.trans run'
    exact ⟨t, run, h.kept shows (f.pins exits) (f.grace exits mode) (f.mode mode)⟩

/-- Settles O50: events move the lines within their modes, and a change of the hall mode moves the door grace. -/
theorem lineLawIsKept : Obligations.LineLawIsKept := fun _ _ awaiting hs h =>
  step_keeps (P := fun s => (s.loaded = false → AwaitingLoad s) ∧ LineLaw s) (fun _ h => h.2)
    (fun _ _ h => ⟨fun hl => { h.1 hl with }, h.2.kept (State.ShowsBut.still (.refl _ _) rfl rfl rfl rfl rfl) rfl rfl rfl⟩)
    (fun c _ h => h.2.exec h.1 c) ⟨awaiting, hs⟩ h

end Machine
end Sys2Proof
end

/-!
The law of the exits (R56 to R58, R61, R62, R65): every event that moves a condition of an exit derives the exit's reasons anew.
-/
section
namespace Sys2Proof
namespace Machine

/-! ## The conditions of an exit -/

/-- The conditions of the derived reasons of exit `e`, and its base source cost, are alike in two states. -/
structure State.SameConditions (s t : State) (e : ExitIdx) : Prop where
  door : t.doorHolds e = s.doorHolds e
  hazard : t.hazardHolds e = s.hazardHolds e
  stale : t.staleHolds e = s.staleHolds e
  noLink : t.noLinkHolds e = s.noLinkHolds e
  base : ∀ u, t.baseCost e u = s.baseCost e u

theorem State.SameConditions.refl (s : State) (e : ExitIdx) : s.SameConditions s e := ⟨rfl, rfl, rfl, rfl, fun _ => rfl⟩

theorem State.SameConditions.trans {s u t : State} {e : ExitIdx} (h : s.SameConditions u e) (k : u.SameConditions t e) : s.SameConditions t e :=
  ⟨k.door.trans h.door, k.hazard.trans h.hazard, k.stale.trans h.stale, k.noLink.trans h.noLink, fun u => (k.base u).trans (h.base u)⟩

theorem State.SameConditions.deriveReasons {s t : State} {e : ExitIdx} (h : s.SameConditions t e) (console : Bool) :
    t.deriveReasons e console = s.deriveReasons e console := by
  unfold State.deriveReasons
  rw [h.door, h.hazard, h.stale, h.noLink]

/-- The value a door line hands over (R65). -/
def LineRec.opens : LineRec → Bool
  | .input v _ => !v
  | .output _ => false

theorem State.doorHolds_eq (s : State) (e : ExitIdx) : s.doorHolds e = true ↔
    s.exits.grace = .elapsed ∧ ∃ l, s.active.doorLineOf e l = true ∧ (s.exits.lines.get l).opens = true := by
  unfold State.doorHolds Layout.doorLineOf LineRec.opens
  cases hx : s.active.exits.get e with
  | none => simp
  | some x =>
    cases hl : x.doorLine with
    | none => simp [hl]
    | some l =>
      simp only [hl, Option.some.injEq, Bool.and_eq_true, decide_eq_true_eq]
      constructor
      · rintro ⟨⟨named, elapsed⟩, opens⟩
        exact ⟨elapsed, l, ⟨⟨named.1.1, rfl⟩, named.2⟩, opens⟩
      · rintro ⟨elapsed, l', ⟨⟨kind, same⟩, mode⟩, opens⟩
        cases same
        exact ⟨⟨⟨⟨kind, trivial⟩, mode⟩, elapsed⟩, opens⟩

/-- DOOR holds alike where the grace is ELAPSED alike and the door lines of the exit hand over alike. -/
theorem State.doorHolds_same {s t : State} {e : ExitIdx} (named : ∀ l, t.active.doorLineOf e l = s.active.doorLineOf e l)
    (grace : t.exits.grace = .elapsed ↔ s.exits.grace = .elapsed)
    (lines : ∀ l, s.active.doorLineOf e l = true → (t.exits.lines.get l).opens = (s.exits.lines.get l).opens) :
    t.doorHolds e = s.doorHolds e := by
  rw [Bool.eq_iff_iff, State.doorHolds_eq, State.doorHolds_eq, grace]
  refine and_congr_right fun _ => exists_congr fun l => ?_
  rw [named]
  exact and_congr_right fun own => by rw [lines l own]

theorem State.sameConditions {s t : State} (exits : t.active.exits = s.active.exits) (nodes : t.active.nodes = s.active.nodes)
    (modes : t.active.lines = s.active.lines) (params : t.active.params = s.active.params)
    (levels : ∀ z, (t.zones.get z).effective = (s.zones.get z).effective)
    (passages : ∀ p, (t.boundary.passages.get p).remote = (s.boundary.passages.get p).remote
      ∧ (t.boundary.passages.get p).state = (s.boundary.passages.get p).state)
    (grace : t.exits.grace = s.exits.grace) (lines : ∀ l, (t.exits.lines.get l).opens = (s.exits.lines.get l).opens) (e : ExitIdx) :
    s.SameConditions t e where
  door := State.doorHolds_same (fun l => by unfold Layout.doorLineOf; rw [exits, modes]) (by rw [grace]) fun l _ => lines l
  hazard := by
    unfold State.hazardHolds Layout.exitZone
    simp only [exits, nodes, params, levels]
  stale := by
    unfold State.staleHolds
    simp only [exits, passages]
  noLink := by
    unfold State.noLinkHolds
    rw [exits, params]
  base u := by
    unfold State.baseCost
    simp only [exits, passages]

/-- The door lines hand over alike where the lines are kept. -/
theorem State.ShowsBut.opens {x : OutputSource → Prop} {s t : State} (h : s.ShowsBut x t) (l : LineIdx) :
    (t.exits.lines.get l).opens = (s.exits.lines.get l).opens := by
  cases held : s.exits.lines.get l with
  | input v start => rw [h.inputs l v start held]
  | output d =>
    obtain ⟨d', line⟩ := h.outputs l d held
    rw [line]
    rfl

/-! ## The law, exit by exit -/

/-- The exit records are as R56 to R58 form them from their reason sets. -/
structure ExitsFormed (s : State) : Prop where
  undefined : ∀ e, s.active.exits.get e = none → s.exits.exits.get e = ExitRec.undefined
  usable : ∀ e, s.active.exits.has e = true → (s.exits.exits.get e).usable = (s.exits.exits.get e).reasons.isEmpty
  base : ∀ e, s.active.exits.has e = true → (s.exits.exits.get e).base = s.baseCost e (s.exits.exits.get e).usable

/-- The reasons of a defined exit are those its conditions give, CONSOLE apart. -/
def State.derives (s : State) (r : ReasonSet) (e : ExitIdx) : Prop := r = s.deriveReasons e r.console

theorem exitLaw_iff (s : State) : ExitLaw s ↔
    ExitsFormed s ∧ ∀ e, s.active.exits.has e = true → s.derives (s.exits.exits.get e).reasons e := by
  refine ⟨fun h => ⟨⟨h.undefined, h.usable, h.base⟩, fun e defined => ?_⟩, fun ⟨formed, derived⟩ => ?_⟩
  · have hazard := h.hazard e defined
    have stale := h.stale e defined
    have noLink := h.noLink e defined
    have door := h.door e defined
    unfold State.derives State.deriveReasons
    rw [← hazard, ← stale, ← noLink, ← door]
  · have part (e) (defined) := derived e defined
    unfold State.derives State.deriveReasons at part
    exact ⟨formed.undefined, formed.usable, formed.base, fun e d => congrArg ReasonSet.hazard (part e d),
      fun e d => congrArg ReasonSet.stale (part e d), fun e d => congrArg ReasonSet.noLink (part e d),
      fun e d => congrArg ReasonSet.door (part e d)⟩

theorem ExitLaw.derives {s : State} (h : ExitLaw s) {e : ExitIdx} (defined : s.active.exits.has e = true) :
    s.derives (s.exits.exits.get e).reasons e := ((exitLaw_iff s).1 h).2 e defined

theorem ExitLaw.formed {s : State} (h : ExitLaw s) : ExitsFormed s := ((exitLaw_iff s).1 h).1

theorem State.SameConditions.derives {s t : State} {r : ReasonSet} {e : ExitIdx} (h : s.SameConditions t e) (d : s.derives r e) : t.derives r e := by
  unfold State.derives at d ⊢
  rw [h.deriveReasons]
  exact d

theorem ExitsFormed.congr {s t : State} (h : ExitsFormed s) (active : t.active.exits = s.active.exits)
    (records : t.exits.exits = s.exits.exits) (base : ∀ e u, t.baseCost e u = s.baseCost e u) : ExitsFormed t := by
  obtain ⟨undefined, usable, formed⟩ := h
  refine ⟨?_, ?_, ?_⟩
  · rw [active, records]
    exact undefined
  · rw [active, records]
    exact usable
  · rw [active, records]
    intro e defined
    rw [base]
    exact formed e defined

/-- Exits that keep their records and conditions keep the law. -/
theorem ExitLaw.same {s t : State} (h : ExitLaw s) (active : t.active.exits = s.active.exits) (records : t.exits.exits = s.exits.exits)
    (conditions : ∀ e, s.SameConditions t e) : ExitLaw t := by
  rw [exitLaw_iff]
  refine ⟨h.formed.congr active records fun e => (conditions e).base, ?_⟩
  rw [active, records]
  exact fun e defined => (conditions e).derives (h.derives defined)

/-- An event in which the exits take reason sets leaves the law where the sets are those its conditions give (R57). -/
theorem ExitsFollow.exitLaw {s t : State} {new : ExitIdx → ReasonSet} {also : OutputSource → Prop} (h : ExitsFollow s t new also)
    (formed : ExitsFormed s) (active : t.active = s.active) (base : ∀ e u, t.baseCost e u = s.baseCost e u)
    (derived : ∀ e, s.active.exits.has e = true → t.derives (new e) e) : ExitLaw t := by
  rw [exitLaw_iff, active]
  refine ⟨⟨fun e none => ?_, fun e defined => ?_, fun e defined => ?_⟩, fun e defined => ?_⟩
  · rw [active] at none
    rw [h.unmoved, formed.undefined e none]
    rw [State.moves_iff, Table.has_iff]
    rintro ⟨⟨x, some⟩, -⟩
    exact nomatch none.symm.trans some
  · rw [active] at defined
    rw [h.exits e]
    split
    · rfl
    · exact formed.usable e defined
  · rw [active] at defined
    rw [h.exits e]
    split
    · rfl
    · rw [base]
      exact formed.base e defined
  · rw [h.reasons defined]
    exact derived e defined

/-- A part of an event, from a state `m` with the exits and base costs formed, gives the reason sets that the conditions of `m` give. -/
theorem ExitPart.exitLaw {m t : State} {ns : List Notice} {new : ExitIdx → ReasonSet} (h : ExitPart m t ns new) (formed : ExitsFormed m)
    (derived : ∀ e, m.active.exits.has e = true → m.derives (new e) e) : ExitLaw t := by
  have leaves := h.move.leaves
  have lines (l) : m.active.lines.get l = .inputDoor → t.exits.lines.get l = m.exits.lines.get l := fun door =>
    h.follows.lines.unnamed l fun src => by rw [door]; nofun
  refine h.follows.exitLaw formed leaves.active (fun e u => h.move.baseCost e u) fun e defined => ?_
  refine State.SameConditions.derives ⟨State.doorHolds_congr leaves.active leaves.grace lines e, State.hazardHolds_congr leaves.active leaves.zones e,
    State.staleHolds_congr leaves.active (fun p => by rw [leaves.boundary]) e, State.noLinkHolds_congr leaves.active e, h.move.baseCost e⟩ (derived e defined)

/-! ## One derived reason taken -/

theorem State.derives_iff (s : State) (r : ReasonSet) (e : ExitIdx) : s.derives r e ↔
    r.door = s.doorHolds e ∧ r.hazard = s.hazardHolds e ∧ r.stale = s.staleHolds e ∧ r.noLink = s.noLinkHolds e := by
  unfold State.derives State.deriveReasons
  cases r
  simp

theorem State.derives_console {s : State} {r : ReasonSet} {e : ExitIdx} (h : s.derives r e) (c : Bool) : s.derives { r with console := c } e := by
  rw [State.derives_iff] at h ⊢
  exact h

theorem derives_hazardSet {s m : State} {e : ExitIdx} (d : s.derives (s.exits.exits.get e).reasons e) (records : m.exits.exits = s.exits.exits)
    (door : m.doorHolds e = s.doorHolds e) (stale : m.staleHolds e = s.staleHolds e) (noLink : m.noLinkHolds e = s.noLinkHolds e) :
    m.derives (hazardSet e m) e := by
  rw [State.derives_iff] at d ⊢
  rw [hazardSet, records, door, stale, noLink]
  exact ⟨d.1, rfl, d.2.2.1, d.2.2.2⟩

theorem derives_doorSet {s m : State} {e : ExitIdx} (d : s.derives (s.exits.exits.get e).reasons e) (records : m.exits.exits = s.exits.exits)
    (hazard : m.hazardHolds e = s.hazardHolds e) (stale : m.staleHolds e = s.staleHolds e) (noLink : m.noLinkHolds e = s.noLinkHolds e) :
    m.derives (doorSet e m) e := by
  rw [State.derives_iff] at d ⊢
  rw [doorSet, records, hazard, stale, noLink]
  exact ⟨rfl, d.2.1, d.2.2.1, d.2.2.2⟩

theorem derives_staleSet {s m : State} {e : ExitIdx} (d : s.derives (s.exits.exits.get e).reasons e) (records : m.exits.exits.get e = s.exits.exits.get e ∨ (m.exits.exits.get e).reasons = (s.exits.exits.get e).reasons)
    (door : m.doorHolds e = s.doorHolds e) (hazard : m.hazardHolds e = s.hazardHolds e) (noLink : m.noLinkHolds e = s.noLinkHolds e) :
    m.derives (staleSet e m) e := by
  have reasons : (m.exits.exits.get e).reasons = (s.exits.exits.get e).reasons := records.elim (fun h => by rw [h]) id
  rw [State.derives_iff] at d ⊢
  rw [staleSet, reasons, door, hazard, noLink]
  exact ⟨d.1, d.2.1, rfl, d.2.2.2⟩

theorem State.derives_given {m : State} {f : ExitIdx → State → ReasonSet} {p : ExitIdx → Bool} {e : ExitIdx}
    (taken : p e = true → m.derives (f e m) e) (other : ¬ p e = true → m.derives (m.exits.exits.get e).reasons e) : m.derives (m.given f p e) e := by
  unfold State.given
  by_cases h : p e = true
  · rw [if_pos h]
    exact taken h
  · rw [if_neg h]
    exact other h

/-! ## Zones -/

theorem ExitLaw.still {s t : State} (h : ExitLaw s) (active : t.active = s.active) (zones : t.zones = s.zones) (exits : t.exits = s.exits)
    (passages : t.boundary.passages = s.boundary.passages) : ExitLaw t :=
  h.same (by rw [active]) (by rw [exits]) <| State.sameConditions (by rw [active]) (by rw [active]) (by rw [active]) (by rw [active])
    (fun z => by rw [zones]) (fun p => by rw [passages]; exact ⟨rfl, rfl⟩) (by rw [exits]) (fun l => by rw [exits])

theorem ExitLaw.postAll {s : State} (h : ExitLaw s) (ns : List Notice) : ExitLaw (s.postAll ns) := h.still rfl rfl rfl rfl
theorem ExitLaw.respond {s : State} (h : ExitLaw s) (st : Status) (b : List Byte) : ExitLaw (s.respond st b) := h.still rfl rfl rfl rfl
theorem ExitLaw.dropFrame {s : State} (h : ExitLaw s) : ExitLaw s.dropFrame := h.still rfl rfl rfl rfl
theorem ExitLaw.kickAll {s : State} (h : ExitLaw s) : ExitLaw s.kickAll := by
  obtain ⟨_, _, e⟩ := s.kickAll_frame
  rw [e]
  exact h.still rfl rfl rfl rfl

theorem ExitLaw.zoneEvent {s : State} (h : ExitLaw s) (z : ZoneIdx) (r : ZoneRec) : ExitLaw (Sys2Proof.Machine.zoneEvent z r s).1 := by
  by_cases same : r.greatest = (s.zones.get z).effective
  · rw [zoneEvent_kept same]
    refine h.same rfl rfl (State.sameConditions rfl rfl rfl rfl (fun i => ?_) (fun _ => ⟨rfl, rfl⟩) rfl fun _ => rfl)
    dsimp only
    rw [Table.get_set]
    split
    · rename_i own
      rw [own]
      exact same
    · rfl
  · obtain ⟨ns, -, part⟩ := zoneEvent_changed same
    rw [← State.zoneFormed_given] at part
    have level (i : ZoneIdx) (other : i ≠ z) : (s.zoneFormed z r).zones.get i = s.zones.get i := Table.get_set_ne _ _ other
    refine part.exitLaw (h.formed.congr rfl rfl fun e u => rfl) fun e defined => ?_
    have d := h.derives (e := e) defined
    refine State.derives_given (fun _ => derives_hazardSet d rfl rfl rfl rfl) fun outside => ?_
    have hazard : (s.zoneFormed z r).hazardHolds e = s.hazardHolds e := by
      unfold State.hazardHolds
      show (match s.active.exitZone e with | none => false | some z' => _) = _
      cases zone : s.active.exitZone e with
      | none => rfl
      | some i =>
        dsimp only
        rw [level i fun own => outside (by simp [zone, own])]
        rfl
    exact State.SameConditions.derives (s := s) ⟨rfl, hazard, rfl, rfl, fun _ => rfl⟩ d

theorem ExitLaw.exec_zones {s : State} (h : ExitLaw s) {c : Instr} (hc : reach c = .zones) : After (exec c s) ExitLaw := by
  cases c with
  | setZoneLevel =>
    refine After.served h h.respond fun body => ?_
    split
    · split
      · dsimp only
        split
        · exact h.respond _ _
        · exact ((h.zoneEvent ..).postAll _).respond _ _
      · exact h.respond _ _
    · exact h.respond _ _
  | beamSample ch r =>
    refine .of_next ?_
    split
    · exact h
    · refine ExitLaw.postAll ?_ _
      have moved : ExitLaw { s with beams := s.beams.set ch (s.sampleBeam ch r.val) } := h.still rfl rfl rfl rfl
      unfold beamEvent
      dsimp only
      split
      · exact moved
      · exact moved.zoneEvent ..
  | zoneReport =>
    refine .of_next ?_
    split
    · rename_i seq z st _
      split
      · exact h.dropFrame
      · have accepted : ExitLaw (s.accept seq) := h.still rfl rfl rfl rfl
        exact ((accepted.zoneEvent ..).postAll _).dropFrame
    · exact h
  | _ => cases hc

/-! ## The Exit Unit's own events -/

theorem ExitLaw.setReasons {s : State} (h : ExitLaw s) {e : ExitIdx} {r : ReasonSet} (derived : s.derives r e) :
    ExitLaw (Sys2Proof.Machine.setReasons e r s).1 := by
  have move := setReasons_frame e r s
  have leaves := move.leaves
  have follows := setReasons_follows e r s
  have lines (l) : s.active.lines.get l = .inputDoor → (Sys2Proof.Machine.setReasons e r s).1.exits.lines.get l = s.exits.lines.get l := fun door =>
    follows.lines.unnamed l fun src => by rw [door]; nofun
  refine follows.exitLaw h.formed leaves.active (fun e u => move.baseCost e u) fun f defined => ?_
  refine State.SameConditions.derives (s := s) ⟨State.doorHolds_congr leaves.active leaves.grace lines f, State.hazardHolds_congr leaves.active leaves.zones f,
    State.staleHolds_congr leaves.active (fun p => by rw [leaves.boundary]) f, State.noLinkHolds_congr leaves.active f, move.baseCost f⟩ ?_
  unfold State.withReasons
  split
  · rename_i same
    rw [same]
    exact derived
  · exact h.derives defined

/-- The entry to ELAPSED derives DOOR of the DOOR exits; no other exit has a door line (R64, R65). -/
theorem ExitLaw.enterElapsed {s : State} (h : ExitLaw s) : ExitLaw (Sys2Proof.Machine.enterElapsed s).1 := by
  refine (enterElapsed_part s).exitLaw (h.formed.congr rfl rfl fun _ _ => rfl) fun e defined => ?_
  have d := h.derives (e := e) defined
  refine State.derives_given (fun _ => derives_doorSet d rfl rfl rfl rfl) fun other => ?_
  have door : (s.setGrace .elapsed).doorHolds e = s.doorHolds e := by
    have none (t : State) (active : t.active = s.active) : t.doorHolds e = false := by
      rw [← Bool.not_eq_true, State.doorHolds_eq, active]
      rintro ⟨-, l, named, -⟩
      refine other ?_
      unfold Layout.isDoor
      unfold Layout.doorLineOf at named
      split at named
      · cases named
      · rename_i x hx
        simp only [Bool.and_eq_true, decide_eq_true_eq] at named
        simp only [hx, named.1.1, decide_true]
    exact (none (s.setGrace .elapsed) rfl).trans (none s rfl).symm
  exact State.SameConditions.derives (s := s) ⟨door, rfl, rfl, rfl, fun _ => rfl⟩ d

theorem ExitLaw.endGrace {s : State} (h : ExitLaw s) : ExitLaw (Sys2Proof.Machine.endGrace s).1 := by
  refine (endGrace_part s).exitLaw (h.formed.congr rfl rfl fun _ _ => rfl) fun e defined => ?_
  have d := h.derives (e := e) defined
  have none : (s.setGrace .idle).doorHolds e = false := by
    rw [← Bool.not_eq_true, State.doorHolds_eq]
    rintro ⟨elapsed, -⟩
    cases elapsed
  refine State.derives_given (fun _ => ?_) fun other => absurd rfl other
  rw [State.derives_iff] at d ⊢
  exact ⟨none.symm, d.2⟩

/-- A debounced value handed over derives DOOR of the exits whose door line it is (R63, R65). -/
theorem ExitLaw.handOver {s : State} (h : ExitLaw s) (l : LineIdx) (r : LineRec) : ExitLaw (deriveDoorsOf l (s.setLineRec l r)).1 := by
  refine (deriveDoorsOf_part l _).exitLaw (h.formed.congr rfl rfl fun _ _ => rfl) fun e defined => ?_
  have d := h.derives (e := e) defined
  refine State.derives_given (fun _ => derives_doorSet d rfl rfl rfl rfl) fun other => ?_
  have door : (s.setLineRec l r).doorHolds e = s.doorHolds e := by
    refine State.doorHolds_same (fun _ => rfl) Iff.rfl fun j named => ?_
    have line : (s.setLineRec l r).exits.lines.get j = s.exits.lines.get j := Table.get_set_ne _ _ fun same => other (by rw [← same]; exact named)
    rw [line]
  exact State.SameConditions.derives (s := s) ⟨door, rfl, rfl, rfl, fun _ => rfl⟩ d

theorem ExitLaw.exec_exits {s : State} (h : ExitLaw s) {c : Instr} (hc : reach c = .exits) : After (exec c s) ExitLaw := by
  cases c with
  | setExitClosure =>
    refine After.served h h.respond fun body => ?_
    split
    · dsimp only
      split
      · rename_i defined
        split
        · exact h.respond _ _
        · have d := h.derives (e := ⟨arg body 0, ‹_›⟩) (Bool.and_eq_true_iff.1 defined).2
          exact ((h.setReasons (State.derives_console d _)).postAll _).respond _ _
      · exact h.respond _ _
    · exact h.respond _ _
  | discretePinChange l active =>
    refine .of_next (h.same rfl rfl (State.sameConditions rfl rfl rfl rfl (fun _ => rfl) (fun _ => ⟨rfl, rfl⟩) rfl fun j => ?_))
    have line : ((s.setPin l active).setLineRec l ((s.exits.lines.get l).pinChange active s.port.clock)).exits.lines.get j
        = if j = l then (s.exits.lines.get l).pinChange active s.port.clock else s.exits.lines.get j := Table.get_set ..
    rw [line]
    split
    · rename_i same
      rw [same, LineRec.pinChange_eq]
      cases s.exits.lines.get l with
      | output d => rfl
      | input v start =>
        dsimp only
        split <;> rfl
    · rfl
  | debounceExpiry l =>
    refine .of_next ?_
    split
    · split
      · exact (h.handOver l _).postAll _
      · exact h
    · exact h
    · exact h
  | doorGraceExpiry =>
    refine .of_next ?_
    split
    · split
      · exact h.enterElapsed.postAll _
      · exact h
    · exact h
    · exact h
  | _ => cases hc

/-! ## Passages -/

theorem State.reformBase_get (s : State) (a e : ExitIdx) : (s.reformBase a).exits.exits.get e =
    if e = a ∧ s.active.exits.has a = true then
      { s.exits.exits.get a with base := s.baseCost a (s.exits.exits.get a).usable }
    else s.exits.exits.get e := by
  unfold State.reformBase
  cases defined : s.active.exits.has a with
  | false => simp
  | true =>
    simp only [if_true, and_true]
    exact Table.get_set ..

/-- The base source costs of the exits of a list, formed anew (R58). -/
theorem State.reformBases_get (l : List ExitIdx) (s : State) (e : ExitIdx) : (l.foldl State.reformBase s).exits.exits.get e =
    if e ∈ l ∧ s.active.exits.has e = true then
      { s.exits.exits.get e with base := s.baseCost e (s.exits.exits.get e).usable }
    else s.exits.exits.get e := by
  induction l generalizing s with
  | nil => simp
  | cons a l ih =>
    have move := s.reformBase_frame a
    have leaves := move.leaves
    rw [List.foldl_cons, ih, leaves.active, move.baseCost, s.reformBase_get]
    by_cases own : e = a
    · subst own
      by_cases defined : s.active.exits.has e = true
      · simp [defined]
      · simp [defined]
    · simp [own]

theorem State.baseCost_of_unused {s : State} {p : PassageIdx} {e : ExitIdx} (unused : ¬ s.active.exitUses p e = true) (r : PassageRec) (u : Bool) :
    (s.setPassage p r).baseCost e u = s.baseCost e u := by
  rw [Layout.exitUses_iff] at unused
  unfold State.baseCost
  show (if u then match s.active.exits.get e with | none => _ | some x => _ else _) = _
  cases hx : s.active.exits.get e with
  | none => rfl
  | some x =>
    cases kind : x.kind with
    | door => simp only [kind]
    | passage =>
      cases number : x.passage with
      | none => simp only [kind, number]
      | some q =>
        have other : q ≠ p := fun same => unused ⟨x, hx, kind, by rw [number, same]⟩
        have kept : (s.setPassage p r).boundary.passages.get q = s.boundary.passages.get q := Table.get_set_ne _ _ other
        simp only [kind, number, kept]

theorem State.staleHolds_of_unused {s : State} {p : PassageIdx} {e : ExitIdx} (unused : ¬ s.active.exitUses p e = true) (r : PassageRec) :
    (s.setPassage p r).staleHolds e = s.staleHolds e := by
  rw [Layout.exitUses_iff] at unused
  unfold State.staleHolds
  show (match s.active.exits.get e with | none => _ | some x => _) = _
  cases hx : s.active.exits.get e with
  | none => rfl
  | some x =>
    cases kind : x.kind with
    | door => simp only [kind]
    | passage =>
      cases number : x.passage with
      | none => simp only [kind, number]
      | some q =>
        have other : q ≠ p := fun same => unused ⟨x, hx, kind, by rw [number, same]⟩
        have kept : (s.setPassage p r).boundary.passages.get q = s.boundary.passages.get q := Table.get_set_ne _ _ other
        simp only [kind, number, kept]

/-- A passage's record taken, its remote cost handed to the exits that use it (R58, R154): an exit keeps its reasons and its usable field,
and has its base source cost formed from the new record. -/
theorem State.takeRecord_get (s : State) (p : PassageIdx) (r : PassageRec) (e : ExitIdx) : (s.takeRecord p r).exits.exits.get e =
    if r.remote ≠ (s.boundary.passages.get p).remote ∧ s.active.exitUses p e = true then
      { s.exits.exits.get e with base := (s.setPassage p r).baseCost e (s.exits.exits.get e).usable }
    else s.exits.exits.get e := by
  unfold State.takeRecord
  dsimp only
  by_cases same : r.remote = (s.boundary.passages.get p).remote
  · rw [if_pos same, if_neg fun h => h.1 same]
    rfl
  · rw [if_neg same, State.remoteChanged, State.reformBases_get]
    simp only [mem_exitsWhere]
    have active : (s.setPassage p r).active = s.active := rfl
    have marked : (s.setPassage p r).setPending.active = s.active := rfl
    rw [active, marked]
    by_cases uses : s.active.exitUses p e = true
    · have defined : s.active.exits.has e = true := by
        obtain ⟨x, hx, -⟩ := (Layout.exitUses_iff ..).1 uses
        exact Table.has_iff.2 ⟨x, hx⟩
      rw [if_pos ⟨uses, defined⟩, if_pos ⟨same, uses⟩]
      rfl
    · rw [if_neg fun h => uses h.1, if_neg fun h => uses h.2]
      rfl

theorem ExitsFormed.takeRecord {s : State} (h : ExitsFormed s) (p : PassageIdx) (r : PassageRec) : ExitsFormed (s.takeRecord p r) := by
  have move := s.takeRecord_frame p r
  have active : (s.takeRecord p r).active = s.active := move.leaves.active
  have record := s.takeRecord_get p r
  have kept (e) : ((s.takeRecord p r).exits.exits.get e).usable = (s.exits.exits.get e).usable
      ∧ ((s.takeRecord p r).exits.exits.get e).reasons = (s.exits.exits.get e).reasons := by
    rw [record e]
    split <;> exact ⟨rfl, rfl⟩
  refine ⟨fun e none => ?_, fun e defined => ?_, fun e defined => ?_⟩
  · rw [active] at none
    rw [record, if_neg, h.undefined e none]
    rintro ⟨-, uses⟩
    obtain ⟨x, hx, -⟩ := (Layout.exitUses_iff ..).1 uses
    exact nomatch none.symm.trans hx
  · rw [active] at defined
    rw [(kept e).1, (kept e).2]
    exact h.usable e defined
  · rw [active] at defined
    rw [(kept e).1, move.baseCost, record]
    split
    · rfl
    · rename_i other
      rw [h.base e defined]
      by_cases uses : s.active.exitUses p e = true
      · have same : r.remote = (s.boundary.passages.get p).remote := not_not.1 fun changed => other ⟨changed, uses⟩
        refine (State.baseCost_congr (s := s) (t := s.setPassage p r) rfl (fun q => ?_) e _).symm
        show ((s.boundary.passages.set p r).get q).remote = _
        rw [Table.get_set]
        split
        · rename_i own
          rw [own, same]
        · rfl
      · exact (State.baseCost_of_unused uses r _).symm

theorem ExitLaw.useEntry {s : State} (h : ExitLaw s) (g : Gen) (e : AdvertEntry) : ExitLaw (Sys2Proof.Machine.useEntry g e s).1 := by
  have move := s.takeRecord_frame e.passage (s.usedRecord g e)
  have opens := (s.takeRecord_shows e.passage (s.usedRecord g e)).opens
  have formed := h.formed.takeRecord e.passage (s.usedRecord g e)
  have reasons (x) : ((s.takeRecord e.passage (s.usedRecord g e)).exits.exits.get x).reasons = (s.exits.exits.get x).reasons := by
    rw [State.takeRecord_get]
    split <;> rfl
  unfold Sys2Proof.Machine.useEntry
  dsimp only
  generalize s.takeRecord e.passage (s.usedRecord g e) = t at move opens formed reasons
  have leaves := move.leaves
  have active : t.active = s.active := leaves.active
  have door (x) : t.doorHolds x = s.doorHolds x :=
    State.doorHolds_same (fun l => by rw [active]) (by rw [leaves.grace]; exact Iff.rfl) fun l _ => opens l
  have hazard (x) : t.hazardHolds x = s.hazardHolds x := State.hazardHolds_congr active leaves.zones x
  have noLink (x) : t.noLinkHolds x = s.noLinkHolds x := State.noLinkHolds_congr active x
  have stale (x) : t.staleHolds x = (s.setPassage e.passage (s.usedRecord g e)).staleHolds x :=
    State.staleHolds_congr leaves.active (fun p => by rw [leaves.boundary]) x
  have derived {x} (d : s.derives (s.exits.exits.get x).reasons x)
      (kept : (s.setPassage e.passage (s.usedRecord g e)).staleHolds x = s.staleHolds x) : t.derives (t.exits.exits.get x).reasons x := by
    rw [reasons]
    rw [State.derives_iff] at d ⊢
    rw [door, hazard, noLink, stale, kept]
    exact d
  split
  · rename_i heard
    rw [exitLaw_iff]
    refine ⟨formed, fun x defined => ?_⟩
    rw [active] at defined
    refine derived (h.derives defined) (State.staleHolds_congr (s := s) (t := s.setPassage e.passage (s.usedRecord g e)) rfl (fun p => ?_) x)
    show ((s.boundary.passages.set e.passage (s.usedRecord g e)).get p).state = _
    rw [Table.get_set]
    split
    · rename_i own
      rw [own, heard]
      rfl
    · rfl
  · refine (deriveStaleOf_part e.passage t).exitLaw formed fun x defined => ?_
    rw [active] at defined
    have d := h.derives defined
    refine State.derives_given (fun _ => derives_staleSet d (.inr (reasons x)) (door x) (hazard x) (noLink x)) fun unused => ?_
    rw [active] at unused
    exact derived d (State.staleHolds_of_unused unused _)

theorem ExitLaw.takeAdvert {s : State} (h : ExitLaw s) (a : Advert) : ExitLaw (Sys2Proof.Machine.takeAdvert a s).1 := by
  unfold Sys2Proof.Machine.takeAdvert
  split
  · unfold seeDuplicate
    dsimp only
    split <;> exact h.still rfl rfl rfl rfl
  · refine Emit.each_keeps (P := ExitLaw) (fun e _ t law => ?_) h
    cases used : t.uses a e with
    | false =>
      rw [takeEntry_passed used]
      exact law
    | true =>
      rw [takeEntry_used used]
      exact law.useEntry a.generation e

theorem ExitLaw.goStale {s : State} (h : ExitLaw s) (p : PassageIdx) : ExitLaw (Sys2Proof.Machine.goStale p s).1 := by
  have remote (q) : ((s.setPassage p { s.boundary.passages.get p with state := .stale }).boundary.passages.get q).remote
      = (s.boundary.passages.get q).remote := by
    show ((s.boundary.passages.set p _).get q).remote = _
    rw [Table.get_set]
    split
    · rename_i own
      rw [own]
    · rfl
  have base (e u) := State.baseCost_congr (s := s) (t := s.setPassage p { s.boundary.passages.get p with state := .stale }) rfl remote e u
  refine (deriveStaleOf_part p _).exitLaw (h.formed.congr rfl rfl base) fun e defined => ?_
  have d := h.derives (e := e) defined
  refine State.derives_given (fun _ => derives_staleSet d (.inl rfl) rfl rfl rfl) fun unused => ?_
  exact State.SameConditions.derives (s := s) ⟨rfl, rfl, State.staleHolds_of_unused (s := s) unused _, rfl, base e⟩ d

theorem ExitLaw.exec_boundary {s : State} (h : ExitLaw s) {c : Instr} (hc : reach c = .boundary) : After (exec c s) ExitLaw := by
  have set (b) (passages : b.passages = s.boundary.passages) : ExitLaw (s.setBoundary b) := h.still rfl rfl rfl passages
  cases c with
  | busFree cutOff =>
    refine .of_next ?_
    split
    · exact h
    · split
      · exact set _ rfl
      · refine set _ ?_
        unfold Boundary.startFrame
        split <;> rfl
  | lostArbitration =>
    refine .of_next ?_
    split
    · exact h
    · exact set _ rfl
  | advertSent => exact .of_next (set _ rfl)
  | advertReceived bits =>
    refine .of_next ?_
    split
    · exact h
    · split
      · exact set _ rfl
      · exact (h.takeAdvert _).postAll _
  | advertIntervalExpiry =>
    refine .of_next ?_
    split
    · exact h
    · split
      · exact set _ rfl
      · exact h
  | passageAgeExpiry p =>
    refine .of_next ?_
    split
    · exact (h.goStale p).postAll _
    · exact h
  | duplicateWatchExpiry =>
    refine .of_next ?_
    split
    · exact h
    · split
      · exact set _ rfl
      · exact h
  | _ => cases hc

/-! ## The hall mode -/

theorem ExitLaw.changeMode {s : State} (h : ExitLaw s) (lines : LineLaw s) {m : HallMode} (changed : m ≠ s.alarm.mode) :
    ExitLaw (Sys2Proof.Machine.changeMode m s).1 := by
  have set : ExitLaw (s.setMode m) := h.still rfl rfl rfl rfl
  have moved : ExitLaw (moveGrace m (s.setMode m)).1 := by
    cases m with
    | standby => exact set.endGrace
    | evacuate =>
      unfold moveGrace startGrace
      dsimp only
      split
      · exact set.enterElapsed
      · have idle : s.exits.grace = .idle := lines.grace.2 (by cases mode : s.alarm.mode <;> simp_all)
        refine set.same rfl rfl fun e => ⟨?_, rfl, rfl, rfl, fun _ => rfl⟩
        refine State.doorHolds_same (s := s.setMode .evacuate) (fun _ => rfl) ?_ fun _ _ => rfl
        refine ⟨fun elapsed => (nomatch elapsed), fun elapsed => ?_⟩
        exact nomatch idle.symm.trans elapsed
  unfold Sys2Proof.Machine.changeMode
  dsimp only
  generalize (moveGrace m (s.setMode m)).1 = u at moved
  have driven : ExitLaw (u.drive fun src => src = .hallEvacuate) :=
    moved.same rfl rfl <| State.sameConditions rfl rfl rfl rfl (fun _ => rfl) (fun _ => ⟨rfl, rfl⟩) rfl
      ((State.ShowsBut.refl _ u).drive (p := fun src => src = .hallEvacuate) (x := fun _ => False) fun _ f => f.elim).opens
  generalize u.drive (fun src => src = .hallEvacuate) = v at driven
  obtain ⟨_, hq⟩ := v.recodeSigns_frame m
  rw [hq]
  exact driven.still rfl rfl rfl rfl

theorem ExitLaw.execHallMode {s : State} (h : ExitLaw s) (lines : LineLaw s) : After (exec .hallMode s) ExitLaw := by
  refine .of_next ?_
  split
  · rename_i seq mode _
    have accepted : ExitLaw (s.accept seq) := h.still rfl rfl rfl rfl
    split
    · exact h.dropFrame
    · split
      · exact accepted.dropFrame
      · rename_i changed
        have linesAccepted : LineLaw (s.accept seq) := lines.kept ((State.ShowsBut.refl _ s).still rfl rfl rfl rfl rfl) rfl rfl rfl
        exact ((accepted.changeMode linesAccepted changed).postAll _).kickAll.dropFrame
  · exact h

/-! ## A field adopted -/

theorem State.takeField_passages (s : State) (p : Published) : (s.takeField p).boundary.passages = s.boundary.passages := by
  unfold State.takeField
  split
  · rfl
  · split <;> rfl

theorem adoptField_passages (p : Published) (s : State) : (adoptField p s).1.boundary.passages = s.boundary.passages := by
  unfold adoptField
  dsimp only
  rw [State.takeField_passages]
  generalize hs : ({ s with aspect := { s.aspect with published := some p, lastGeneration := p.field.generation } } : State) = t
  obtain ⟨_, _, he⟩ := t.evalSigns_frame p
  obtain ⟨_, _, hf⟩ := formEgress_frame p (t.evalSigns p)
  rw [hf, he, ← hs]
  rfl

theorem execHandover_passages (s : State) : After (execHandover s) fun t => t.boundary.passages = s.boundary.passages := by
  refine .of_next ?_
  split
  · rfl
  · split
    · dsimp only
      have next (u : State) (ns) : (u.nextRun.kickAll.postAll ns).boundary = u.boundary := by
        obtain ⟨_, hn⟩ := u.nextRun_frame
        obtain ⟨_, _, hk⟩ := u.nextRun.kickAll_frame
        rw [hk, hn]
        rfl
      rw [next, adoptField_passages]
      rfl
    · rfl

/-! ## A new ACTIVE -/

theorem ExitLaw.settles {u t : State} (h : ExitLaw u) (k : u.Settles t) : ExitLaw t := by
  refine h.same (by rw [k.active]) k.records (State.sameConditions (by rw [k.active]) (by rw [k.active]) (by rw [k.active]) (by rw [k.active])
    (fun z => by rw [k.zones]) (fun p => by rw [k.boundary]; exact ⟨rfl, rfl⟩) k.grace fun l => ?_)
  rcases LineMode.output_or (u.active.lines.get l) with ⟨src, output⟩ | other
  · cases held : u.exits.lines.get l with
    | input v start => rw [k.lines.inputs l v start held]
    | output d =>
      rw [k.lines.shown l src d output held trivial]
      rfl
  · rw [k.lines.unnamed l other]

/-- Exits adopted are as the conditions of the new ACTIVE give them (R21, R72). -/
theorem ExitLaw.adopts {s before u : State} (h : ExitLaw s) (exits : before.exits = s.exits) (a : Adopts s.active before u) : ExitLaw u := by
  have record := a.exits
  have formed (e) (defined : u.active.exits.has e = true) : u.exits.exits.get e =
      u.exitRecord e (u.deriveReasons e (s.active.exits.has e && (before.exits.exits.get e).reasons.console)) := by
    rw [record, State.exitUnder, if_pos defined]
  rw [exitLaw_iff]
  refine ⟨⟨fun e none => ?_, fun e defined => ?_, fun e defined => ?_⟩, fun e defined => ?_⟩
  · have undefined : u.active.exits.has e = false := by
      unfold Table.has
      rw [none]
      rfl
    rw [record, State.exitUnder, undefined, exits]
    cases before : s.active.exits.get e with
    | none =>
      have absent : s.active.exits.has e = false := by
        unfold Table.has
        rw [before]
        rfl
      simp only [absent]
      exact h.undefined e before
    | some x =>
      have present : s.active.exits.has e = true := Table.has_iff.2 ⟨x, before⟩
      simp only [present, Bool.false_eq_true, if_false, if_true]
  · rw [formed e defined]
    rfl
  · rw [formed e defined]
    rfl
  · rw [formed e defined]
    exact rfl

/-- The exits as the load event leaves them (R71). -/
theorem ExitLaw.takenUp (s : State) : ExitLaw s.takenUp := by
  have record (e) : s.takenUp.exits.exits.get e = s.loadBanks.loadBeams.loadLines.loadExit e := Table.get_ofFn ..
  have active : s.takenUp.active = s.loadBanks.loadBeams.loadLines.active := rfl
  have same (e) : s.loadBanks.loadBeams.loadLines.SameConditions s.takenUp e :=
    State.sameConditions (s := s.loadBanks.loadBeams.loadLines) (t := s.takenUp) rfl rfl rfl rfl (fun _ => rfl) (fun _ => ⟨rfl, rfl⟩) rfl (fun _ => rfl) e
  rw [exitLaw_iff, active]
  generalize s.loadBanks.loadBeams.loadLines = v at record active same
  have formed (e) (defined : v.active.exits.has e = true) : s.takenUp.exits.exits.get e = v.exitRecord e (v.deriveReasons e false) := by
    rw [record, State.loadExit, if_pos defined]
  refine ⟨⟨fun e none => ?_, fun e defined => ?_, fun e defined => ?_⟩, fun e defined => ?_⟩
  · rw [active] at none
    rw [record, State.loadExit, if_neg]
    rw [Table.has_iff]
    rintro ⟨x, some⟩
    exact nomatch none.symm.trans some
  · rw [active] at defined
    rw [formed e defined]
    rfl
  · rw [active] at defined
    rw [formed e defined, (same e).base]
    rfl
  · rw [formed e defined]
    exact (same e).derives (show v.derives (v.deriveReasons e false) e from rfl)

theorem Layout.exits_empty (e : ExitIdx) : Layout.empty.exits.has e ≠ true := fun defined => by
  obtain ⟨x, hx⟩ := Table.has_iff.1 defined
  rw [show Layout.empty.exits.get e = none from Table.get_replicate ..] at hx
  cases hx

theorem ExitLaw.cold (image : Image) (pins : Table Bool 32) (n : Nat) (q : List Instr) : ExitLaw (State.cold image pins n q) :=
  (exitLaw_iff _).2 ⟨⟨fun _ _ => Table.get_replicate .., fun e defined => absurd defined (Layout.exits_empty e),
    fun e defined => absurd defined (Layout.exits_empty e)⟩, fun e defined => absurd defined (Layout.exits_empty e)⟩

theorem ExitLaw.exec {s : State} (h : ExitLaw s) (lines : LineLaw s) (c : Instr) : After (exec c s) ExitLaw := by
  by_cases whole : reach c = .whole
  · cases c with
    | coldReset => exact .of_next (ExitLaw.cold ..)
    | loadEvent => exact execLoadEvent_keeps h fun _ => (ExitLaw.takenUp s).settles (s.takeUp_settles.postAll _)
    | commitLayout =>
      have adopted := h.adopts (before := s.beforeCommit) rfl (adopt_adopts ..)
      exact execCommitLayout_keeps h h.respond fun _ => adopted.settles ((s.commit_settles rfl).respond _ _)
    | reinit =>
      have adopted := h.adopts (before := s.loadBanks.restartEngine) rfl (adopt_adopts ..)
      exact execReinit_keeps h h.respond fun _ _ => adopted.settles ((s.restart_settles rfl).respond _ _)
    | _ => cases whole
  by_cases zones : reach c = .zones
  · exact h.exec_zones zones
  by_cases exits : reach c = .exits
  · exact h.exec_exits exits
  by_cases boundary : reach c = .boundary
  · exact h.exec_boundary boundary
  by_cases mode : reach c = .mode
  · cases c with
    | hallMode => exact h.execHallMode lines
    | _ => cases mode
  · obtain ⟨t, run, shows⟩ := exec_shows rfl exits whole s
    obtain ⟨t', run', f⟩ := exec_frame rfl whole s
    cases run.symm.trans run'
    have active : t.active.exits = s.active.exits ∧ t.active.nodes = s.active.nodes ∧ t.active.params = s.active.params := by
      by_cases banks : reach c = .banks
      · obtain ⟨t', run', same⟩ := exec_banks_active banks s
        cases run.symm.trans run'
        rcases same with same | ⟨ch, v, set⟩
        · rw [same]
          exact ⟨rfl, rfl, rfl⟩
        · rw [set]
          exact ⟨rfl, rfl, rfl⟩
      · rw [State.active, f.layout banks]
        exact ⟨rfl, rfl, rfl⟩
    have passages : t.boundary.passages = s.boundary.passages := by
      by_cases field : reach c = .field
      · cases c with
        | handover =>
          obtain ⟨t', run', same⟩ := execHandover_passages s
          cases run.symm.trans run'
          exact same
        | _ => cases field
      · rw [f.boundary field boundary]
    obtain ⟨exitTable, nodes, params⟩ := active
    exact ⟨t, run, h.same exitTable (f.records zones exits boundary mode) (State.sameConditions exitTable nodes shows.modes params
      (fun z => by rw [f.zones zones]) (fun p => by rw [passages]; exact ⟨rfl, rfl⟩) (f.grace exits mode) shows.opens)⟩

/-- Settles O51: every event that moves a condition derives the reasons of the exits it concerns. -/
theorem exitLawIsKept : Obligations.ExitLawIsKept := fun _ _ _ lines hs h =>
  step_keeps (P := fun s => LineLaw s ∧ ExitLaw s) (fun _ h => h.2)
    (fun _ _ h => ⟨h.1.kept (State.ShowsBut.still (.refl _ _) rfl rfl rfl rfl rfl) rfl rfl rfl, h.2.still rfl rfl rfl rfl⟩)
    (fun c _ h => h.2.exec h.1 c) ⟨lines, hs⟩ h

end Machine
end Sys2Proof
end

/-!
The items of a layout as bytes (R10 to R12, R204): what each reader accepts, and that an item's bytes read back as the item.
-/
section
namespace Sys2Proof
namespace Machine

/-! ## Fields -/

theorem Except.bind_eq_ok {ε α β : Type} {x : Except ε α} {f : α → Except ε β} {b : β} :
    (x >>= f) = .ok b ↔ ∃ a, x = .ok a ∧ f a = .ok b := by
  cases x with
  | error e => exact ⟨nofun, fun ⟨_, h, _⟩ => nomatch h⟩
  | ok a => exact ⟨fun h => ⟨a, rfl, h⟩, fun ⟨_, h, k⟩ => by cases h; exact k⟩

theorem Except.pure_eq_ok {ε α : Type} {a b : α} : (pure a : Except ε α) = .ok b ↔ a = b := ⟨fun h => by cases h; rfl, fun h => by rw [h]; rfl⟩

theorem Except.map_eq_ok {ε α β : Type} {x : Except ε α} {f : α → β} {b : β} : x.map f = .ok b ↔ ∃ a, x = .ok a ∧ f a = b := by
  cases x with
  | error e => exact ⟨nofun, fun ⟨_, h, _⟩ => nomatch h⟩
  | ok a =>
    refine ⟨fun h => ⟨a, rfl, ?_⟩, fun ⟨_, h, k⟩ => ?_⟩
    · cases h
      rfl
    · cases h
      rw [← k]
      rfl

theorem fieldFin_eq_ok {position n v : Nat} {i : Fin n} : fieldFin position n v = .ok i ↔ v = i.val := by
  unfold fieldFin
  split
  · rename_i h
    refine ⟨fun e => ?_, fun e => ?_⟩
    · cases e
      rfl
    · subst e
      rfl
  · rename_i h
    exact ⟨nofun, fun e => absurd (e ▸ i.isLt) h⟩

theorem fieldNat_eq_ok {position lo hi v m : Nat} : fieldNat position lo hi v = .ok m ↔ v = m ∧ lo ≤ m ∧ m ≤ hi := by
  unfold fieldNat
  split
  · rename_i h
    refine ⟨fun e => ?_, fun ⟨e, _⟩ => by rw [e]⟩
    cases e
    exact ⟨rfl, h⟩
  · rename_i h
    exact ⟨nofun, fun ⟨e, range⟩ => absurd (e ▸ range) h⟩

theorem fieldFin_byte (position : Nat) {n : Nat} (h : n ≤ 256) (i : Fin n) : fieldFin position n (byte i.val).toNat = .ok i :=
  fieldFin_eq_ok.2 (byte_fin_toNat i h)

theorem fieldNat_byte (position : Nat) {lo hi m : Nat} (bytes : hi ≤ 255) (above : lo ≤ m) (below : m ≤ hi) :
    fieldNat position lo hi (byte m).toNat = .ok m :=
  fieldNat_eq_ok.2 ⟨byte_toNat (by omega), above, below⟩

theorem fieldNat_word16 (position : Nat) {lo hi m : Nat} (words : hi ≤ 65535) (above : lo ≤ m) (below : m ≤ hi) :
    fieldNat position lo hi (read16 (byte (m / 256)) (byte m)) = .ok m :=
  fieldNat_eq_ok.2 ⟨read16_bytes (by omega), above, below⟩

theorem fieldBool_boolByte (position : Nat) (b : Bool) : fieldBool position (boolByte b) = .ok b := by cases b <;> rfl

theorem fieldCode_eq_ok {α : Type} {position : Nat} {v : Option α} {a : α} : fieldCode position v = .ok a ↔ v = some a := by
  cases v with
  | none => exact ⟨nofun, nofun⟩
  | some b => exact ⟨fun e => by cases e; rfl, fun e => by cases e; rfl⟩

theorem fieldOpt_optByte {n : Nat} (position : Nat) (h : n ≤ 255) (v : Option (Fin n)) : fieldOpt position n (optByte v) = .ok v := by
  cases v with
  | none => rfl
  | some i =>
    have value : (byte i.val).toNat = i.val := byte_toNat (by omega)
    have other : byte i.val ≠ 0xFF := fun e => by
      have := congrArg BitVec.toNat e
      rw [value] at this
      have : i.val = 255 := this
      omega
    unfold fieldOpt optByte
    rw [if_neg other, value, fieldFin_eq_ok.2 rfl]
    rfl

/-! ## Records in range -/

/-- A segment record in the ranges of its table (R3). -/
def SegRec.Fits (r : SegRec) : Prop := 1 ≤ r.length ∧ r.length ≤ 4095

/-- An exit record in the ranges of its table (R4). -/
def ExitCfg.Fits (r : ExitCfg) : Prop := (1 ≤ r.capacity ∧ r.capacity ≤ 255) ∧ r.bias ≤ 65535

/-- A sign record in the ranges of its table (R5). -/
def SignCfg.Fits (r : SignCfg) : Prop := (1 ≤ r.address ∧ r.address ≤ 96) ∧ 1 ≤ r.faceMap.length ∧ r.faceMap.length ≤ 6

/-- A passage record in the ranges of its table (R6). -/
def PassageCfg.Fits (r : PassageCfg) : Prop := 1 ≤ r.neighbour.val

/-- A beam channel configuration in the ranges of its table (R7). -/
structure BeamCfg.Fits (r : BeamCfg) : Prop where
  offset : r.offset ≤ 4095
  reference : 1 ≤ r.reference ∧ r.reference ≤ 4095
  bands : (1 ≤ r.o1 ∧ r.o1 ≤ 255) ∧ (1 ≤ r.o2 ∧ r.o2 ≤ 255) ∧ (1 ≤ r.o3 ∧ r.o3 ≤ 255)
  levels : 1 ≤ r.l1.val ∧ 1 ≤ r.l2.val ∧ 1 ≤ r.l3.val
  rb : r.rb ≤ 64
  hold : 5 ≤ r.decayHold ∧ r.decayHold ≤ 120

/-- The hall parameters in the ranges of R9. -/
structure HallParams.Fits (r : HallParams) : Prop where
  hazard : ∀ h ∈ r.hazard.toList, 8 ≤ h ∧ h ≤ 255
  tImp : 1 ≤ r.tImp ∧ r.tImp ≤ 8
  gain : r.gain ≤ 255
  margin : r.margin ≤ 32
  tConf : 1 ≤ r.tConf ∧ r.tConf ≤ 60
  doorGrace : r.doorGrace ≤ 10
  headThreshold : 8 ≤ r.headThreshold ∧ r.headThreshold ≤ 255

/-! ## What a reader accepts -/

theorem readSegment_fits {bs : List Byte} {r : SegRec} (h : readSegment bs = .ok (some r)) : r.Fits := by
  unfold readSegment at h
  split at h
  · simp only [Except.bind_eq_ok] at h
    obtain ⟨b, -, h⟩ := h
    cases b with
    | false => cases h
    | true =>
      simp only [if_true, Except.bind_eq_ok, Except.pure_eq_ok, fieldNat_eq_ok, Option.some.injEq] at h
      obtain ⟨_, _, _, _, length, ⟨_, range⟩, _, _, _, _, _, _, rfl⟩ := h
      exact range
  · cases h

theorem readExit_fits {bs : List Byte} {r : ExitCfg} (h : readExit bs = .ok (some r)) : r.Fits := by
  unfold readExit at h
  split at h
  · simp only [Except.bind_eq_ok] at h
    obtain ⟨b, -, h⟩ := h
    cases b with
    | false => cases h
    | true =>
      simp only [if_true, Except.bind_eq_ok, Except.pure_eq_ok, fieldNat_eq_ok, Option.some.injEq] at h
      obtain ⟨_, _, _, _, _, _, capacity, ⟨_, capacities⟩, bias, ⟨_, _, biases⟩, _, _, rfl⟩ := h
      exact ⟨capacities, biases⟩
  · cases h

theorem readPairs_length {bs : List Byte} {position : Nat} {l : List (SegIdx × Dir)} (h : readPairs position bs = .ok l) :
    bs.length = 3 * l.length := by
  induction l generalizing bs position with
  | nil =>
    unfold readPairs at h
    split at h
    · rfl
    · simp only [Except.bind_eq_ok, Except.pure_eq_ok] at h
      obtain ⟨_, _, _, _, _, _, e⟩ := h
      cases e
    · cases h
  | cons q l ih =>
    unfold readPairs at h
    split at h
    · cases h
    · simp only [Except.bind_eq_ok, Except.pure_eq_ok, List.cons.injEq] at h
      obtain ⟨_, _, _, _, _, rest, -, rfl⟩ := h
      simp only [List.length_cons, ih rest]
      omega
    · cases h

theorem readSign_fits {bs : List Byte} {r : SignCfg} (size : bs.length = 8 + 3 * (bs.getD 7 0).toNat) (h : readSign bs = .ok (some r)) :
    r.Fits := by
  unfold readSign at h
  split at h
  · simp only [Except.bind_eq_ok] at h
    obtain ⟨b, -, h⟩ := h
    cases b with
    | false => cases h
    | true =>
      simp only [if_true, Except.bind_eq_ok, Except.pure_eq_ok, fieldNat_eq_ok, Option.some.injEq] at h
      obtain ⟨_, _, address, ⟨_, addresses⟩, _, _, _, _, _, _, _, _, count, ⟨counted, counts⟩, pairs, read, rfl⟩ := h
      have length := readPairs_length read
      simp only [List.length_cons, List.getD_eq_getElem?_getD, List.getElem?_cons_succ, List.getElem?_cons_zero, Option.getD_some] at size
      refine ⟨addresses, ?_⟩
      show 1 ≤ pairs.length ∧ pairs.length ≤ 6
      omega
  · cases h

theorem readPassage_fits {bs : List Byte} {r : PassageCfg} (h : readPassage bs = .ok (some r)) : r.Fits := by
  unfold readPassage at h
  split at h
  · simp only [Except.bind_eq_ok] at h
    obtain ⟨b, -, h⟩ := h
    cases b with
    | false => cases h
    | true =>
      simp only [if_true, Except.bind_eq_ok, Except.pure_eq_ok, fieldNat_eq_ok, fieldFin_eq_ok, Option.some.injEq] at h
      obtain ⟨_, ⟨value, range, _⟩, neighbour, same, _, _, rfl⟩ := h
      show 1 ≤ neighbour.val
      omega
  · cases h

theorem fieldBandLevel_eq_ok {position : Nat} {b : Byte} {l : Level} : fieldBandLevel position b = .ok l ↔ b.toNat = l.val ∧ 1 ≤ l.val := by
  unfold fieldBandLevel
  simp only [Except.bind_eq_ok, fieldNat_eq_ok, fieldFin_eq_ok]
  constructor
  · rintro ⟨_, ⟨value, range, _⟩, same⟩
    exact ⟨same, by omega⟩
  · rintro ⟨same, range⟩
    exact ⟨_, ⟨rfl, by omega, by omega⟩, same⟩

theorem readBeam_fits {bs : List Byte} {r : BeamCfg} (h : readBeam bs = .ok r) : r.Fits := by
  unfold readBeam at h
  split at h
  · simp only [Except.bind_eq_ok, Except.pure_eq_ok, fieldNat_eq_ok, fieldBandLevel_eq_ok] at h
    obtain ⟨_, _, _, _, _, ⟨_, _, offset⟩, _, ⟨_, reference⟩, _, ⟨_, o1⟩, _, ⟨_, o2⟩, _, ⟨_, o3⟩, _, ⟨_, l1⟩, _, ⟨_, l2⟩, _, ⟨_, l3⟩,
      _, ⟨_, _, rb⟩, _, ⟨_, hold⟩, rfl⟩ := h
    exact ⟨offset, reference, ⟨o1, o2, o3⟩, ⟨l1, l2, l3⟩, rb, hold⟩
  · cases h

theorem readParams_fits {bs : List Byte} {r : HallParams} (h : readParams bs = .ok r) : r.Fits := by
  unfold readParams at h
  split at h
  · simp only [Except.bind_eq_ok, Except.pure_eq_ok, fieldNat_eq_ok] at h
    obtain ⟨_, _, _, ⟨_, h0⟩, _, ⟨_, h1⟩, _, ⟨_, h2⟩, _, ⟨_, h3⟩, _, ⟨_, h4⟩, _, ⟨_, h5⟩, _, ⟨_, h6⟩, _, ⟨_, h7⟩, _, ⟨_, tImp⟩,
      _, ⟨_, _, gain⟩, _, ⟨_, _, margin⟩, _, ⟨_, tConf⟩, _, ⟨_, _, grace⟩, _, _, _, _, _, _, _, _, _, ⟨_, threshold⟩, rfl⟩ := h
    refine ⟨fun v mem => ?_, tImp, gain, margin, tConf, grace, threshold⟩
    simp only [List.mem_cons, List.not_mem_nil, or_false] at mem
    rcases mem with rfl | rfl | rfl | rfl | rfl | rfl | rfl | rfl
    · exact h0
    · exact h1
    · exact h2
    · exact h3
    · exact h4
    · exact h5
    · exact h6
    · exact h7
  · cases h

/-! ## What the bytes of a record read as -/

theorem fieldBool_yes (position : Nat) : fieldBool position 1 = .ok true := rfl

theorem readNode_bytes (r : Option NodeRec) : readNode (nodeBytes r) = .ok r := by
  cases r with
  | none => rfl
  | some x =>
    simp only [readNode, nodeBytes, fieldBool_yes, fieldFin_byte, Nat.reduceLeDiff]
    rfl

theorem readSegment_bytes {r : Option SegRec} (h : ∀ x, r = some x → x.Fits) : readSegment (segmentBytes r) = .ok r := by
  cases r with
  | none => rfl
  | some x =>
    obtain ⟨lo, hi⟩ := h x rfl
    have rule : DirRule.ofCode x.rule.code = some x.rule := by cases x.rule <;> rfl
    simp only [readSegment, segmentBytes, word16, List.cons_append, List.nil_append, fieldBool_yes, fieldFin_byte, fieldNat_word16, fieldCode_eq_ok.2 rule,
      Nat.reduceLeDiff, lo, hi]
    rfl

theorem readExit_bytes {r : Option ExitCfg} (h : ∀ x, r = some x → x.Fits) : readExit (exitBytes r) = .ok r := by
  cases r with
  | none => rfl
  | some x =>
    obtain ⟨⟨capacity, capacities⟩, bias⟩ := h x rfl
    have kind : ExitKind.ofCode x.kind.code = some x.kind := by cases x.kind <;> rfl
    simp only [readExit, exitBytes, word16, List.cons_append, List.nil_append, fieldBool_yes, fieldFin_byte, fieldNat_byte, fieldNat_word16,
      fieldCode_eq_ok.2 kind, fieldOpt_optByte, Nat.reduceLeDiff, capacity, capacities, bias, Nat.zero_le]
    rfl

theorem readPairs_bytes (position : Nat) (l : List (SegIdx × Dir)) : readPairs position (l.flatMap pairBytes) = .ok l := by
  induction l generalizing position with
  | nil => rfl
  | cons q l ih =>
    have segment : fieldFin position 768 (read16 (byte (q.1.val / 256)) (byte q.1.val)) = .ok q.1 :=
      fieldFin_eq_ok.2 (read16_bytes (by omega))
    rw [List.flatMap_cons]
    simp only [pairBytes, word16, List.cons_append, List.nil_append, readPairs, segment, fieldFin_byte, Nat.reduceLeDiff, ih]
    rfl

theorem Aspect.ofCode_code (a : Aspect) : Aspect.ofCode a.code = some a := by
  cases a with
  | arrow d => revert d; decide
  | _ => rfl

theorem readSign_bytes {r : Option SignCfg} (h : ∀ x, r = some x → x.Fits) : readSign (signBytes r) = .ok r := by
  cases r with
  | none => rfl
  | some x =>
    obtain ⟨⟨address, addresses⟩, count, counts⟩ := h x rfl
    have role : SignRole.ofCode x.role.code = some x.role := by cases x.role <;> rfl
    simp only [readSign, signBytes, List.cons_append, List.nil_append, fieldBool_yes, fieldFin_byte, fieldNat_byte, fieldBool_boolByte,
      fieldCode_eq_ok.2 role, fieldCode_eq_ok.2 (Aspect.ofCode_code _), readPairs_bytes, Nat.reduceLeDiff, address, addresses, count, counts]
    rfl

theorem readPassage_bytes {r : Option PassageCfg} (h : ∀ x, r = some x → x.Fits) : readPassage (passageBytes r) = .ok r := by
  cases r with
  | none => rfl
  | some x =>
    have range : 1 ≤ x.neighbour.val := h x rfl
    have hall : x.neighbour.val ≤ 15 := by omega
    simp only [readPassage, passageBytes, fieldBool_yes, fieldFin_byte, fieldNat_byte, Nat.reduceLeDiff, range, hall]
    rfl

theorem fieldBandLevel_byte (position : Nat) {l : Level} (h : 1 ≤ l.val) : fieldBandLevel position (byte l.val) = .ok l :=
  fieldBandLevel_eq_ok.2 ⟨byte_fin_toNat l (by decide), h⟩

theorem readBeam_bytes {r : BeamCfg} (h : r.Fits) : readBeam r.bytes = .ok r := by
  obtain ⟨offset, ⟨reference, references⟩, ⟨⟨o1, o1'⟩, ⟨o2, o2'⟩, o3, o3'⟩, ⟨l1, l2, l3⟩, rb, hold, holds⟩ := h
  simp only [readBeam, BeamCfg.bytes, word16, List.cons_append, List.nil_append, fieldBool_boolByte, fieldFin_byte, fieldNat_byte, fieldNat_word16,
    fieldBandLevel_byte, Nat.reduceLeDiff, Nat.zero_le, offset, reference, references, o1, o1', o2, o2', o3, o3', l1, l2, l3, rb, hold, holds]
  rfl

theorem readParams_bytes {r : HallParams} (h : r.Fits) : readParams r.bytes = .ok r := by
  obtain ⟨hazard, ⟨tImp, tImps⟩, gain, margin, ⟨tConf, tConfs⟩, grace, ⟨threshold, thresholds⟩⟩ := h
  obtain ⟨hallId, ⟨table, size⟩, _, _, _, _, _, _, _, _, rule, _⟩ := r
  have code : HealthRule.ofCode rule.code = some rule := by cases rule <;> rfl
  match table, size with
  | [h0, h1, h2, h3, h4, h5, h6, h7], _ =>
    simp only [List.mem_cons, List.not_mem_nil, or_false, forall_eq_or_imp, forall_eq] at hazard
    simp only [readParams, HallParams.bytes, List.map_cons, List.map_nil, List.cons_append, List.nil_append, fieldFin_byte, fieldNat_byte,
      fieldCode_eq_ok.2 code, Nat.reduceLeDiff, Nat.zero_le, hazard, tImp, tImps, gain, margin, tConf, tConfs, grace, threshold, thresholds]
    rfl

theorem readLine_bytes (r : LineMode) : readLine r.bytes = .ok r := by
  have exit (e : ExitIdx) : (byte e.val).toNat = e.val := byte_fin_toNat e (by decide)
  cases r with
  | inputPlain => rfl
  | inputDoor => rfl
  | output src =>
    cases src with
    | exitInUse e =>
      refine fieldCode_eq_ok.2 ((dif_pos (show (byte e.val).toNat < 24 by rw [exit]; exact e.isLt)).trans ?_)
      simp only [exit]
    | exitClosed e =>
      refine fieldCode_eq_ok.2 ((dif_pos (show (byte e.val).toNat < 24 by rw [exit]; exact e.isLt)).trans ?_)
      simp only [exit]
    | hallEvacuate => rfl
    | noEgressAny => rfl
    | alarmLinkLost => rfl

/-! ## Items -/

/-- The reference of an item (1.2). -/
def Item.ref : Item → ItemRef
  | .params _ => .params
  | .node i _ => .node i
  | .segment i _ => .segment i
  | .exit i _ => .exit i
  | .sign i _ => .sign i
  | .passage i _ => .passage i
  | .beam i _ => .beam i
  | .line i _ => .line i

/-- The fields of an item as bytes (R204). -/
def Item.fields : Item → List Byte
  | .params r => r.bytes
  | .node _ r => nodeBytes r
  | .segment _ r => segmentBytes r
  | .exit _ r => exitBytes r
  | .sign _ r => signBytes r
  | .passage _ r => passageBytes r
  | .beam _ r => r.bytes
  | .line _ r => r.bytes

/-- An item in the ranges its table gives (R11); the fields of a record that is not defined are not checked. -/
def Item.Fits : Item → Prop
  | .params r => r.Fits
  | .node _ _ => True
  | .segment _ r => ∀ x, r = some x → x.Fits
  | .exit _ r => ∀ x, r = some x → x.Fits
  | .sign _ r => ∀ x, r = some x → x.Fits
  | .passage _ r => ∀ x, r = some x → x.Fits
  | .beam _ r => r.Fits
  | .line _ _ => True

theorem Layout.item_ref (a : Layout) (ref : ItemRef) : (a.item ref).ref = ref := by cases ref <;> rfl

theorem Layout.fields_eq (a : Layout) (ref : ItemRef) : a.fields ref = (a.item ref).fields := by cases ref <;> rfl

theorem Layout.put_item (a : Layout) (item : Item) (ref : ItemRef) : (a.put item).item ref = if ref = item.ref then item else a.item ref := by
  by_cases same : ref = item.ref
  · rw [if_pos same, same]
    cases item with
    | params r => rfl
    | node i r => exact congrArg (Item.node i) (Table.get_set_self ..)
    | segment i r => exact congrArg (Item.segment i) (Table.get_set_self ..)
    | exit i r => exact congrArg (Item.exit i) (Table.get_set_self ..)
    | sign i r => exact congrArg (Item.sign i) (Table.get_set_self ..)
    | passage i r => exact congrArg (Item.passage i) (Table.get_set_self ..)
    | beam i r => exact congrArg (Item.beam i) (Table.get_set_self ..)
    | line i r => exact congrArg (Item.line i) (Table.get_set_self ..)
  · rw [if_neg same]
    have other {n : Nat} {α : Type} (f : Fin n → ItemRef) (t : Table α n) (i j : Fin n) (v : α) (h : f j ≠ f i) : (t.set i v).get j = t.get j :=
      Table.get_set_ne _ _ fun e => h (by rw [e])
    cases item <;> cases ref
    case node.node => exact congrArg (Item.node _) (other .node _ _ _ _ same)
    case segment.segment => exact congrArg (Item.segment _) (other .segment _ _ _ _ same)
    case exit.exit => exact congrArg (Item.exit _) (other .exit _ _ _ _ same)
    case sign.sign => exact congrArg (Item.sign _) (other .sign _ _ _ _ same)
    case passage.passage => exact congrArg (Item.passage _) (other .passage _ _ _ _ same)
    case beam.beam => exact congrArg (Item.beam _) (other .beam _ _ _ _ same)
    case line.line => exact congrArg (Item.line _) (other .line _ _ _ _ same)
    case params.params => exact absurd rfl same
    all_goals rfl

theorem signBytes_length (r : Option SignCfg) (h : ∀ x, r = some x → x.Fits) :
    (signBytes r).length = 8 + 3 * ((signBytes r).getD 7 0).toNat := by
  cases r with
  | none => rfl
  | some x =>
    obtain ⟨-, -, counts⟩ := h x rfl
    have pairs (l : List (SegIdx × Dir)) : (l.flatMap pairBytes).length = 3 * l.length := by
      induction l with
      | nil => rfl
      | cons q l ih =>
        rw [List.flatMap_cons, List.length_append, ih]
        show 3 + _ = 3 * (l.length + 1)
        omega
    have count : (byte x.faceMap.length).toNat = x.faceMap.length := byte_toNat (by omega)
    show (x.faceMap.flatMap pairBytes).length + 8 = 8 + 3 * (byte x.faceMap.length).toNat
    rw [pairs, count, Nat.add_comm]

/-- The fields of an item in range have the length its table gives, and read back as the item. -/
theorem Item.reads_back {item : Item} (h : item.Fits) :
    item.fields.length = item.ref.size item.fields ∧ readItem item.ref item.fields = .ok item := by
  cases item with
  | params r =>
    refine ⟨?_, congrArg (Except.map _) (readParams_bytes h)⟩
    show (r.hazard.toList.map byte ++ _).length + 1 = 19
    simp [r.hazard.size_eq]
  | node i r => exact ⟨by cases r <;> rfl, congrArg (Except.map _) (readNode_bytes r)⟩
  | segment i r => exact ⟨by cases r <;> rfl, congrArg (Except.map _) (readSegment_bytes h)⟩
  | exit i r => exact ⟨by cases r <;> rfl, congrArg (Except.map _) (readExit_bytes h)⟩
  | sign i r => exact ⟨signBytes_length r h, congrArg (Except.map _) (readSign_bytes h)⟩
  | passage i r => exact ⟨by cases r <;> rfl, congrArg (Except.map _) (readPassage_bytes h)⟩
  | beam i r => exact ⟨rfl, congrArg (Except.map _) (readBeam_bytes h)⟩
  | line i r => exact ⟨by rcases r with _ | _ | (_ | _ | _ | _ | _) <;> rfl, congrArg (Except.map _) (readLine_bytes r)⟩

/-- What a reader accepts is an item of the reference, in range. -/
theorem readItem_fits {ref : ItemRef} {fields : List Byte} {item : Item} (size : fields.length = ref.size fields)
    (h : readItem ref fields = .ok item) : item.ref = ref ∧ item.Fits := by
  cases ref with
  | params =>
    obtain ⟨r, read, rfl⟩ := Except.map_eq_ok.1 h
    exact ⟨rfl, readParams_fits read⟩
  | node i =>
    obtain ⟨r, -, rfl⟩ := Except.map_eq_ok.1 h
    exact ⟨rfl, trivial⟩
  | segment i =>
    obtain ⟨r, read, rfl⟩ := Except.map_eq_ok.1 h
    exact ⟨rfl, fun x hx => readSegment_fits (hx ▸ read)⟩
  | exit i =>
    obtain ⟨r, read, rfl⟩ := Except.map_eq_ok.1 h
    exact ⟨rfl, fun x hx => readExit_fits (hx ▸ read)⟩
  | sign i =>
    obtain ⟨r, read, rfl⟩ := Except.map_eq_ok.1 h
    exact ⟨rfl, fun x hx => readSign_fits size (hx ▸ read)⟩
  | passage i =>
    obtain ⟨r, read, rfl⟩ := Except.map_eq_ok.1 h
    exact ⟨rfl, fun x hx => readPassage_fits (hx ▸ read)⟩
  | beam i =>
    obtain ⟨r, read, rfl⟩ := Except.map_eq_ok.1 h
    exact ⟨rfl, readBeam_fits read⟩
  | line i =>
    obtain ⟨r, -, rfl⟩ := Except.map_eq_ok.1 h
    exact ⟨rfl, trivial⟩

theorem Layout.inRange_iff (a : Layout) : a.InRange ↔ ∀ ref, (a.item ref).Fits := by
  refine ⟨fun h ref => ?_, fun h ref => ?_⟩
  · obtain ⟨size, read⟩ := h ref
    exact (readItem_fits size read).2
  · have back := Item.reads_back (h ref)
    rw [a.item_ref] at back
    rw [a.fields_eq]
    exact back

theorem Layout.InRange.put {a : Layout} (h : a.InRange) {item : Item} (fits : item.Fits) : (a.put item).InRange := by
  rw [Layout.inRange_iff] at h ⊢
  intro ref
  rw [Layout.put_item]
  split
  · exact fits
  · exact h ref

/-- Settles O42: an accepted item reads back, and a bank keeps its others. -/
theorem itemsReadBack : Obligations.ItemsReadBack := by
  intro a ref fields item read size
  obtain ⟨rfl, fits⟩ := readItem_fits size read
  have own : (a.put item).item item.ref = item := by rw [Layout.put_item, if_pos rfl]
  obtain ⟨length, back⟩ := Item.reads_back fits
  refine ⟨own, ?_, ?_, fun other different => ?_⟩
  · rw [Layout.fields_eq, own]
    exact length
  · rw [Layout.fields_eq, own]
    exact back
  · rw [Layout.put_item, if_neg different]

/-! ## Images -/

theorem Layout.inRange_empty : Layout.empty.InRange := by
  rw [Layout.inRange_iff]
  have none {α : Type} {n : Nat} {P : α → Prop} (i : Fin n) : ∀ x, (Table.replicate n (none : Option α)).get i = some x → P x := by
    rw [Table.get_replicate]
    nofun
  intro ref
  cases ref with
  | params => exact ⟨by decide, by decide, by decide, by decide, by decide, by decide, by decide⟩
  | node i => exact trivial
  | segment i => exact none i
  | exit i => exact none i
  | sign i => exact none i
  | passage i => exact none i
  | beam i =>
    show ((Table.replicate 8 BeamCfg.empty).get i).Fits
    rw [Table.get_replicate]
    exact ⟨by decide, by decide, by decide, by decide, by decide, by decide⟩
  | line i => exact trivial

/-- Of the fields of an item, a reader of its length needs no more than the first eight. -/
theorem ItemRef.size_append {ref : ItemRef} {fields : List Byte} (size : fields.length = ref.size fields) (rest : List Byte) :
    ref.size (fields ++ rest) = ref.size fields := by
  cases ref with
  | sign i =>
    have enough : 7 < fields.length := by
      rw [size]
      show 7 < 8 + _
      omega
    show 8 + 3 * ((fields ++ rest).getD 7 0).toNat = 8 + 3 * (fields.getD 7 0).toNat
    rw [List.getD_append _ _ _ _ enough]
  | _ => rfl

/-- The bytes a load takes for an item have the length its table gives. -/
theorem ItemRef.size_take {ref : ItemRef} {bs : List Byte} (enough : ref.size bs ≤ bs.length) :
    (bs.take (ref.size bs)).length = ref.size (bs.take (ref.size bs)) := by
  rw [List.length_take, Nat.min_eq_left enough]
  cases ref with
  | sign i =>
    show 8 + 3 * (bs.getD 7 0).toNat = 8 + 3 * ((bs.take (8 + 3 * (bs.getD 7 0).toNat)).getD 7 0).toNat
    rw [List.getD_eq_getElem?_getD, List.getD_eq_getElem?_getD, List.getElem?_take_of_lt (by omega)]
  | _ => rfl

/-- Items read one after another are each in range, and a load that ends has read all of them. -/
theorem readItems_inRange {a b : Layout} {refs : List ItemRef} {bs rest : List Byte} (h : a.InRange) (read : readItems a refs bs = some (b, rest)) :
    b.InRange := by
  induction refs generalizing a bs with
  | nil =>
    cases read
    exact h
  | cons ref refs ih =>
    unfold readItems at read
    dsimp only at read
    split at read
    · cases read
    · rename_i enough
      split at read
      · cases read
      · rename_i item accepted
        exact ih (h.put (readItem_fits (ItemRef.size_take (Nat.not_lt.1 enough)) accepted).2) read

theorem Image.layout_inRange {m : Image} {a : Layout} (h : m.layout = some a) : a.InRange := by
  unfold Image.layout at h
  split at h
  · cases h
  · split at h
    · unfold readLayoutPart at h
      split at h
      · rename_i read
        cases h
        exact readItems_inRange Layout.inRange_empty read
      · cases h
    · cases h

/-- The items of a bank, one behind the other, are read back one by one. -/
theorem readItems_bytes {a : Layout} (h : a.InRange) (refs : List ItemRef) (b : Layout) (rest : List Byte) :
    ∃ c, readItems b refs (refs.flatMap a.fields ++ rest) = some (c, rest)
      ∧ ∀ ref, c.item ref = if ref ∈ refs then a.item ref else b.item ref := by
  induction refs generalizing b with
  | nil => exact ⟨b, rfl, fun ref => by simp⟩
  | cons ref refs ih =>
    obtain ⟨size, read⟩ := h ref
    obtain ⟨c, rest_read, items⟩ := ih (b.put (a.item ref))
    have whole : ref.size ((ref :: refs).flatMap a.fields ++ rest) = (a.fields ref).length := by
      rw [List.flatMap_cons, List.append_assoc, ItemRef.size_append size, size]
    refine ⟨c, ?_, fun other => ?_⟩
    · unfold readItems
      dsimp only
      rw [whole, List.flatMap_cons, List.append_assoc, List.take_left, List.drop_left, read, if_neg (by rw [List.length_append]; omega)]
      exact rest_read
    · rw [items, Layout.put_item, a.item_ref]
      by_cases same : other = ref
      · rw [same]
        simp
      · simp [same]

/-- Two banks with the same items are the same. -/
theorem Layout.ext_items {a b : Layout} (h : ∀ ref, a.item ref = b.item ref) : a = b := by
  have params := Item.params.inj (h .params)
  have nodes : a.nodes = b.nodes := Table.ext_get fun i => (Item.node.inj (h (.node i))).2
  have segments : a.segments = b.segments := Table.ext_get fun i => (Item.segment.inj (h (.segment i))).2
  have exits : a.exits = b.exits := Table.ext_get fun i => (Item.exit.inj (h (.exit i))).2
  have signs : a.signs = b.signs := Table.ext_get fun i => (Item.sign.inj (h (.sign i))).2
  have passages : a.passages = b.passages := Table.ext_get fun i => (Item.passage.inj (h (.passage i))).2
  have beams : a.beams = b.beams := Table.ext_get fun i => (Item.beam.inj (h (.beam i))).2
  have lines : a.lines = b.lines := Table.ext_get fun i => (Item.line.inj (h (.line i))).2
  cases a
  cases b
  simp_all

theorem mem_imageItems (ref : ItemRef) : ref ∈ imageItems := by
  unfold imageItems
  cases ref <;> simp

/-- Settles O43: an image's layout part and check stand where a load looks for them, and each item reads back. -/
theorem imagesReadBack : Obligations.ImagesReadBack := by
  intro a h
  have length : a.imageBytes.length - 2 = a.bytes.length := by
    rw [Layout.imageBytes, List.length_append]
    exact Nat.add_sub_cancel ..
  have part : layoutPart a.imageBytes = a.bytes := by
    rw [layoutPart, length, Layout.imageBytes, List.take_left]
  have valid : crcValid a.imageBytes = true := by
    rw [crcValid, part, length, Layout.imageBytes, List.drop_left, List.length_append, decide_eq_true rfl, Bool.and_true]
    exact decide_eq_true (Nat.le_add_left ..)
  obtain ⟨c, read, items⟩ := readItems_bytes h imageItems Layout.empty []
  rw [List.append_nil] at read
  have same : c = a := Layout.ext_items fun ref => by rw [items, if_pos (mem_imageItems ref)]
  refine ⟨valid, ?_⟩
  show (if crcValid a.imageBytes then readLayoutPart (layoutPart a.imageBytes) else none) = some a
  rw [if_pos valid, part, readLayoutPart, Layout.bytes, read, same]

/-! ## The law of the banks -/

theorem State.imageLayout_inRange (s : State) : s.imageLayout.InRange := by
  unfold State.imageLayout
  cases load : s.store.image.load with
  | none => exact Layout.inRange_empty
  | some a =>
    unfold Image.load at load
    split at load
    · cases load
    · rename_i held
      split at load
      · cases load
        exact Image.layout_inRange held
      · cases load

theorem Layout.InRange.setReference {a : Layout} (h : a.InRange) (ch : BeamIdx) {v : Nat} (low : 1 ≤ v) (high : v ≤ 4095) :
    (a.setReference ch v).InRange := by
  obtain ⟨offset, -, bands, levels, rb, hold⟩ := (Layout.inRange_iff a).1 h (.beam ch)
  exact h.put (item := .beam ch { a.beams.get ch with reference := v }) ⟨offset, ⟨low, high⟩, bands, levels, rb, hold⟩

/-- The corrected value of a channel is at most the mean of its readings (R41). -/
theorem BeamLaw.corrected_le {s : State} (h : BeamLaw s) {ch : BeamIdx} {v : Nat} (corrected : (s.beams.get ch).corrected = some v) :
    v ≤ 4095 := by
  have some_working : (s.beams.get ch).working.isSome = true := by rw [← h.corrected, corrected]; rfl
  obtain ⟨w, working⟩ := Option.isSome_iff_exists.1 some_working
  have mean := h.working ch
  rw [working] at mean
  split at mean
  · rename_i four
    have bound : (s.beams.get ch).history.sum ≤ (s.beams.get ch).history.length • 4095 := List.sum_le_card_nsmul _ _ (h.readings ch)
    have least := h.least ch v w corrected working
    rw [four] at bound
    cases mean
    simp only [smul_eq_mul] at bound
    omega
  · cases mean

theorem LayoutLaw.congr {s t : State} (h : LayoutLaw s) (layout : t.layout = s.layout) (copy : t.store.copy = s.store.copy) : LayoutLaw t :=
  ⟨by rw [layout]; exact h.active, by rw [layout]; exact h.staging, by rw [copy]; exact h.copy⟩

theorem LayoutLaw.respond {s : State} (h : LayoutLaw s) (st : Status) (b : List Byte) : LayoutLaw (s.respond st b) := h.congr rfl rfl

theorem LayoutLaw.exec_banks {s : State} (h : LayoutLaw s) (beams : BeamLaw s) {c : Instr} (hc : reach c = .banks) :
    After (exec c s) LayoutLaw := by
  cases c with
  | writeLayout =>
    refine .of_next (State.serve_keeps h (fun _ => h.respond) fun body _ long => ?_)
    unfold writeLengthOk at long
    split
    · exact h.respond _ _
    · rename_i ref named
      rw [named] at long
      have size : (body.drop 3).length = ref.size (body.drop 3) := by
        rw [List.length_drop, of_decide_eq_true long, Nat.add_sub_cancel_left]
      split
      · exact h.respond _ _
      · rename_i item accepted
        exact LayoutLaw.respond (s := s.setStaging (s.layout.staging.put item)) ⟨h.active, h.staging.put (readItem_fits size accepted).2, h.copy⟩ _ _
  | stageFromActive => exact After.served h h.respond fun _ => LayoutLaw.respond (s := s.setStaging s.layout.active) ⟨h.active, h.active, h.copy⟩ _ _
  | calibrateBeam =>
    refine After.served h h.respond fun body => ?_
    split
    · dsimp only
      split
      · exact h.respond _ _
      · split
        · exact h.respond _ _
        · split
          · exact h.respond _ _
          · split
            · exact h.respond _ _
            · rename_i v corrected
              split
              · exact h.respond _ _
              · rename_i enough
                have low : 1 ≤ v := by
                  simp only [Config.calibrateMin] at enough
                  omega
                have high := beams.corrected_le corrected
                exact LayoutLaw.respond (s := s.setReference ⟨arg body 0, ‹_›⟩ v) ⟨h.active.setReference _ low high, h.staging.setReference _ low high, h.copy⟩ _ _
    · exact h.respond _ _
  | _ => cases hc

theorem LayoutLaw.exec_store {s : State} (h : LayoutLaw s) {c : Instr} (hc : reach c = .store) : After (exec c s) LayoutLaw := by
  have gone (u : State) (layout : u.layout = s.layout) (copy : u.store.copy = none) : LayoutLaw u :=
    ⟨by rw [layout]; exact h.active, by rw [layout]; exact h.staging, by rw [copy]; nofun⟩
  cases c with
  | storeLayout =>
    refine After.served h h.respond fun _ => ?_
    split
    · exact h.respond _ _
    · split
      · exact h.respond _ _
      · split
        · exact h.respond _ _
        · exact LayoutLaw.respond (s := s.startStore) ⟨h.active, h.staging, fun a held => by cases held; exact h.active⟩ _ _
  | eraseComplete =>
    refine .of_next ?_
    split
    · exact h.congr rfl rfl
    · exact h
  | writeComplete r =>
    refine .of_next ?_
    split
    · exact ⟨h.active, h.staging, fun b held => h.copy b held⟩
    · exact h
  | verifyComplete =>
    refine .of_next ?_
    split
    · split
      · exact gone _ rfl rfl
      · exact gone _ rfl rfl
    · exact h
  | _ => cases hc

theorem State.commit_staging (s : State) : s.commit.layout = { active := s.layout.staging, staging := s.layout.staging } := by
  obtain ⟨_, _, _, _, _, _, _, _, _, _, h⟩ := adopt_frame s.active s.beforeCommit
  rw [(s.commit_settles rfl).layout, h]
  rfl

theorem State.restart_banks (s : State) : s.restart.layout = { active := s.imageLayout, staging := s.imageLayout } := by
  obtain ⟨_, _, _, _, _, _, _, _, _, _, h⟩ := adopt_frame s.active s.loadBanks.restartEngine
  rw [(s.restart_settles rfl).layout, h]
  rfl

theorem LayoutLaw.exec {s : State} (h : LayoutLaw s) (beams : BeamLaw s) (c : Instr) : After (exec c s) LayoutLaw := by
  by_cases whole : reach c = .whole
  · cases c with
    | coldReset =>
      rw [execColdReset_eq]
      exact .of_next ⟨Layout.inRange_empty, Layout.inRange_empty, nofun⟩
    | loadEvent =>
      refine execLoadEvent_keeps h fun _ => ⟨?_, ?_, ?_⟩
      · rw [State.postAll_layout, s.takeUp_settles.layout]
        exact s.imageLayout_inRange
      · rw [State.postAll_layout, s.takeUp_settles.layout]
        exact s.imageLayout_inRange
      · rw [State.postAll_store, State.takeUp_store]
        exact h.copy
    | commitLayout =>
      refine execCommitLayout_keeps h h.respond fun _ => LayoutLaw.respond ⟨?_, ?_, ?_⟩ _ _
      · rw [State.commit_staging]
        exact h.staging
      · rw [State.commit_staging]
        exact h.staging
      · rw [State.commit_store]
        exact h.copy
    | reinit =>
      refine execReinit_keeps h h.respond fun _ _ => LayoutLaw.respond ⟨?_, ?_, ?_⟩ _ _
      · rw [State.restart_banks]
        exact s.imageLayout_inRange
      · rw [State.restart_banks]
        exact s.imageLayout_inRange
      · rw [State.restart_store]
        exact h.copy
    | _ => cases whole
  by_cases banks : reach c = .banks
  · exact h.exec_banks beams banks
  by_cases store : reach c = .store
  · exact h.exec_store store
  · exact (exec_frame rfl whole s).imp fun t f => h.congr (f.layout banks) (by rw [f.store store])

/-- Settles O60: what the banks take is an item in range, a layout they hold, or a reference within the readings. -/
theorem layoutLawIsKept : Obligations.LayoutLawIsKept := fun _ _ beams hs h =>
  step_keeps (P := fun s => BeamLaw s ∧ LayoutLaw s) (fun _ h => h.2) (fun _ _ h => ⟨{ h.1 with }, h.2.congr rfl rfl⟩)
    (fun c _ h => h.2.exec h.1 c) ⟨beams, hs⟩ h

end Machine
end Sys2Proof
end

/-!
Before the load event (R198): every block stays as the cold reset left it, and the reset state meets every law.
-/
section
namespace Sys2Proof
namespace Machine

/-! ## What is empty before the load event -/

/-- The port may move, but starts no transfer. -/
theorem AwaitingLoad.setPort {s : State} (h : AwaitingLoad s) {p : Port} (state : p.state = .free) (ready : p.ready = false)
    (awaiting : p.awaiting = false) : AwaitingLoad (s.setPort p) :=
  { h with port := ⟨state, ready, awaiting⟩ }

theorem AwaitingLoad.postAll {s : State} (h : AwaitingLoad s) (ns : List Notice) : AwaitingLoad (s.postAll ns) :=
  h.setPort (p := s.port.postAll ns) ((Port.postAll_state ..).trans h.port.1) ((Port.postAll_ready ..).trans h.port.2.1)
    ((Port.postAll_awaiting ..).trans h.port.2.2)

theorem AwaitingLoad.tick {s : State} (h : AwaitingLoad s) : AwaitingLoad (s.setPort s.port.tick) := by
  obtain ⟨state, ready, awaiting⟩ := h.port
  refine h.setPort ?_ ?_ ?_
  all_goals
    unfold Port.tick Port.post
    dsimp only
    split
    · split <;> assumption
    · assumption

/-- No request waits, so none is served. -/
theorem AwaitingLoad.serve {s : State} (h : AwaitingLoad s) (code : Byte) (ok : List Byte → Bool) (bad : List Byte) (act : List Byte → State) :
    s.serve code ok bad act = s :=
  if_neg (by rw [h.port.1]; nofun)

theorem AwaitingLoad.active {s : State} (h : AwaitingLoad s) : s.active = Layout.empty := by rw [State.active, h.banks]

theorem AwaitingLoad.taken {s : State} (h : AwaitingLoad s) : s.taken = none := by rw [State.taken, h.alarm]

theorem AwaitingLoad.setReasons {s : State} (h : AwaitingLoad s) (e : ExitIdx) (r : ReasonSet) : Sys2Proof.Machine.setReasons e r s = (s, []) := by
  have undefined : s.active.exits.has e = false := by
    rw [h.active]
    exact Bool.eq_false_iff.2 (Layout.exits_empty e)
  unfold Sys2Proof.Machine.setReasons
  rw [undefined]
  rfl

/-- No sign is defined, so no trunk has anything to send. -/
theorem AwaitingLoad.kick {s : State} (h : s.active = Layout.empty) (t : TrunkIdx) : s.kick t = s := by
  have undefined (i c) : ¬ s.signOn t i c := by
    rintro ⟨defined, -⟩
    rw [h, show Layout.empty.signs.get i = none from Table.get_replicate ..] at defined
    cases defined
  have all : s.active.onTrunk t = [] := List.eq_nil_iff_forall_not_mem.2 fun e mem => undefined e.1 e.2 ((Layout.mem_onTrunk ..).1 mem)
  have polled : s.roundRobinOn t = none := by
    unfold State.roundRobinOn
    rw [all]
    rfl
  unfold State.kick
  rw [s.queuedOn_eq_none t (fun j _ d => undefined j d), s.defaultOn_eq_none t (fun j d owes => undefined j d owes.1), polled]
  exact ite_self s

theorem AwaitingLoad.setTrunk {s : State} (h : AwaitingLoad s) (t : TrunkIdx) {r : TrunkRec} (idle : r.exchange = none) : AwaitingLoad (s.setTrunk t r) := by
  refine { h with exchanges := fun k => ?_ }
  show ((s.signLine.trunks.set t r).get k).exchange = none
  rw [Table.get_set]
  split
  · exact idle
  · exact h.exchanges k

/-! ## The commands before the load event -/

theorem AwaitingLoad.exec_port {s : State} (h : AwaitingLoad s) (unloaded : s.loaded = false) {c : Instr} (hc : reach c = .port) :
    After (exec c s) AwaitingLoad := by
  have served (code ok bad act) : After (.next (s.serve code ok bad act)) AwaitingLoad := .of_next (by rw [h.serve]; exact h)
  obtain ⟨state, ready, awaiting⟩ := h.port
  cases c with
  | hallClockTick => exact .of_next h.tick
  | clockWrap =>
    refine .of_next ?_
    split
    · exact h.tick
    · exact h
  | transferFirstClock => exact .of_next (by rw [if_neg (by rw [ready]; nofun)]; exact h)
  | lostTransfer =>
    refine .of_next ?_
    split
    · exact h
    · exact h.setPort state ready awaiting
  | firstByte b => exact .of_next (by rw [if_neg (by rw [awaiting]; nofun)]; exact h)
  | requestEnd bytes => exact .of_next (by rw [state]; exact h)
  | consoleGapLimit =>
    refine .of_next ?_
    split
    · exact h.setPort state (by rw [State.readyAfterLost, unloaded]; rfl) awaiting
    · rw [awaiting, state]
      exact h
  | fetchEnd => exact .of_next (by rw [state]; exact h)
  | readStatus => exact served ..
  | fetchNotices => exact served ..
  | readRoute => exact served ..
  | readExits => exact served ..
  | readZones => exact served ..
  | readSigns => exact served ..
  | readLines => exact served ..
  | readLayout => exact served ..
  | _ => cases hc

theorem AwaitingLoad.exec_signLine {s : State} (h : AwaitingLoad s) {c : Instr} (hc : reach c = .signLine) : After (exec c s) AwaitingLoad := by
  have closed (t) : s.openExchange t = none := by
    unfold State.openExchange
    rw [show (s.trunk t).exchange = none from h.exchanges t]
  cases c with
  | trunkFrameEnd t => exact .of_next (by rw [show (s.trunk t).exchange = none from h.exchanges t]; exact h)
  | replyComplete t bytes => exact .of_next (by rw [closed]; exact h)
  | replyWindowExpiry t any => exact .of_next (by rw [closed]; exact h)
  | trunkOvercurrent t =>
    refine .of_next ?_
    split
    · exact (h.setTrunk t rfl).postAll _
    · exact h
  | holdOffExpiry t =>
    refine .of_next ?_
    split
    · exact h.setTrunk t (h.exchanges t)
    · exact h
  | trunkRestored t =>
    refine .of_next ?_
    split
    · dsimp only
      have back := h.setTrunk t (r := { s.trunk t with state := .inService, holdOff := none }) (h.exchanges t)
      rw [AwaitingLoad.kick back.active]
      exact back.postAll _
    · exact h
  | trunkRecheckOvercurrent t =>
    refine .of_next ?_
    split
    · exact h.setTrunk t rfl
    · exact h
  | _ => cases hc

theorem AwaitingLoad.exec_boundary {s : State} (h : AwaitingLoad s) {c : Instr} (hc : reach c = .boundary) : After (exec c s) AwaitingLoad := by
  obtain ⟨lastBuild, owed, waiting, inFlight⟩ := h.adverts
  have watched (w : DupWatch) : AwaitingLoad (s.setBoundary { s.boundary with watch := w }) := { h with }
  have bad : AwaitingLoad s.badFrame := { h with }
  cases c with
  | busFree cutOff =>
    refine .of_next ?_
    split
    · exact h
    · split
      · exact bad
      · have still : s.boundary.startFrame = s.boundary := by
          unfold Boundary.startFrame
          rw [inFlight, waiting]
        rw [still]
        exact { h with }
  | lostArbitration => exact .of_next (by rw [inFlight]; exact h)
  | advertSent => exact .of_next { h with adverts := ⟨lastBuild, owed, waiting, rfl⟩ }
  | advertReceived bits =>
    refine .of_next ?_
    split
    · exact h
    · split
      · exact bad
      · refine AwaitingLoad.postAll ?_ _
        unfold takeAdvert
        split
        · unfold seeDuplicate
          dsimp only
          split <;> exact watched _
        · refine Emit.each_keeps (P := fun t => AwaitingLoad t) (fun e _ t law => ?_) h
          have absent : t.active.passages.get e.passage = none := by rw [law.active]; exact Table.get_replicate ..
          unfold takeEntry
          rw [absent]
          exact law
  | advertIntervalExpiry =>
    have unpublished : s.aspect.published = none := by rw [h.aspect]
    exact .of_next (by rw [unpublished]; exact h)
  | passageAgeExpiry p =>
    have unheard : s.ageExpired p = false := by
      unfold State.ageExpired
      rw [h.passages, Table.get_replicate]
      rfl
    exact .of_next (by rw [if_neg (by rw [unheard]; nofun)]; exact h)
  | duplicateWatchExpiry =>
    refine .of_next ?_
    split
    · exact h
    · split
      · exact watched _
      · exact h
  | _ => cases hc

theorem AwaitingLoad.exec_alarm {s : State} (h : AwaitingLoad s) (unloaded : s.loaded = false) {c : Instr} (hc : reach c = .alarm) :
    After (exec c s) AwaitingLoad := by
  have line (l) : s.alarm.line l = AlarmLineRec.cold := by rw [h.alarm]; cases l <;> rfl
  cases c with
  | alarmStartByte l => exact .of_next (by rw [unloaded]; exact h)
  | alarmFrameEnd l bytes => exact .of_next (by rw [line]; exact h)
  | alarmGapLimit l => exact .of_next (by rw [line]; exact h)
  | supervisionExpiry l =>
    have stopped : s.supervisionOver l = false := by rw [State.supervisionOver, line]; rfl
    exact .of_next (by rw [if_neg (by rw [stopped]; nofun)]; exact h)
  | supervise => exact .of_next (by rw [h.taken]; exact h)
  | statusRequest => exact .of_next (by rw [h.taken]; exact h)
  | egressStatusSent l => exact .of_next (by rw [line]; exact h)
  | _ => cases hc

theorem AwaitingLoad.exec_exits {s : State} (h : AwaitingLoad s) {c : Instr} (hc : reach c = .exits) : After (exec c s) AwaitingLoad := by
  have doors (t : State) (law : AwaitingLoad t) (l : LineIdx) : AwaitingLoad (deriveDoorsOf l t).1 :=
    Emit.each_keeps (P := AwaitingLoad) (fun e _ u held => by rw [deriveDoor, held.setReasons]; exact held) law
  cases c with
  | setExitClosure => exact .of_next (by rw [h.serve]; exact h)
  | discretePinChange l active => exact .of_next { h with }
  | debounceExpiry l =>
    refine .of_next ?_
    split
    · split
      · exact (doors (s.setLineRec l _) { h with } l).postAll _
      · exact h
    · exact h
    · exact h
  | doorGraceExpiry => exact .of_next (by rw [h.grace]; exact h)
  | _ => cases hc

theorem State.cold_awaits (image : Image) (pins : Table Bool 32) (n : Nat) (q : List Instr) : AwaitingLoad (State.cold image pins n q) :=
  ⟨rfl, rfl, rfl, rfl, rfl, rfl, rfl, rfl, rfl, fun _ => by simp only [State.cold, Table.get_replicate]; rfl, rfl,
    ⟨rfl, rfl, rfl, rfl⟩, rfl, ⟨rfl, rfl⟩, ⟨rfl, rfl, rfl⟩⟩

/-- Until the load event every command leaves the blocks as they are. -/
theorem AwaitingLoad.exec {s : State} (h : AwaitingLoad s) (unloaded : s.loaded = false) {c : Instr} (hc : c ≠ .loadEvent) :
    After (exec c s) AwaitingLoad := by
  have served (code ok bad act) : After (.next (s.serve code ok bad act)) AwaitingLoad := .of_next (by rw [h.serve]; exact h)
  have idle : s.engine.run = none := by rw [h.engine]
  have still (phase work) : s.advanceRun phase work = s := by rw [State.advanceRun, idle]
  have copy := h.store.2
  cases k : reach c with
  | port => exact h.exec_port unloaded k
  | banks =>
    cases c with
    | writeLayout => exact served ..
    | stageFromActive => exact served ..
    | calibrateBeam => exact served ..
    | _ => cases k
  | zones =>
    cases c with
    | setZoneLevel => exact served ..
    | beamSample ch r =>
      have disabled : (s.beams.get ch).state = .disabled := by rw [h.beams, Table.get_replicate]; rfl
      exact .of_next (by rw [disabled]; exact h)
    | zoneReport => exact .of_next (by rw [h.taken]; exact h)
    | _ => cases k
  | exits => exact h.exec_exits k
  | store =>
    cases c with
    | storeLayout => exact served ..
    | eraseComplete => exact .of_next (by rw [h.store.1]; exact h)
    | writeComplete r => exact .of_next (by rw [h.store.1]; exact h)
    | verifyComplete => exact .of_next (by rw [h.store.1]; exact h)
    | _ => cases k
  | engine =>
    cases c with
    | runStart => exact .of_next (by rw [h.engine]; exact h)
    | refreshIntervalExpiry =>
      have fresh : s.refreshExpired = false := by rw [State.refreshExpired, h.engine]
      exact .of_next (by rw [if_neg (by rw [fresh]; nofun)]; exact h)
    | snapshotComplete => exact .of_next (by rw [still]; exact h)
    | pass1Complete => exact .of_next (by rw [still]; exact h)
    | loadComplete => exact .of_next (by rw [still]; exact h)
    | pass2Complete => exact .of_next (by rw [still]; exact h)
    | nexthopComplete => exact .of_next (by rw [still]; exact h)
    | _ => cases k
  | field =>
    cases c with
    | handover => exact .of_next (by rw [idle]; exact h)
    | _ => cases k
  | signLine => exact h.exec_signLine k
  | boundary => exact h.exec_boundary k
  | alarm => exact h.exec_alarm unloaded k
  | mode =>
    cases c with
    | hallMode => exact .of_next (by rw [h.taken]; exact h)
    | _ => cases k
  | whole =>
    cases c with
    | coldReset => exact .of_next (State.cold_awaits _ _ _ _)
    | loadEvent => exact absurd rfl hc
    | commitLayout => exact served ..
    | reinit => exact served ..
    | _ => cases k

/-- A part that has loaded stays so, but for a cold reset. -/
theorem exec_loaded {s : State} (loaded : s.loaded = true) {c : Instr} (hc : c ≠ .coldReset) : After (exec c s) fun t => t.loaded = true := by
  by_cases whole : reach c = .whole
  · cases c with
    | coldReset => exact absurd rfl hc
    | loadEvent => exact execLoadEvent_keeps loaded fun unloaded => nomatch loaded.symm.trans unloaded
    | commitLayout => exact execCommitLayout_keeps loaded (fun _ _ => loaded) fun _ =>
        (State.respond_loaded ..).trans (s.commit_loaded.trans loaded)
    | reinit => exact execReinit_keeps loaded (fun _ _ => loaded) fun _ _ =>
        (State.respond_loaded ..).trans (s.restart_loaded.trans loaded)
    | _ => cases whole
  · exact (exec_frame rfl whole s).imp fun t f => f.loaded.trans loaded

/-- Settles O45: only the load event ends the time before it, and only a cold reset begins it again. -/
theorem blocksAwaitTheLoad : Obligations.BlocksAwaitTheLoad := fun s t awaiting h =>
  step_keeps (P := fun s => s.loaded = false → AwaitingLoad s) (Q := fun t => t.loaded = false → AwaitingLoad t) (fun _ h => h)
    (fun _ _ h unloaded => { h unloaded with }) (fun c s h => by
      cases unloaded : s.loaded with
      | false =>
        by_cases load : c = .loadEvent
        · subst load
          have runs : exec .loadEvent s = .next (s.takeUp.postAll s.noLayoutNotice) :=
            congrArg Host.Outcome.next (if_neg (by rw [unloaded]; nofun))
          rw [runs]
          refine .of_next fun early => ?_
          rw [State.postAll_loaded, State.takeUp_loaded] at early
          cases early
        · exact ((h unloaded).exec unloaded load).imp fun _ k _ => k
      | true =>
        by_cases cold : c = .coldReset
        · subst cold
          exact .of_next fun _ => State.cold_awaits _ _ _ _
        · exact (exec_loaded unloaded cold).imp fun t loaded early => nomatch loaded.symm.trans early) awaiting h

/-! ## The reset state -/

/-- Settles O44: the values of a cold reset meet each law. -/
theorem resetMeetsEveryLaw : Obligations.ResetMeetsEveryLaw := by
  have formed (z) := State.cold_forms .erased (Table.replicate 32 false) 0 [] z
  refine ⟨PortLaw.cold _ _ _ _, fun z => (formed z).1, fun z => (formed z).2, ?_, LineLaw.cold _ _ _ _, ExitLaw.cold _ _ _ _, OutputLaw.cold _ _ _ _, ?_, ?_, ?_, ?_, .cold rfl,
    .rest rfl rfl rfl nofun, .rest rfl (.inl rfl), ⟨Layout.inRange_empty, Layout.inRange_empty, nofun⟩, State.cold_awaits _ _ _ _⟩
  · refine (beamLaw_iff _).2 fun c => ?_
    simp only [State.reset, State.cold, State.active, Layout.empty, Table.get_replicate]
    exact .cold
  · refine (signLaw_iff _).2 fun i => ?_
    simp only [State.reset, State.cold, Table.get_replicate]
    exact .dark _
  · refine (headLaw_iff _).2 ⟨List.nodup_nil, fun _ _ => List.not_mem_nil, fun i => ?_⟩
    simp only [State.reset, State.cold, Table.get_replicate]
    exact .cold false
  · refine (trunkLaw_iff _).2 fun t => ?_
    simp only [State.reset, State.cold, Table.get_replicate]
    exact ⟨by simp [TrunkRec.cold], fun _ => rfl, fun _ => rfl⟩
  · refine (passageLaw_iff _).2 ⟨fun p => ?_, fun _ => ⟨rfl, rfl⟩, Nat.zero_le _⟩
    simp only [State.reset, State.cold, Table.get_replicate]
    exact .cold ..

end Machine
end Sys2Proof
end

/-!
The pass (R85 to R88): an invariant of the settling of nodes, from which the costs are the cheapest ways to a source.
-/
section
namespace Sys2Proof
namespace Machine

/-! ## Sums and ways -/

theorem sumCost_ge_left {a b : Nat} (h : a ≤ Config.inf) : a ≤ sumCost a b := by
  unfold sumCost
  split
  · omega
  · exact h

theorem sumCost_le_inf (a b : Nat) : sumCost a b ≤ Config.inf := by
  unfold sumCost
  split
  · rename_i within
    exact Nat.le_trans within (Nat.le_succ _)
  · exact Nat.le_refl _

theorem sumCost_inf (b : Nat) : sumCost Config.inf b = Config.inf := by
  unfold sumCost
  exact if_neg (Nat.not_le.2 (Nat.lt_of_lt_of_le (Nat.lt_succ_self _) (Nat.le_add_right Config.inf b)))

theorem sumCost_eq_of_lt {a b : Nat} (h : sumCost a b < Config.inf) : sumCost a b = a + b := by
  unfold sumCost at h ⊢
  split
  · rfl
  · rename_i beyond
    rw [if_neg beyond] at h
    exact absurd h (Nat.lt_irrefl _)

/-- A finite cost is one below INF (R83). -/
theorem finite_iff {c : Cost} : c ≤ Config.maxCost ↔ c < Config.inf := Nat.lt_succ_iff.symm

/-- A segment is open and may be travelled from `n` to its other end `m` (R80, R82). -/
def Layout.way (a : Layout) (levels : Table Level 48) (n : NodeIdx) (g : SegRec) (m : NodeIdx) : Prop :=
  g.otherEnd n = some m ∧ a.segOpen levels g = true ∧ g.mayTravel n = true

theorem SegRec.otherEnd_symm {g : SegRec} {n m : NodeIdx} (h : g.otherEnd n = some m) : g.otherEnd m = some n := by
  unfold SegRec.otherEnd at h ⊢
  split at h
  · rename_i first
    cases h
    by_cases loop : g.endA = g.endB
    · rw [if_pos loop, ← loop, first]
    · rw [if_neg loop, if_pos rfl, first]
  · rename_i first
    split at h
    · rename_i second
      cases h
      rw [if_pos rfl, second]
    · cases h

theorem Layout.wayCost_eq_some {a : Layout} {levels : Table Level 48} {nodes : Table NodeWork 256} {n : NodeIdx} {g : SegRec} {c : Cost} :
    a.wayCost levels nodes n g = some c ↔ ∃ m, a.way levels n g m ∧ c = sumCost (nodes.get m).cost (a.segCost levels g) := by
  unfold Layout.wayCost Layout.way
  cases h : g.otherEnd n with
  | none => simp
  | some m =>
    by_cases travelled : a.segOpen levels g = true ∧ g.mayTravel n = true
    · simp [travelled, eq_comm]
    · have shut : (a.segOpen levels g && g.mayTravel n) = false := by simpa using travelled
      rw [shut]
      simp only [Bool.false_eq_true, if_false]
      exact ⟨fun e => (nomatch e), fun ⟨k, ⟨_, travelledTo⟩, _⟩ => absurd travelledTo travelled⟩

/-! ## The frontier -/

theorem insertFrontier_perm (nodes : Table NodeWork 256) (n : NodeIdx) (l : List NodeIdx) : (insertFrontier nodes n l).Perm (n :: l) := by
  induction l with
  | nil => exact .refl _
  | cons x l ih =>
    unfold insertFrontier
    split
    · exact .refl _
    · exact (List.Perm.cons x ih).trans (.swap n x l)

/-- The frontier stays in the order of costs (R86). -/
theorem insertFrontier_sorted {nodes : Table NodeWork 256} {n : NodeIdx} {l : List NodeIdx}
    (h : l.Pairwise fun x y => (nodes.get x).cost ≤ (nodes.get y).cost) :
    (insertFrontier nodes n l).Pairwise fun x y => (nodes.get x).cost ≤ (nodes.get y).cost := by
  induction l with
  | nil => exact List.pairwise_singleton _ _
  | cons x l ih =>
    obtain ⟨first, rest⟩ := List.pairwise_cons.1 h
    unfold insertFrontier
    split
    · rename_i before
      have le : (nodes.get n).cost ≤ (nodes.get x).cost := by
        unfold frontierBefore at before
        simp only [Bool.or_eq_true, Bool.and_eq_true, decide_eq_true_eq] at before
        rcases before with lt | ⟨eq, -⟩
        · exact Nat.le_of_lt lt
        · exact Nat.le_of_eq eq
      refine List.pairwise_cons.2 ⟨fun y mem => ?_, h⟩
      rcases List.mem_cons.1 mem with rfl | mem
      · exact le
      · exact Nat.le_trans le (first y mem)
    · rename_i behind
      have le : (nodes.get x).cost ≤ (nodes.get n).cost := by
        unfold frontierBefore at behind
        simp only [Bool.or_eq_true, Bool.and_eq_true, decide_eq_true_eq, not_or] at behind
        exact Nat.not_lt.1 behind.1
      refine List.pairwise_cons.2 ⟨fun y mem => ?_, ih rest⟩
      rcases List.mem_cons.1 ((insertFrontier_perm nodes n l).mem_iff.1 mem) with rfl | mem
      · exact le
      · exact first y mem

/-! ## A pass in progress -/

/-- A node's finite cost comes from an own source, or from a way onward to a settled node (R85, R87). -/
def PassState.Justified (a : Layout) (levels : Table Level 48) (source : ExitIdx → Cost) (p : PassState) (n : NodeIdx) (c : Cost) : Prop :=
  (∃ e x, a.exits.get e = some x ∧ x.node = n ∧ source e = c)
  ∨ ∃ i g m, a.segments.get i = some g ∧ a.way levels n g m ∧ (p.nodes.get m).settled = true
    ∧ c = sumCost (p.nodes.get m).cost (a.segCost levels g)

/-- What holds between the offers of a pass: the frontier is the reached nodes not yet settled, in the order of their costs; the settled
nodes are the cheapest, and their positions follow their costs. -/
structure PassState.Sound (a : Layout) (levels : Table Level 48) (source : ExitIdx → Cost) (p : PassState) : Prop where
  range : ∀ n, (p.nodes.get n).cost ≤ Config.inf
  frontier : ∀ n, n ∈ p.frontier ↔ (p.nodes.get n).cost < Config.inf ∧ (p.nodes.get n).settled = false
  nodup : p.frontier.Nodup
  sorted : p.frontier.Pairwise fun x y => (p.nodes.get x).cost ≤ (p.nodes.get y).cost
  finite : ∀ n, (p.nodes.get n).settled = true → (p.nodes.get n).cost < Config.inf
  cheapest : ∀ n m, (p.nodes.get n).settled = true → (p.nodes.get m).settled = false → (p.nodes.get n).cost ≤ (p.nodes.get m).cost
  justified : ∀ n, (p.nodes.get n).cost < Config.inf → p.Justified a levels source n (p.nodes.get n).cost
  placed : ∀ n, (p.nodes.get n).settled = true → ∃ k, (p.nodes.get n).position = some k ∧ k < p.count
  ordered : ∀ n m k j, (p.nodes.get n).settled = true → (p.nodes.get m).settled = true → (p.nodes.get n).position = some k →
    (p.nodes.get m).position = some j → k ≤ j → (p.nodes.get n).cost ≤ (p.nodes.get m).cost
  unset : ∀ n, (p.nodes.get n).next = none ∧ (p.nodes.get n).route = none

/-- From `p` to `q` offers are made: the settled nodes stay as they are, and a cost only falls. -/
structure PassState.Offers (p q : PassState) : Prop where
  settled : ∀ n, (q.nodes.get n).settled = (p.nodes.get n).settled
  kept : ∀ n, (p.nodes.get n).settled = true → q.nodes.get n = p.nodes.get n
  falls : ∀ n, (q.nodes.get n).cost ≤ (p.nodes.get n).cost
  count : q.count = p.count

theorem PassState.Offers.refl (p : PassState) : p.Offers p := ⟨fun _ => rfl, fun _ _ => rfl, fun _ => Nat.le_refl _, rfl⟩

theorem PassState.Offers.trans {p q r : PassState} (h : p.Offers q) (k : q.Offers r) : p.Offers r where
  settled n := (k.settled n).trans (h.settled n)
  kept n s := (k.kept n ((h.settled n).trans s)).trans (h.kept n s)
  falls n := Nat.le_trans (k.falls n) (h.falls n)
  count := k.count.trans h.count

theorem PassState.offer_get (p : PassState) (n : NodeIdx) (c : Cost) (m : NodeIdx) : (p.offer n c).nodes.get m =
    if m = n ∧ c < (p.nodes.get n).cost then { p.nodes.get n with cost := c } else p.nodes.get m := by
  unfold PassState.offer
  dsimp only
  by_cases lower : c < (p.nodes.get n).cost
  · rw [if_pos lower, Table.get_set]
    simp only [lower, and_true]
  · rw [if_neg lower, if_neg fun h => lower h.2]

theorem PassState.offer_offers {p : PassState} {n : NodeIdx} (unsettled : (p.nodes.get n).settled = false) (c : Cost) : p.Offers (p.offer n c) where
  settled m := by
    rw [PassState.offer_get]
    split
    · rename_i h
      rw [h.1]
    · rfl
  kept m s := by
    rw [PassState.offer_get, if_neg]
    rintro ⟨rfl, -⟩
    exact nomatch s.symm.trans unsettled
  falls m := by
    rw [PassState.offer_get]
    split
    · rename_i h
      rw [h.1]
      exact Nat.le_of_lt h.2
    · exact Nat.le_refl _
  count := by
    unfold PassState.offer
    dsimp only
    split <;> rfl

theorem PassState.offer_le (p : PassState) (n : NodeIdx) (c : Cost) : ((p.offer n c).nodes.get n).cost ≤ c := by
  rw [PassState.offer_get]
  split
  · exact Nat.le_refl _
  · rename_i h
    exact Nat.not_lt.1 fun lower => h ⟨rfl, lower⟩

theorem PassState.Justified.offers {a : Layout} {levels : Table Level 48} {source : ExitIdx → Cost} {p q : PassState} (h : p.Offers q)
    {n : NodeIdx} {c : Cost} (j : p.Justified a levels source n c) : q.Justified a levels source n c := by
  refine j.imp_right fun ⟨i, g, m, seg, way, settled, cost⟩ => ⟨i, g, m, seg, way, (h.settled m).trans settled, ?_⟩
  rw [h.kept m settled]
  exact cost

/-- A justified offer to a node not yet settled, no lower than the settled costs, keeps the pass sound (R87). -/
theorem PassState.Sound.offer {a : Layout} {levels : Table Level 48} {source : ExitIdx → Cost} {p : PassState} (h : p.Sound a levels source)
    {n : NodeIdx} (unsettled : (p.nodes.get n).settled = false) {c : Cost} (above : ∀ m, (p.nodes.get m).settled = true → (p.nodes.get m).cost ≤ c)
    (justified : c < Config.inf → p.Justified a levels source n c) : (p.offer n c).Sound a levels source := by
  by_cases lower : c < (p.nodes.get n).cost
  · have offers := PassState.offer_offers unsettled c
    have finite : c < Config.inf := Nat.lt_of_lt_of_le lower (h.range n)
    have get (m) : (p.offer n c).nodes.get m = if m = n then { p.nodes.get n with cost := c } else p.nodes.get m := by
      rw [PassState.offer_get]
      simp only [lower, and_true]
    have other {m} (ne : m ≠ n) : (p.offer n c).nodes.get m = p.nodes.get m := by rw [get, if_neg ne]
    have own : (p.offer n c).nodes.get n = { p.nodes.get n with cost := c } := by rw [get, if_pos rfl]
    have front : (p.offer n c).frontier = insertFrontier (p.offer n c).nodes n (p.frontier.erase n) := by
      unfold PassState.offer
      dsimp only
      rw [if_pos lower]
    have perm := insertFrontier_perm (p.offer n c).nodes n (p.frontier.erase n)
    rw [← front] at perm
    have mem (m) : m ∈ (p.offer n c).frontier ↔ m = n ∨ m ∈ p.frontier := by
      rw [perm.mem_iff, List.mem_cons, h.nodup.mem_erase_iff]
      by_cases same : m = n <;> simp [same]
    constructor
    case range =>
      intro m
      exact Nat.le_trans (offers.falls m) (h.range m)
    case frontier =>
      intro m
      rw [mem, offers.settled]
      by_cases same : m = n
      · rw [same, own]
        simp [finite, unsettled]
      · rw [other same, h.frontier]
        simp [same]
    case nodup =>
      exact perm.nodup_iff.2 (List.nodup_cons.2 ⟨h.nodup.not_mem_erase, h.nodup.erase n⟩)
    case sorted =>
      rw [front]
      refine insertFrontier_sorted ((h.sorted.sublist List.erase_sublist).imp_of_mem fun {x y} hx hy le => ?_)
      rw [other (h.nodup.mem_erase_iff.1 hx).1, other (h.nodup.mem_erase_iff.1 hy).1]
      exact le
    case finite =>
      intro m settled
      rw [offers.settled] at settled
      rw [offers.kept m settled]
      exact h.finite m settled
    case cheapest =>
      intro m k settled still
      rw [offers.settled] at settled still
      rw [offers.kept m settled]
      by_cases same : k = n
      · rw [same, own]
        exact above m settled
      · rw [other same]
        exact h.cheapest m k settled still
    case justified =>
      intro m reached
      by_cases same : m = n
      · rw [same, own]
        exact (justified finite).offers offers
      · rw [other same] at reached ⊢
        exact (h.justified m reached).offers offers
    case placed =>
      intro m settled
      rw [offers.settled] at settled
      rw [offers.kept m settled, offers.count]
      exact h.placed m settled
    case ordered =>
      intro m k i j sm sk
      rw [offers.settled] at sm sk
      rw [offers.kept m sm, offers.kept k sk]
      exact h.ordered m k i j sm sk
    case unset =>
      intro m
      rw [get]
      split
      · exact h.unset n
      · exact h.unset m
  · have same : p.offer n c = p := if_neg lower
    rw [same]
    exact h

/-! ## The seeds -/

/-- The sources have been offered (R85). -/
def PassState.Seeded (a : Layout) (source : ExitIdx → Cost) (p : PassState) : Prop :=
  ∀ e x, a.exits.get e = some x → source e < Config.inf → (p.nodes.get x.node).cost ≤ source e

theorem PassState.Seeded.offers {a : Layout} {source : ExitIdx → Cost} {p q : PassState} (h : p.Seeded a source) (o : p.Offers q) :
    q.Seeded a source := fun e x hx finite => Nat.le_trans (o.falls _) (h e x hx finite)

theorem seed_sound (a : Layout) (levels : Table Level 48) (source : ExitIdx → Cost) :
    (seed a source).Sound a levels source ∧ (seed a source).Seeded a source ∧ ∀ n, ((seed a source).nodes.get n).settled = false := by
  have offered (l : List (ExitIdx × ExitCfg)) (hl : ∀ e ∈ l, a.exits.get e.1 = some e.2) (p : PassState) (h : p.Sound a levels source)
      (still : ∀ n, (p.nodes.get n).settled = false) :
      ∃ q, l.foldl (fun p e => if source e.1 ≤ Config.maxCost then p.offer e.2.node (source e.1) else p) p = q ∧ q.Sound a levels source
        ∧ p.Offers q ∧ ∀ e ∈ l, source e.1 < Config.inf → (q.nodes.get e.2.node).cost ≤ source e.1 := by
    induction l generalizing p with
    | nil => exact ⟨p, rfl, h, .refl p, nofun⟩
    | cons e l ih =>
      rw [List.foldl_cons]
      obtain ⟨defined, rest⟩ := List.forall_mem_cons.1 hl
      by_cases finite : source e.1 ≤ Config.maxCost
      · rw [if_pos finite]
        have sound := h.offer (still e.2.node) (c := source e.1) (fun m settled => nomatch settled.symm.trans (still m))
          fun _ => .inl ⟨e.1, e.2, defined, rfl, rfl⟩
        have offers := PassState.offer_offers (still e.2.node) (source e.1)
        obtain ⟨q, eq, soundq, more, seeded⟩ := ih rest _ sound fun n => (offers.settled n).trans (still n)
        refine ⟨q, eq, soundq, offers.trans more, fun f mem hf => ?_⟩
        rcases List.mem_cons.1 mem with rfl | mem
        · exact Nat.le_trans (more.falls _) (p.offer_le _ _)
        · exact seeded f mem hf
      · rw [if_neg finite]
        obtain ⟨q, eq, soundq, more, seeded⟩ := ih rest p h still
        refine ⟨q, eq, soundq, more, fun f mem hf => ?_⟩
        rcases List.mem_cons.1 mem with rfl | mem
        · exact absurd (finite_iff.2 hf) finite
        · exact seeded f mem hf
  have fresh (n : NodeIdx) : (Table.replicate 256 NodeWork.fresh).get n = NodeWork.fresh := Table.get_replicate ..
  have start : PassState.Sound a levels source { nodes := Table.replicate 256 NodeWork.fresh, frontier := [], count := 0 } := by
    constructor
    case range => exact fun n => by rw [fresh]; exact Nat.le_refl _
    case frontier => exact fun n => by rw [fresh]; exact ⟨fun mem => (nomatch mem), fun ⟨lt, _⟩ => absurd lt (Nat.lt_irrefl _)⟩
    case nodup => exact List.nodup_nil
    case sorted => exact List.Pairwise.nil
    case finite => exact fun n => by rw [fresh]; nofun
    case cheapest => exact fun n m => by rw [fresh]; nofun
    case justified => exact fun n => by rw [fresh]; exact fun lt => absurd lt (Nat.lt_irrefl _)
    case placed => exact fun n => by rw [fresh]; nofun
    case ordered => exact fun n m k j => by rw [fresh]; nofun
    case unset => exact fun n => by rw [fresh]; exact ⟨rfl, rfl⟩
  obtain ⟨q, eq, sound, offers, seeded⟩ := offered a.exits.defined (fun e mem => Table.mem_defined.1 mem) _ start fun n => by rw [fresh]; rfl
  have whole : seed a source = q := eq
  rw [whole]
  refine ⟨sound, fun e x hx finite => seeded (e, x) (Table.mem_defined.2 hx) finite, fun n => ?_⟩
  rw [offers.settled, fresh]
  rfl

/-! ## Settling a node -/

/-- A node has offered its cost across its segments (R87). -/
def PassState.Relaxed (a : Layout) (levels : Table Level 48) (p : PassState) (m : NodeIdx) (g : SegRec) : Prop :=
  ∀ n, a.way levels n g m → (p.nodes.get n).cost ≤ sumCost (p.nodes.get m).cost (a.segCost levels g)

theorem PassState.Relaxed.offers {a : Layout} {levels : Table Level 48} {p q : PassState} {m : NodeIdx} {g : SegRec}
    (h : p.Relaxed a levels m g) (settled : (p.nodes.get m).settled = true) (o : p.Offers q) : q.Relaxed a levels m g := by
  intro n way
  rw [o.kept m settled]
  exact Nat.le_trans (o.falls n) (h n way)

/-- What one offer across a segment does, from a settled node no cheaper than any other (R87). -/
theorem PassState.Sound.relax {a : Layout} {levels : Table Level 48} {source : ExitIdx → Cost} {p : PassState} (h : p.Sound a levels source)
    {m : NodeIdx} (settled : (p.nodes.get m).settled = true) (last : ∀ n, (p.nodes.get n).settled = true → (p.nodes.get n).cost ≤ (p.nodes.get m).cost)
    {i : SegIdx} {g : SegRec} (segment : a.segments.get i = some g) :
    (p.relax a levels m (p.nodes.get m).cost g).Sound a levels source ∧ p.Offers (p.relax a levels m (p.nodes.get m).cost g)
      ∧ (p.relax a levels m (p.nodes.get m).cost g).Relaxed a levels m g := by
  have least (n) (done : (p.nodes.get n).settled = true) : (p.nodes.get n).cost ≤ sumCost (p.nodes.get m).cost (a.segCost levels g) :=
    Nat.le_trans (last n done) (sumCost_ge_left (h.range m))
  unfold PassState.relax
  cases other : g.otherEnd m with
  | none =>
    refine ⟨h, .refl p, fun n way => ?_⟩
    exact nomatch other.symm.trans (SegRec.otherEnd_symm way.1)
  | some n =>
    dsimp only
    have only {k} (way : a.way levels k g m) : k = n := Option.some.inj ((SegRec.otherEnd_symm way.1).symm.trans other)
    by_cases offered : (a.segOpen levels g && g.mayTravel n && !(p.nodes.get n).settled) = true
    · rw [if_pos offered]
      simp only [Bool.and_eq_true, Bool.not_eq_true'] at offered
      obtain ⟨⟨segOpen, travel⟩, unsettled⟩ := offered
      have offers := PassState.offer_offers unsettled (sumCost (p.nodes.get m).cost (a.segCost levels g))
      refine ⟨h.offer unsettled least fun _ => .inr ⟨i, g, m, segment, ⟨SegRec.otherEnd_symm other, segOpen, travel⟩, settled, rfl⟩, offers, ?_⟩
      intro k way
      rw [only way, offers.kept m settled]
      exact p.offer_le _ _
    · rw [if_neg offered]
      refine ⟨h, .refl p, fun k way => least k ?_⟩
      cases only way
      simp only [way.2.1, way.2.2, Bool.and_self, Bool.true_and, Bool.not_eq_true', Bool.not_eq_false] at offered
      exact offered

theorem PassState.Sound.relaxAll {a : Layout} {levels : Table Level 48} {source : ExitIdx → Cost} {m : NodeIdx} {l : List (SegIdx × SegRec)}
    (hl : ∀ e ∈ l, a.segments.get e.1 = some e.2) {p : PassState} (h : p.Sound a levels source)
    (settled : (p.nodes.get m).settled = true) (last : ∀ n, (p.nodes.get n).settled = true → (p.nodes.get n).cost ≤ (p.nodes.get m).cost)
    {d : Cost} (hd : d = (p.nodes.get m).cost) :
    ∃ q, l.foldl (fun q e => q.relax a levels m d e.2) p = q ∧ q.Sound a levels source ∧ p.Offers q ∧ ∀ e ∈ l, q.Relaxed a levels m e.2 := by
  induction l generalizing p with
  | nil => exact ⟨p, rfl, h, .refl p, nofun⟩
  | cons e l ih =>
    obtain ⟨segment, rest⟩ := List.forall_mem_cons.1 hl
    obtain ⟨sound, offers, relaxed⟩ := h.relax settled last segment
    rw [← hd] at sound offers relaxed
    rw [List.foldl_cons]
    have done (n) : ((p.relax a levels m d e.2).nodes.get n).settled = true → (p.nodes.get n).settled = true := fun s =>
      (offers.settled n).symm.trans s
    obtain ⟨q, eq, soundq, more, all⟩ := ih rest sound ((offers.settled m).trans settled)
      (fun n s => by rw [offers.kept n (done n s), offers.kept m settled]; exact last n (done n s)) (by rw [offers.kept m settled]; exact hd)
    refine ⟨q, eq, soundq, offers.trans more, fun f mem => ?_⟩
    rcases List.mem_cons.1 mem with rfl | mem
    · exact relaxed.offers ((offers.settled m).trans settled) more
    · exact all f mem

/-- What holds between the settlements of a pass. -/
structure PassState.Running (a : Layout) (levels : Table Level 48) (source : ExitIdx → Cost) (p : PassState) : Prop where
  sound : p.Sound a levels source
  seeded : p.Seeded a source
  relaxed : ∀ m i g, (p.nodes.get m).settled = true → a.segments.get i = some g → p.Relaxed a levels m g

/-- The state of a pass once the first node of its frontier is marked settled. -/
def PassState.marked (p : PassState) (m : NodeIdx) (rest : List NodeIdx) : PassState where
  nodes := p.nodes.set m { p.nodes.get m with settled := true, position := some p.count }
  frontier := rest
  count := p.count + 1

theorem PassState.Sound.marked {a : Layout} {levels : Table Level 48} {source : ExitIdx → Cost} {p : PassState} (h : p.Sound a levels source)
    {m : NodeIdx} {rest : List NodeIdx} (front : p.frontier = m :: rest) : (p.marked m rest).Sound a levels source
      ∧ ∀ n, ((p.marked m rest).nodes.get n).settled = true → ((p.marked m rest).nodes.get n).cost ≤ ((p.marked m rest).nodes.get m).cost := by
  have head := (h.frontier m).1 (by rw [front]; exact List.mem_cons_self)
  obtain ⟨reached, unsettled⟩ := head
  have get (n) : (p.marked m rest).nodes.get n =
      if n = m then { p.nodes.get m with settled := true, position := some p.count } else p.nodes.get n := Table.get_set ..
  have own : (p.marked m rest).nodes.get m = { p.nodes.get m with settled := true, position := some p.count } := by rw [get, if_pos rfl]
  have other {n} (ne : n ≠ m) : (p.marked m rest).nodes.get n = p.nodes.get n := by rw [get, if_neg ne]
  have cost (n) : ((p.marked m rest).nodes.get n).cost = (p.nodes.get n).cost := by
    rw [get]
    split
    · rename_i same
      rw [same]
    · rfl
  have nodup := h.nodup
  rw [front, List.nodup_cons] at nodup
  obtain ⟨fresh, nodup⟩ := nodup
  have sorted := h.sorted
  rw [front, List.pairwise_cons] at sorted
  obtain ⟨first, sorted⟩ := sorted
  have behind (n) (ne : n ≠ m) (still : (p.nodes.get n).settled = false) : (p.nodes.get m).cost ≤ (p.nodes.get n).cost := by
    rcases Nat.lt_or_ge (p.nodes.get n).cost Config.inf with lt | ge
    · have mem := (h.frontier n).2 ⟨lt, still⟩
      rw [front] at mem
      exact first n ((List.mem_cons.1 mem).resolve_left ne)
    · exact Nat.le_trans (h.range m) ge
  have justify {n c} (j : p.Justified a levels source n c) : (p.marked m rest).Justified a levels source n c := by
    refine j.imp_right fun ⟨i, g, k, segment, way, done, eq⟩ => ⟨i, g, k, segment, way, ?_, ?_⟩
    · rw [get]
      split
      · rfl
      · exact done
    · rw [cost]
      exact eq
  have cheap (n) (done : (p.nodes.get n).settled = true) : (p.nodes.get n).cost ≤ (p.nodes.get m).cost := h.cheapest n m done unsettled
  refine ⟨?_, fun n done => ?_⟩
  · constructor
    case range => exact fun n => by rw [cost]; exact h.range n
    case frontier =>
      intro n
      rw [cost]
      by_cases same : n = m
      · rw [same, own]
        exact ⟨fun mem => absurd mem fresh, fun ⟨_, e⟩ => (nomatch e)⟩
      · rw [other same, ← h.frontier, front, List.mem_cons, or_iff_right same]
        rfl
    case nodup => exact nodup
    case sorted =>
      refine sorted.imp fun {x y} le => ?_
      rw [cost, cost]
      exact le
    case finite =>
      intro n done
      rw [cost]
      by_cases same : n = m
      · rw [same]
        exact reached
      · rw [other same] at done
        exact h.finite n done
    case cheapest =>
      intro n k done still
      rw [cost, cost]
      by_cases sameK : k = m
      · rw [sameK, own] at still
        cases still
      · rw [other sameK] at still
        by_cases same : n = m
        · rw [same]
          exact behind k sameK still
        · rw [other same] at done
          exact h.cheapest n k done still
    case justified =>
      intro n lt
      rw [cost] at lt ⊢
      exact justify (h.justified n lt)
    case placed =>
      intro n done
      by_cases same : n = m
      · rw [same, own]
        exact ⟨_, rfl, Nat.lt_succ_self _⟩
      · rw [other same] at done ⊢
        obtain ⟨k, position, lt⟩ := h.placed n done
        exact ⟨k, position, Nat.lt_succ_of_lt lt⟩
    case ordered =>
      intro n k i j doneN doneK positionN positionK le
      rw [cost, cost]
      by_cases same : n = m
      · by_cases sameK : k = m
        · rw [same, sameK]
        · rw [same, own] at positionN
          rw [other sameK] at doneK positionK
          obtain ⟨j', position, lt⟩ := h.placed k doneK
          cases positionN
          cases position.symm.trans positionK
          exact absurd lt (Nat.not_lt.2 le)
      · rw [other same] at doneN positionN
        by_cases sameK : k = m
        · rw [sameK]
          exact cheap n doneN
        · rw [other sameK] at doneK positionK
          exact h.ordered n k i j doneN doneK positionN positionK le
    case unset =>
      intro n
      rw [get]
      split
      · exact h.unset m
      · exact h.unset n
  · rw [cost, cost]
    by_cases same : n = m
    · rw [same]
    · rw [other same] at done
      exact cheap n done

/-- One settlement: the first node of the frontier joins the settled ones, and has offered its cost (R87). -/
theorem PassState.Running.settle {a : Layout} {levels : Table Level 48} {source : ExitIdx → Cost} {p : PassState} (h : p.Running a levels source)
    {m : NodeIdx} {rest : List NodeIdx} (front : p.frontier = m :: rest) : (p.settle a levels).Running a levels source
      ∧ ((p.settle a levels).nodes.get m).settled = true
      ∧ ∀ n, (p.nodes.get n).settled = true → ((p.settle a levels).nodes.get n).settled = true := by
  obtain ⟨sound, last⟩ := h.sound.marked front
  have get (n) : (p.marked m rest).nodes.get n =
      if n = m then { p.nodes.get m with settled := true, position := some p.count } else p.nodes.get n := Table.get_set ..
  have done : ((p.marked m rest).nodes.get m).settled = true := by rw [get, if_pos rfl]
  have cost (n) : ((p.marked m rest).nodes.get n).cost = (p.nodes.get n).cost := by
    rw [get]
    split
    · rename_i same
      rw [same]
    · rfl
  obtain ⟨q, eq, soundq, offers, relaxed⟩ := sound.relaxAll (l := a.segments.defined) (fun e mem => Table.mem_defined.1 mem) done last (cost m).symm
  have whole : p.settle a levels = q := by
    rw [← eq]
    unfold PassState.settle
    rw [front]
    rfl
  rw [whole]
  have kept (n) (settled : (p.nodes.get n).settled = true) : ((p.marked m rest).nodes.get n).settled = true := by
    rw [get]
    split
    · rfl
    · exact settled
  refine ⟨⟨soundq, ?_, fun k i g settled segment => ?_⟩, (offers.settled m).trans done, fun n settled => (offers.settled n).trans (kept n settled)⟩
  · refine PassState.Seeded.offers (p := p.marked m rest) (fun e x hx finite => ?_) offers
    rw [cost]
    exact h.seeded e x hx finite
  · rw [offers.settled] at settled
    by_cases same : k = m
    · rw [same]
      exact relaxed (i, g) (Table.mem_defined.2 segment)
    · refine PassState.Relaxed.offers (p := p.marked m rest) (fun n way => ?_) settled offers
      rw [get, if_neg same] at settled
      rw [cost, cost]
      exact h.relaxed k i g settled segment n way

/-! ## The whole pass -/

/-- The nodes a pass has yet to settle. -/
def PassState.unsettled (p : PassState) : Finset NodeIdx := Finset.univ.filter fun n => (p.nodes.get n).settled = false

/-- A pass with rounds for every node not yet settled ends with its frontier empty (R88). -/
theorem passLoop_running {a : Layout} {levels : Table Level 48} {source : ExitIdx → Cost} {k : Nat} {p : PassState}
    (h : p.Running a levels source) (rounds : p.unsettled.card ≤ k) :
    (passLoop a levels k p).Running a levels source ∧ (passLoop a levels k p).frontier = [] := by
  induction k generalizing p with
  | zero =>
    refine ⟨h, List.eq_nil_iff_forall_not_mem.2 fun n mem => ?_⟩
    have none : p.unsettled = ∅ := Finset.card_eq_zero.1 (Nat.le_zero.1 rounds)
    have member : n ∈ p.unsettled := Finset.mem_filter.2 ⟨Finset.mem_univ n, ((h.sound.frontier n).1 mem).2⟩
    rw [none] at member
    exact absurd member (Finset.notMem_empty n)
  | succ k ih =>
    unfold passLoop
    cases front : p.frontier with
    | nil =>
      rw [if_pos (by rfl)]
      exact ⟨h, front⟩
    | cons m rest =>
      rw [if_neg (by rw [List.isEmpty_cons]; exact Bool.false_ne_true)]
      obtain ⟨running, settled, kept⟩ := h.settle front
      refine ih running (Nat.le_of_lt_succ (Nat.lt_of_lt_of_le (Finset.card_lt_card ?_) rounds))
      have mem (q : PassState) (n) : n ∈ q.unsettled ↔ (q.nodes.get n).settled = false := by simp [PassState.unsettled]
      refine Finset.ssubset_iff_subset_ne.2 ⟨fun n still => ?_, fun same => ?_⟩
      · rw [mem] at still ⊢
        by_contra settledBefore
        exact nomatch still.symm.trans (kept n (by simpa using settledBefore))
      · have before : m ∈ p.unsettled := (mem p m).2 ((h.sound.frontier m).1 (by rw [front]; exact List.mem_cons_self)).2
        rw [← same, mem] at before
        exact nomatch before.symm.trans settled

theorem runPass_running (a : Layout) (levels : Table Level 48) (source : ExitIdx → Cost) :
    (runPass a levels source).Running a levels source ∧ (runPass a levels source).frontier = [] := by
  obtain ⟨sound, seeded, still⟩ := seed_sound a levels source
  refine passLoop_running ⟨sound, seeded, fun m i g settled => nomatch settled.symm.trans (still m)⟩ ?_
  exact (Finset.card_le_univ _).trans (by simp)

/-- Settles O37: the invariant of the pass, once its frontier is empty. -/
theorem passCostsAreCheapest : Obligations.PassCostsAreCheapest := by
  rintro a levels source p rfl
  obtain ⟨⟨sound, seeded, relaxed⟩, ended⟩ := runPass_running a levels source
  generalize runPass a levels source = p at sound seeded relaxed ended
  have settles (n) : (p.nodes.get n).settled = true ↔ (p.nodes.get n).cost < Config.inf := by
    refine ⟨sound.finite n, fun lt => ?_⟩
    by_contra still
    have mem := (sound.frontier n).2 ⟨lt, by simpa using still⟩
    rw [ended] at mem
    cases mem
  refine ⟨ended, fun n => ⟨?_, ?_, ?_, ?_, ?_⟩⟩
  · rintro e x hx rfl finite
    exact seeded e x hx (finite_iff.1 finite)
  · intro i g c segment offered
    obtain ⟨m, way, rfl⟩ := Layout.wayCost_eq_some.1 offered
    by_cases settled : (p.nodes.get m).settled = true
    · exact relaxed m i g settled segment n way
    · have unreached : (p.nodes.get m).cost = Config.inf :=
        Nat.le_antisymm (sound.range m) (Nat.not_lt.1 fun lt => settled ((settles m).2 lt))
      rw [unreached, sumCost_inf]
      exact sound.range n
  · rw [finite_iff]
    exact settles n
  · intro still
    refine Nat.le_antisymm (sound.range n) (Nat.not_lt.1 fun lt => ?_)
    exact nomatch still.symm.trans ((settles n).2 lt)
  · intro settled
    refine (sound.justified n (sound.finite n settled)).imp_right fun ⟨i, g, m, segment, way, _, cost⟩ => ?_
    exact ⟨i, g, segment, Layout.wayCost_eq_some.2 ⟨m, way, cost⟩⟩

end Machine
end Sys2Proof
end

/-!
The next hops and the loads of a run (R89 to R96): the derivation walks the settled nodes in the order of their costs, so each finds the
node it leads to already done.
-/
section
namespace Sys2Proof
namespace Machine

/-! ## The settlement order -/

theorem insertSettled_perm (nodes : Table NodeWork 256) (n : NodeIdx) (l : List NodeIdx) : (insertSettled nodes n l).Perm (n :: l) := by
  induction l with
  | nil => exact .refl _
  | cons x l ih =>
    unfold insertSettled
    split
    · exact .refl _
    · exact (List.Perm.cons x ih).trans (.swap n x l)

theorem insertSettled_sorted {nodes : Table NodeWork 256} {n : NodeIdx} {l : List NodeIdx}
    (h : l.Pairwise fun x y => (nodes.get x).position.getD 0 ≤ (nodes.get y).position.getD 0) :
    (insertSettled nodes n l).Pairwise fun x y => (nodes.get x).position.getD 0 ≤ (nodes.get y).position.getD 0 := by
  induction l with
  | nil => exact List.pairwise_singleton _ _
  | cons x l ih =>
    obtain ⟨first, rest⟩ := List.pairwise_cons.1 h
    unfold insertSettled
    split
    · rename_i before
      refine List.pairwise_cons.2 ⟨fun y mem => ?_, h⟩
      rcases List.mem_cons.1 mem with rfl | mem
      · exact Nat.le_of_lt before
      · exact Nat.le_trans (Nat.le_of_lt before) (first y mem)
    · rename_i behind
      refine List.pairwise_cons.2 ⟨fun y mem => ?_, ih rest⟩
      rcases List.mem_cons.1 ((insertSettled_perm nodes n l).mem_iff.1 mem) with rfl | mem
      · exact Nat.not_lt.1 behind
      · exact first y mem

theorem settlementOrder_perm (nodes : Table NodeWork 256) :
    (settlementOrder nodes).Perm ((List.finRange 256).filter fun n => (nodes.get n).settled) := by
  unfold settlementOrder
  generalize (List.finRange 256).filter _ = l
  induction l with
  | nil => exact .refl _
  | cons n l ih => exact (insertSettled_perm nodes n _).trans (List.Perm.cons n ih)

theorem settlementOrder_sorted (nodes : Table NodeWork 256) :
    (settlementOrder nodes).Pairwise fun x y => (nodes.get x).position.getD 0 ≤ (nodes.get y).position.getD 0 := by
  unfold settlementOrder
  generalize (List.finRange 256).filter _ = l
  induction l with
  | nil => exact .nil
  | cons n l ih => exact insertSettled_sorted ih

theorem mem_settlementOrder {nodes : Table NodeWork 256} {n : NodeIdx} : n ∈ settlementOrder nodes ↔ (nodes.get n).settled = true := by
  rw [(settlementOrder_perm nodes).mem_iff]
  simp

theorem settlementOrder_nodup (nodes : Table NodeWork 256) : (settlementOrder nodes).Nodup :=
  (settlementOrder_perm nodes).nodup_iff.2 ((List.nodup_finRange 256).filter _)

/-! ## One node -/

theorem Layout.ownExit_eq_some {a : Layout} {source : ExitIdx → Cost} {n : NodeIdx} {d : Cost} {e : ExitIdx} (h : a.ownExit source n d = some e) :
    ∃ x, a.exits.get e = some x ∧ x.node = n ∧ source e = d := by
  unfold Layout.ownExit at h
  obtain ⟨⟨f, x⟩, found, rfl⟩ := Option.map_eq_some_iff.1 h
  have test := List.find?_some found
  simp only [Bool.and_eq_true, decide_eq_true_eq] at test
  exact ⟨x, Table.mem_defined.1 (List.mem_of_find?_eq_some found), test.1.1, test.2⟩

theorem Layout.ownExit_isSome {a : Layout} {source : ExitIdx → Cost} {n : NodeIdx} {d : Cost} (finite : d < Config.inf) {e : ExitIdx} {x : ExitCfg}
    (hx : a.exits.get e = some x) (node : x.node = n) (cost : source e = d) : ∃ f, a.ownExit source n d = some f := by
  unfold Layout.ownExit
  cases found : a.exits.defined.find? (fun e => e.2.node = n && source e.1 ≤ Config.maxCost && source e.1 = d) with
  | some f => exact ⟨_, rfl⟩
  | none =>
    have test := List.find?_eq_none.1 found (e, x) (Table.mem_defined.2 hx)
    simp only [node, cost, decide_true, Bool.true_and, Bool.and_true, decide_eq_true_eq] at test
    exact absurd (finite_iff.2 finite) test

/-- A segment that meets the cost equation of R90 at a node, with the node it leads to. -/
def Layout.hop (a : Layout) (levels : Table Level 48) (nodes : Table NodeWork 256) (n : NodeIdx) (g : SegRec) (m : NodeIdx) : Prop :=
  a.way levels n g m ∧ (nodes.get m).cost < Config.inf ∧ sumCost (nodes.get m).cost (a.segCost levels g) = (nodes.get n).cost

/-- The next hop is the lowest-indexed segment that meets the cost equation (R90). -/
theorem Layout.nextHop_eq_some {a : Layout} {levels : Table Level 48} {nodes : Table NodeWork 256} {n : NodeIdx} {i : SegIdx} {m : NodeIdx}
    (h : a.nextHop levels nodes n = some (i, m)) : (∃ g, a.segments.get i = some g ∧ a.hop levels nodes n g m)
      ∧ ∀ j g k, j < i → a.segments.get j = some g → ¬ a.hop levels nodes n g k := by
  have test (e : SegIdx × SegRec) (out : SegIdx × NodeIdx) : (match e.2.otherEnd n with
      | none => none
      | some m => if a.segOpen levels e.2 && e.2.mayTravel n && (nodes.get m).cost ≤ Config.maxCost
          && sumCost (nodes.get m).cost (a.segCost levels e.2) = (nodes.get n).cost then some (e.1, m) else none) = some out
      ↔ out.1 = e.1 ∧ a.hop levels nodes n e.2 out.2 := by
    unfold Layout.hop Layout.way
    cases e.2.otherEnd n with
    | none => simp
    | some k =>
      simp only [Bool.and_eq_true, decide_eq_true_eq, finite_iff, Option.ite_none_right_eq_some, Option.some.injEq]
      constructor
      · rintro ⟨⟨⟨⟨segOpen, travel⟩, lt⟩, cost⟩, rfl⟩
        exact ⟨rfl, ⟨rfl, segOpen, travel⟩, lt, cost⟩
      · rintro ⟨first, ⟨rfl, segOpen, travel⟩, lt, cost⟩
        exact ⟨⟨⟨⟨segOpen, travel⟩, lt⟩, cost⟩, by rw [← first]⟩
  obtain ⟨before, e, after, split, found, missed⟩ := List.findSome?_eq_some_iff.1 h
  obtain ⟨rfl, hop⟩ := (test e (i, m)).1 found
  refine ⟨⟨e.2, Table.mem_defined.1 (by rw [split]; simp), hop⟩, fun j g k less segment other => ?_⟩
  have mem : (j, g) ∈ before ++ e :: after := split ▸ Table.mem_defined.2 segment
  have sorted := a.segments.defined_pairwise
  rw [split, List.map_append, List.map_cons, List.pairwise_append] at sorted
  obtain ⟨-, later, -⟩ := sorted
  have first : (j, g) ∈ before := by
    rcases List.mem_append.1 mem with inside | inside
    · exact inside
    · rcases List.mem_cons.1 inside with same | inside
      · exact absurd less (by rw [← same]; exact lt_irrefl j)
      · have beyond := (List.pairwise_cons.1 later).1 j (List.mem_map.2 ⟨_, inside, rfl⟩)
        exact absurd less (lt_asymm beyond)
  exact nomatch (missed (j, g) first).symm.trans ((test (j, g) (j, k)).2 ⟨rfl, other⟩)

theorem Layout.nextHop_isSome {a : Layout} {levels : Table Level 48} {nodes : Table NodeWork 256} {n : NodeIdx} {i : SegIdx} {g : SegRec} {m : NodeIdx}
    (segment : a.segments.get i = some g) (h : a.hop levels nodes n g m) : ∃ out, a.nextHop levels nodes n = some out := by
  cases found : a.nextHop levels nodes n with
  | some out => exact ⟨out, rfl⟩
  | none =>
    have missed := List.findSome?_eq_none_iff.1 found (i, g) (Table.mem_defined.2 segment)
    obtain ⟨⟨other, segOpen, travel⟩, lt, cost⟩ := h
    simp only [other, segOpen, travel, finite_iff, lt, cost, decide_true, Bool.and_self, if_true] at missed
    cases missed

theorem Layout.nextHop_congr {a : Layout} {levels : Table Level 48} {nodes nodes' : Table NodeWork 256}
    (cost : ∀ n, (nodes'.get n).cost = (nodes.get n).cost) (n : NodeIdx) : a.nextHop levels nodes' n = a.nextHop levels nodes n := by
  unfold Layout.nextHop
  simp only [cost]

/-! ## The walk -/

/-- What a node the derivation has visited holds (R89, R90): its own exit, or the next hop with the route exit of the node it leads to. -/
def Layout.hopsTo (a : Layout) (levels : Table Level 48) (source : ExitIdx → Cost) (nodes : Table NodeWork 256) (n : NodeIdx) : Prop :=
  (∃ e, a.ownExit source n (nodes.get n).cost = some e ∧ (nodes.get n).next = none ∧ (nodes.get n).route = some e)
  ∨ a.ownExit source n (nodes.get n).cost = none ∧ ∃ i m, a.nextHop levels nodes n = some (i, m) ∧ (nodes.get n).next = some i
    ∧ (nodes.get n).route = (nodes.get m).route ∧ (nodes.get m).route.isSome = true

/-- The derivation so far: the costs stand, the nodes visited have their hops, and the others have none. -/
structure Layout.Hops (a : Layout) (levels : Table Level 48) (source : ExitIdx → Cost) (base nodes : Table NodeWork 256) (done : List NodeIdx) :
    Prop where
  cost : ∀ n, (nodes.get n).cost = (base.get n).cost
  waits : ∀ n, n ∉ done → (nodes.get n).next = none ∧ (nodes.get n).route = none
  routed : ∀ n ∈ done, (nodes.get n).route.isSome = true
  visited : ∀ n ∈ done, a.hopsTo levels source nodes n
  inside : ∀ n ∈ done, ∀ i m, a.nextHop levels base n = some (i, m) → a.ownExit source n (base.get n).cost = none → m ∈ done

/-- A node visited once every node it may lead to has been. -/
theorem Layout.Hops.visit {a : Layout} {levels : Table Level 48} {source : ExitIdx → Cost} {base nodes : Table NodeWork 256} {done : List NodeIdx}
    (h : a.Hops levels source base nodes done) {n : NodeIdx} (fresh : n ∉ done)
    (leads : a.ownExit source n (base.get n).cost = none → ∃ i m, a.nextHop levels base n = some (i, m) ∧ m ∈ done) :
    a.Hops levels source base (deriveNode a levels source nodes n) (n :: done) := by
  have walked (r : NodeWork) (cost : r.cost = (base.get n).cost) (routed : r.route.isSome = true)
      (hops : a.hopsTo levels source (nodes.set n r) n) (inside : ∀ i m, a.nextHop levels base n = some (i, m) →
        a.ownExit source n (base.get n).cost = none → m ∈ done) : a.Hops levels source base (nodes.set n r) (n :: done) := by
    have other {k} (ne : k ≠ n) : (nodes.set n r).get k = nodes.get k := Table.get_set_ne _ _ ne
    have own : (nodes.set n r).get n = r := Table.get_set_self ..
    have costs (k) : ((nodes.set n r).get k).cost = (base.get k).cost := by
      by_cases same : k = n
      · rw [same, own, cost]
      · rw [other same, h.cost]
    have next (k) : a.nextHop levels (nodes.set n r) k = a.nextHop levels base k := Layout.nextHop_congr costs k
    refine ⟨costs, fun k out => ?_, fun k mem => ?_, fun k mem => ?_, fun k mem i m found unowned => ?_⟩
    · rw [List.mem_cons, not_or] at out
      rw [other out.1]
      exact h.waits k out.2
    · by_cases same : k = n
      · rw [same, own]
        exact routed
      · rw [other same]
        exact h.routed k ((List.mem_cons.1 mem).resolve_left same)
    · by_cases same : k = n
      · rw [same]
        exact hops
      · have member := (List.mem_cons.1 mem).resolve_left same
        unfold Layout.hopsTo
        rw [other same, next]
        refine (h.visited k member).imp_right fun ⟨unowned, i, m, found, step, route, routed⟩ => ?_
        rw [h.cost] at unowned
        rw [Layout.nextHop_congr h.cost] at found
        have kept : (nodes.set n r).get m = nodes.get m := other fun e => fresh (e ▸ h.inside k member i m found unowned)
        rw [h.cost]
        exact ⟨unowned, i, m, found, step, by rw [kept]; exact route, by rw [kept]; exact routed⟩
    · by_cases same : k = n
      · rw [same] at found unowned
        exact List.mem_cons_of_mem _ (inside i m found unowned)
      · exact List.mem_cons_of_mem _ (h.inside k ((List.mem_cons.1 mem).resolve_left same) i m found unowned)
  have next : a.nextHop levels nodes n = a.nextHop levels base n := Layout.nextHop_congr h.cost n
  unfold deriveNode
  dsimp only
  rw [h.cost, next]
  cases exit : a.ownExit source n (base.get n).cost with
  | some e =>
    refine walked _ rfl rfl (.inl ⟨e, ?_, ?_, ?_⟩) fun i m _ unowned => (nomatch exit.symm.trans unowned)
    · rw [Table.get_set_self]
      exact exit
    · rw [Table.get_set_self]
    · rw [Table.get_set_self]
  | none =>
    obtain ⟨i, m, found, mem⟩ := leads exit
    rw [found]
    have ne : m ≠ n := fun e => fresh (e ▸ mem)
    have routed := h.routed m mem
    refine walked _ rfl routed (.inr ⟨?_, i, m, ?_, ?_, ?_, ?_⟩) fun j k found' _ => ?_
    · rw [Table.get_set_self]
      exact exit
    · refine (Layout.nextHop_congr (nodes := nodes) (fun k => ?_) n).trans (next.trans found)
      rw [Table.get_set]
      split
      · rename_i same
        rw [same, h.cost]
      · rfl
    · rw [Table.get_set_self]
    · rw [Table.get_set_self, Table.get_set_ne _ _ ne]
    · rw [Table.get_set_ne _ _ ne]
      exact routed
    · cases found.symm.trans found'
      exact mem

/-- The hops of a pass whose segments all cost something. -/
theorem deriveHops_hops {a : Layout} {levels : Table Level 48} {source : ExitIdx → Cost} {p : PassState} (h : p.Running a levels source)
    (positive : ∀ i g, a.segments.get i = some g → 0 < a.segCost levels g) :
    ∃ done, a.Hops levels source p.nodes (deriveHops a levels source p.nodes) done ∧ ∀ n, n ∈ done ↔ (p.nodes.get n).settled = true := by
  have sound := h.sound
  have walk (rest : List NodeIdx) (done : List NodeIdx) (order : settlementOrder p.nodes = done.reverse ++ rest) (nodes : Table NodeWork 256)
      (hops : a.Hops levels source p.nodes nodes done) :
      a.Hops levels source p.nodes (rest.foldl (deriveNode a levels source) nodes) (rest.reverse ++ done) := by
    induction rest generalizing done nodes with
    | nil => exact hops
    | cons n rest ih =>
      have nodup := settlementOrder_nodup p.nodes
      have sorted := settlementOrder_sorted p.nodes
      rw [order] at nodup sorted
      have fresh : n ∉ done := fun mem =>
        (List.nodup_append.1 nodup).2.2 n (List.mem_reverse.2 mem) n List.mem_cons_self rfl
      have settled : (p.nodes.get n).settled = true := mem_settlementOrder.1 (by rw [order]; simp)
      have next := ih (n :: done) (by rw [order, List.reverse_cons, List.append_assoc]; rfl) _ (hops.visit fresh fun none => ?_)
      · rw [List.foldl_cons, List.reverse_cons, List.append_assoc]
        exact next
      · have finite := sound.finite n settled
        obtain ⟨i, g, m, segment, way, done_, cost⟩ := (sound.justified n finite).resolve_left fun ⟨e, x, hx, node, eq⟩ => by
          obtain ⟨f, own⟩ := Layout.ownExit_isSome finite hx node eq
          exact nomatch none.symm.trans own
        obtain ⟨⟨j, k⟩, found⟩ := Layout.nextHop_isSome (nodes := p.nodes) segment ⟨way, sound.finite m done_, cost.symm⟩
        refine ⟨j, k, found, ?_⟩
        obtain ⟨⟨g', segment', way', lt, eq⟩, -⟩ := Layout.nextHop_eq_some found
        have sum := sumCost_eq_of_lt (a := (p.nodes.get k).cost) (b := a.segCost levels g') (by rw [eq]; exact finite)
        have less : (p.nodes.get k).cost < (p.nodes.get n).cost := by
          rw [← eq, sum]
          exact Nat.lt_add_of_pos_right (positive j g' segment')
        have reached : (p.nodes.get k).settled = true := by
          by_contra waiting
          exact absurd less (Nat.not_lt.2 (sound.cheapest n k settled (by simpa using waiting)))
        have mem : k ∈ done.reverse ++ n :: rest := order ▸ mem_settlementOrder.2 reached
        rcases List.mem_append.1 mem with before | after
        · exact List.mem_reverse.1 before
        · rcases List.mem_cons.1 after with same | after
          · exact absurd less (by rw [same]; exact Nat.lt_irrefl _)
          · have later := (List.pairwise_cons.1 (List.pairwise_append.1 sorted).2.1).1 k after
            obtain ⟨q, position, -⟩ := sound.placed n settled
            obtain ⟨q', position', -⟩ := sound.placed k reached
            rw [position, position'] at later
            exact absurd less (Nat.not_lt.2 (sound.ordered n k q q' settled reached position position' later))
  refine ⟨(settlementOrder p.nodes).reverse ++ [], walk (settlementOrder p.nodes) [] rfl p.nodes ?_, fun n => ?_⟩
  · exact ⟨fun _ => rfl, fun n _ => sound.unset n, nofun, nofun, nofun⟩
  · rw [List.append_nil, List.mem_reverse]
    exact mem_settlementOrder

/-- Once the frontier is empty the settled nodes are those with a finite cost (R88). -/
theorem PassState.Running.reaches {a : Layout} {levels : Table Level 48} {source : ExitIdx → Cost} {p : PassState} (h : p.Running a levels source)
    (ended : p.frontier = []) (n : NodeIdx) : (p.nodes.get n).settled = true ↔ (p.nodes.get n).cost < Config.inf := by
  refine ⟨h.sound.finite n, fun lt => ?_⟩
  by_contra still
  have mem := (h.sound.frontier n).2 ⟨lt, by simpa using still⟩
  rw [ended] at mem
  cases mem

/-- Exactly the nodes with a finite cost get a route exit. -/
theorem deriveHops_routed {a : Layout} {levels : Table Level 48} {source : ExitIdx → Cost}
    (positive : ∀ i g, a.segments.get i = some g → 0 < a.segCost levels g) (n : NodeIdx) :
    ((deriveHops a levels source (runPass a levels source).nodes).get n).route.isSome = true
      ↔ ((deriveHops a levels source (runPass a levels source).nodes).get n).cost ≤ Config.maxCost := by
  obtain ⟨running, ended⟩ := runPass_running a levels source
  obtain ⟨done, hops, members⟩ := deriveHops_hops running positive
  rw [hops.cost, finite_iff, ← running.reaches ended, ← members]
  refine ⟨fun routed => ?_, hops.routed n⟩
  by_contra out
  rw [(hops.waits n out).2] at routed
  cases routed

/-- Settles O38: the hops a walk in the order of the costs leaves. -/
theorem nextHopsDescend : Obligations.NextHopsDescend := by
  rintro a levels source nodes positive rfl n
  obtain ⟨running, ended⟩ := runPass_running a levels source
  obtain ⟨done, hops, members⟩ := deriveHops_hops running positive
  have reaches := running.reaches ended
  have sound := running.sound
  generalize runPass a levels source = p at hops members sound reaches
  generalize deriveHops a levels source p.nodes = nodes at hops
  have finite_of_mem : n ∈ done ↔ (nodes.get n).cost < Config.inf := by
    rw [members, reaches, hops.cost]
  have finite := finite_of_mem.1
  have visited : (nodes.get n).cost ≠ Config.inf → n ∈ done := fun reached =>
    finite_of_mem.2 (Nat.lt_of_le_of_ne (by rw [hops.cost]; exact sound.range n) reached)
  refine ⟨hops.cost n, fun unreached => hops.waits n fun mem => ?_, fun reached => ?_, fun e x hx node cost reached => ?_, fun i step => ?_⟩
  · exact absurd unreached (Nat.ne_of_lt (finite mem))
  · have mem := visited reached
    rcases hops.visited n mem with ⟨e, own, next, route⟩ | ⟨-, i, m, found, next, route, routed⟩
    · obtain ⟨x, hx, node, cost⟩ := Layout.ownExit_eq_some own
      exact .inl ⟨e, x, hx, node, cost, next, route⟩
    · obtain ⟨⟨g, segment, ⟨other, segOpen, travel⟩, lt, eq⟩, -⟩ := Layout.nextHop_eq_some found
      have sum := sumCost_eq_of_lt (a := (nodes.get m).cost) (b := a.segCost levels g) (by rw [eq]; exact finite mem)
      rw [sum] at eq
      refine .inr ⟨i, g, m, segment, other, segOpen, travel, next, eq.symm, ?_, route, routed⟩
      rw [← eq]
      exact Nat.lt_add_of_pos_right (positive i g segment)
  · have mem := visited reached
    obtain ⟨f, own⟩ := Layout.ownExit_isSome (finite mem) hx node cost
    rcases hops.visited n mem with ⟨f', own', next, route⟩ | ⟨unowned, -⟩
    · obtain ⟨y, hy, nodeY, costY⟩ := Layout.ownExit_eq_some own'
      exact ⟨next, f', y, hy, nodeY, costY, route⟩
    · exact nomatch own.symm.trans unowned
  · intro j g m less segment other segOpen travel reached eq
    have mem : n ∈ done := by
      by_contra out
      exact nomatch (hops.waits n out).1.symm.trans step
    rcases hops.visited n mem with ⟨f, -, next, -⟩ | ⟨-, i', m', found, next, -, -⟩
    · exact nomatch next.symm.trans step
    · cases next.symm.trans step
      have lt : (nodes.get m).cost < Config.inf := by
        rw [hops.cost] at reached ⊢
        exact Nat.lt_of_le_of_ne (sound.range m) reached
      refine (Layout.nextHop_eq_some found).2 j g m less segment ⟨⟨other, segOpen, travel⟩, lt, ?_⟩
      unfold sumCost
      rw [eq, if_pos (finite_iff.2 (finite mem))]

/-! ## Loads -/

theorem Layout.loadOf_eq (a : Layout) (nodes : Table NodeWork 256) (e : ExitIdx) : a.loadOf nodes e =
    ((a.nodes.defined.filter fun n => (nodes.get n.1).route = some e).map fun n => n.2.weight.val).sum := by
  have sum (l : List (NodeIdx × NodeRec)) (k : Nat) :
      l.foldl (fun sum n => if (nodes.get n.1).route = some e then sum + n.2.weight.val else sum) k =
        k + ((l.filter fun n => (nodes.get n.1).route = some e).map fun n => n.2.weight.val).sum := by
    induction l generalizing k with
    | nil => rfl
    | cons n l ih =>
      rw [List.foldl_cons, ih]
      by_cases routed : (nodes.get n.1).route = some e
      · rw [if_pos routed, List.filter_cons_of_pos (by simpa using routed), List.map_cons, List.sum_cons, Nat.add_assoc]
      · rw [if_neg routed, List.filter_cons_of_neg (by simpa using routed)]
  exact (sum _ 0).trans (Nat.zero_add _)

/-- The loads of all exits sum to the weight of the nodes with a route exit (R96). -/
theorem Layout.sum_loadOf (a : Layout) {nodes : Table NodeWork 256}
    (routed : ∀ n, (nodes.get n).route.isSome = true ↔ (nodes.get n).cost ≤ Config.maxCost) : ∑ e, a.loadOf nodes e = a.reachedWeight nodes := by
  unfold Layout.reachedWeight
  simp only [Layout.loadOf_eq]
  generalize a.nodes.defined = l
  induction l with
  | nil => simp
  | cons n l ih =>
    have step (e : ExitIdx) : (((n :: l).filter fun n => (nodes.get n.1).route = some e).map fun n => n.2.weight.val).sum =
        (if (nodes.get n.1).route = some e then n.2.weight.val else 0)
          + ((l.filter fun n => (nodes.get n.1).route = some e).map fun n => n.2.weight.val).sum := by
      by_cases own : (nodes.get n.1).route = some e <;> simp [own]
    simp only [step, Finset.sum_add_distrib, ih]
    cases route : (nodes.get n.1).route with
    | none =>
      have unreached : ¬ (nodes.get n.1).cost ≤ Config.maxCost := fun reached => by
        have some := (routed n.1).2 reached
        rw [route] at some
        cases some
      rw [List.filter_cons_of_neg (by simpa using unreached)]
      simp
    | some f =>
      have reached : (nodes.get n.1).cost ≤ Config.maxCost := (routed n.1).1 (by rw [route]; rfl)
      rw [List.filter_cons_of_pos (by simpa using reached)]
      simp

/-- Settles O39: a node has a route exit exactly when its cost is finite, so the loads of all exits count the reached nodes. -/
theorem loadsSumToWeights : Obligations.LoadsSumToWeights := by
  rintro a r r1 r2 r3 r4 positive rfl rfl rfl rfl
  have routed1 := deriveHops_routed (source := a.sourceCost r.snapshot fun _ => 0) positive
  by_cases gain : 0 < a.params.gain
  · rw [if_neg (Nat.pos_iff_ne_zero.1 gain)]
    unfold Run.doNexthop
    simp only [gain, if_true]
    refine ⟨fun e => ?_, ?_, ?_, fun none => absurd gain (by rw [none]; exact Nat.lt_irrefl 0), trivial⟩
    · rw [Table.get_ofFn]
      exact a.loadOf_eq _ e
    · simp only [Table.get_ofFn]
      refine Eq.trans ?_ (a.sum_loadOf routed1)
      exact Finset.sum_congr rfl fun e _ => by unfold Run.doPass2 Run.doLoad; rw [Table.get_ofFn]
    · simp only [Table.get_ofFn]
      exact a.sum_loadOf (deriveHops_routed positive)
  · have none : a.params.gain = 0 := Nat.eq_zero_of_not_pos gain
    rw [if_pos none]
    unfold Run.doNexthop
    simp only [gain, if_false, Table.get_ofFn]
    have load (e) : ((Run.doLoad a (Run.doPass1 a r)).exits.get e).pass1Load = a.loadOf (Run.doPass1 a r).nodes e := by
      unfold Run.doLoad
      rw [Table.get_ofFn]
    refine ⟨fun e => a.loadOf_eq _ e, ?_, a.sum_loadOf routed1, fun _ e => (load e).symm, trivial⟩
    simp only [load]
    exact a.sum_loadOf routed1

end Machine
end Sys2Proof
end

/-!
The trunks (chapter 7): what a trunk that may start an exchange does (R120, R127), and the end of an exchange (R123, R126, R130 to R137).
-/
section
namespace Sys2Proof
namespace Machine

/-! ## A trunk that may start an exchange -/

theorem State.startAspect_eq (s : State) (t : TrunkIdx) (i : SignIdx) (c : SignCfg) :
    s.startAspect t i c = s.sendsAspect t i c (s.signLine.trunks.get t).roundRobin := by
  have seq := (s.signLine.heads.get i).seqFor_eq (s.aspect.signs.get i).shown
  unfold State.startAspect State.sendsAspect
  dsimp only
  rw [seq]
  rfl

theorem State.startAspect_polled (s : State) (t : TrunkIdx) (i : SignIdx) (c : SignCfg) (position : Nat) :
    (s.setTrunk t { s.signLine.trunks.get t with roundRobin := position }).startAspect t i c = s.sendsAspect t i c position := by
  rw [State.startAspect_eq]
  unfold State.sendsAspect State.setTrunk
  dsimp only
  rw [Table.get_set_self, Table.set_set]

theorem State.startDefault_eq (s : State) (t : TrunkIdx) (i : SignIdx) (c : SignCfg) : s.startDefault t i c = s.sendsDefault t i c := rfl

/-- A trunk takes the step of R127 that finds something to send. -/
theorem State.kick_free {s : State} {t : TrunkIdx} (state : (s.signLine.trunks.get t).state = .inService)
    (free : (s.signLine.trunks.get t).exchange = none) : s.kick t =
    match s.queuedOn t, s.defaultOn t, s.roundRobinOn t with
    | some (i, c), _, _ => s.sendsAspect t i c (s.signLine.trunks.get t).roundRobin
    | none, some (i, c), _ => s.sendsDefault t i c
    | none, none, some (i, c) => s.sendsAspect t i c c.address
    | none, none, none => s := by
  unfold State.kick
  dsimp only
  rw [if_pos (by rw [state, free]; rfl)]
  rcases s.queuedOn t with _ | ⟨i, c⟩
  · rcases s.defaultOn t with _ | ⟨i, c⟩
    · rcases s.roundRobinOn t with _ | ⟨i, c⟩
      · rfl
      · exact s.startAspect_polled t i c c.address
    · exact s.startDefault_eq t i c
  · exact s.startAspect_eq t i c

theorem State.kick_busy {s : State} {t : TrunkIdx}
    (busy : (s.signLine.trunks.get t).state = .shutdown ∨ (s.signLine.trunks.get t).exchange.isSome = true) : s.kick t = s := by
  unfold State.kick
  dsimp only
  refine if_neg fun free => ?_
  simp only [Bool.and_eq_true, decide_eq_true_eq, Option.isNone_iff_eq_none] at free
  obtain ⟨state, none⟩ := free
  rcases busy with shut | busy
  · exact nomatch state.symm.trans shut
  · rw [none] at busy
    cases busy

theorem State.free_or_busy (s : State) (t : TrunkIdx) :
    ((s.signLine.trunks.get t).state = .inService ∧ (s.signLine.trunks.get t).exchange = none)
    ∨ ((s.signLine.trunks.get t).state = .shutdown ∨ (s.signLine.trunks.get t).exchange.isSome = true) := by
  cases (s.signLine.trunks.get t).state <;> cases (s.signLine.trunks.get t).exchange <;> simp

/-- A trunk rests, or has a frame to one head on its way. -/
theorem State.kick_cases (s : State) (t : TrunkIdx) : s.kick t = s
    ∨ (∃ i c position, s.kick t = s.sendsAspect t i c position) ∨ ∃ i c, s.kick t = s.sendsDefault t i c := by
  rcases s.free_or_busy t with ⟨state, free⟩ | busy
  · rw [State.kick_free state free]
    rcases s.queuedOn t with _ | ⟨i, c⟩
    · rcases s.defaultOn t with _ | ⟨i, c⟩
      · rcases s.roundRobinOn t with _ | ⟨i, c⟩
        · exact .inl rfl
        · exact .inr (.inl ⟨i, c, _, rfl⟩)
      · exact .inr (.inr ⟨i, c, rfl⟩)
    · exact .inr (.inl ⟨i, c, _, rfl⟩)
  · exact .inl (State.kick_busy busy)

/-- A trunk with no sign defined on it has nothing to send. -/
theorem State.kick_resting {s : State} {t : TrunkIdx} (none : ∀ j d, ¬ s.signOn t j d) : s.kick t = s := by
  have empty : s.active.onTrunk t = [] := List.eq_nil_iff_forall_not_mem.2 fun e mem => none e.1 e.2 ((Layout.mem_onTrunk s t e.1 e.2).1 mem)
  have queued := s.queuedOn_eq_none t fun j _ d => none j d
  have owed := s.defaultOn_eq_none t fun j d owes => none j d owes.1
  have polled : s.roundRobinOn t = Option.none := by
    unfold State.roundRobinOn
    rw [empty]
    rfl
  rcases s.free_or_busy t with ⟨state, free⟩ | busy
  · rw [State.kick_free state free, queued, owed, polled]
  · exact State.kick_busy busy

theorem State.kick_starts (s : State) (t : TrunkIdx) : TrunkStarts s t (s.kick t) where
  busy := State.kick_busy
  queued state free i c oldest := by rw [State.kick_free state free, s.queuedOn_eq_some t i c oldest]
  owed state free none i c lowest := by
    rw [State.kick_free state free, s.queuedOn_eq_none t none, s.defaultOn_eq_some t i c lowest]
  polled state free none owed i c next := by
    rw [State.kick_free state free, s.queuedOn_eq_none t none, s.defaultOn_eq_none t owed, s.roundRobinOn_eq_some t i c next]
  resting := State.kick_resting
  frame := by
    obtain ⟨_, _, frame⟩ := s.kick_frame t
    rw [frame]
  otherTrunk v ne := by
    rcases s.kick_cases t with same | ⟨i, c, _, sends⟩ | ⟨i, c, sends⟩
    · rw [same]
    · rw [sends]
      exact Table.get_set_ne _ _ ne
    · rw [sends]
      exact Table.get_set_ne _ _ ne
  otherHeads j other := by
    rcases s.kick_cases t with same | ⟨i, c, _, sends⟩ | ⟨i, c, sends⟩
    · rw [same]
    · rw [sends] at other ⊢
      refine Table.get_set_ne _ _ fun e => other _ (congrArg TrunkRec.exchange (Table.get_set_self ..)) e.symm
    · rw [sends]
      rfl
  head i := by
    obtain ⟨seq, last, heads⟩ := (s.kick_heads t).2 i
    rw [heads]

/-- What a trunk starts rests on the signs of ACTIVE, what they show, and the sign line alone. -/
theorem State.kick_congr {s u : State} (active : u.active = s.active) (aspect : u.aspect.signs = s.aspect.signs)
    (line : u.signLine = s.signLine) (t : TrunkIdx) : (u.kick t).signLine = (s.kick t).signLine := by
  have queued : u.queuedOn t = s.queuedOn t := by unfold State.queuedOn; rw [active, line]
  have owed : u.defaultOn t = s.defaultOn t := by unfold State.defaultOn; rw [active, line]
  have polled : u.roundRobinOn t = s.roundRobinOn t := by unfold State.roundRobinOn; rw [active, line]
  have aspects (i : SignIdx) (c : SignCfg) (position : Nat) :
      (u.sendsAspect t i c position).signLine = (s.sendsAspect t i c position).signLine := by
    simp only [State.sendsAspect, aspect, line]
  have defaults (i : SignIdx) (c : SignCfg) : (u.sendsDefault t i c).signLine = (s.sendsDefault t i c).signLine := by
    simp only [State.sendsDefault, line]
  rcases s.free_or_busy t with ⟨state, free⟩ | busy
  · rw [State.kick_free state free, State.kick_free (s := u) (by rw [line]; exact state) (by rw [line]; exact free), queued, owed, polled, line]
    rcases s.queuedOn t with _ | ⟨i, c⟩
    · rcases s.defaultOn t with _ | ⟨i, c⟩
      · rcases s.roundRobinOn t with _ | ⟨i, c⟩
        · exact line
        · exact aspects i c _
      · exact defaults i c
    · exact aspects i c _
  · rw [State.kick_busy busy, State.kick_busy (s := u) (by rw [line]; exact busy), line]

theorem State.kickAll_congr {s u : State} (active : u.active = s.active) (aspect : u.aspect.signs = s.aspect.signs)
    (line : u.signLine = s.signLine) : u.kickAll.signLine = s.kickAll.signLine := by
  obtain ⟨_, _, hu⟩ := u.kick_frame 0
  obtain ⟨_, _, hs⟩ := s.kick_frame 0
  refine State.kick_congr ?_ ?_ (State.kick_congr active aspect line 0) 1
  · rw [hu, hs]
    exact active
  · rw [hu, hs]
    exact aspect

theorem State.kickAll_eq (s : State) : s.kickAll = { s with signLine := s.kickAll.signLine } := by
  obtain ⟨_, _, frame⟩ := s.kickAll_frame
  rw [frame]

theorem State.kickAll_queue (s : State) : s.kickAll.signLine.queue = s.signLine.queue :=
  ((s.kick 0).kick_heads 1).1.trans (s.kick_heads 0).1

/-- Settles O26: the events of a trunk, each with the record it leaves. -/
theorem trunksShutAndReturn : Obligations.TrunksShutAndReturn := by
  refine ⟨fun s t x exchange => ?_, fun s t service => ?_, fun s t start shut off hold passed => ?_, fun s t shut on => ?_,
    fun s m t shut on hm => ?_, State.kick_starts, fun _ => rfl, fun _ _ _ => rfl, fun aspect address => ?_⟩
  · refine congrArg Host.Outcome.next ?_
    unfold State.trunk
    rw [exchange]
    rfl
  · exact congrArg Host.Outcome.next (if_pos service)
  · refine congrArg Host.Outcome.next (if_pos ?_)
    have run : s.holdOffPassed t = true := by
      unfold State.holdOffPassed State.trunk
      rw [hold]
      exact decide_eq_true passed
    unfold State.trunk
    rw [shut, off, run]
    rfl
  · have checking : (s.trunk t).checking = true := by
      unfold TrunkRec.checking State.trunk
      rw [shut, on]
      rfl
    have record : (s.trunk t).shut s.port.clock =
        { s.signLine.trunks.get t with driverOn := false, exchange := none, holdOff := some s.port.clock } := by
      unfold TrunkRec.shut State.trunk
      dsimp only
      rw [shut]
    refine congrArg Host.Outcome.next ((if_pos checking).trans ?_)
    rw [record]
    rfl
  · have checking : (s.trunk t).checking = true := by
      unfold TrunkRec.checking State.trunk
      rw [shut, on]
      rfl
    refine congrArg Host.Outcome.next ((if_pos checking).trans ?_)
    have same : s.setTrunk t { s.trunk t with state := .inService, holdOff := none } = m := hm.symm
    have port : m.port = s.port := by rw [hm]
    dsimp only
    rw [same]
    obtain ⟨_, _, frame⟩ := m.kick_frame t
    unfold State.postAll
    rw [frame]
    dsimp only
    rw [port]
    rfl
  · unfold TrunkFrame.bytes Shown.code
    simp

end Machine
end Sys2Proof
end

/-!
The end of an exchange (R123, R126, R130 to R137): which replies are good, and what each outcome does to the head and the change queue.
-/
section
namespace Sys2Proof
namespace Machine

/-! ## Replies -/

theorem Supply.ofCode_eq_some {n : Nat} {p : Supply} : Supply.ofCode n = some p ↔ n = p.code := by
  constructor
  · intro h
    unfold Supply.ofCode at h
    split at h <;> cases h <;> rfl
  · rintro rfl
    cases p <;> rfl

/-- A REPLY is good exactly as `GoodReply` has it (R123, R202). -/
theorem readReply_eq_good {address : Nat} {bytes : List TrunkByte} {echo : Byte} {lamp : Bool} {supply : Supply} {tamper : Bool} :
    readReply address bytes = .good echo lamp supply tamper ↔ GoodReply address bytes echo lamp supply tamper := by
  have lampBit (b : Byte) : decide (b.toNat / 128 = 1) = true ↔ 128 ≤ b.toNat := by
    have := b.isLt
    rw [decide_eq_true_eq]
    omega
  constructor
  · intro h
    unfold readReply at h
    split at h
    · rename_i k a e st c
      split at h
      · cases h
      · rename_i p found
        split at h
        · rename_i clean
          simp only [Bool.and_eq_true, Bool.not_eq_true', Bool.or_eq_false_iff, decide_eq_true_eq, checkOk_iff] at clean
          obtain ⟨⟨⟨⟨⟨⟨⟨kf, af⟩, ef⟩, sf⟩, cf⟩, sum⟩, kind⟩, addressed⟩ := clean
          injection h with he hl hs ht
          subst he hl hs ht
          refine ⟨a.val, st.val, c.val, ?_, addressed, by rw [← kind]; exact sum, lampBit st.val, Supply.ofCode_eq_some.1 found, ?_⟩
          · cases k
            cases a
            cases e
            cases st
            cases c
            simp_all
          · rw [decide_eq_true_eq]
        · cases h
    · cases h
  · rintro ⟨a, status, check, rfl, addressed, sum, hl, hs, ht⟩
    have flags : decide (status.toNat / 128 = 1) = lamp := Bool.eq_iff_iff.2 ((lampBit status).trans hl.symm)
    have bit : decide (status.toNat / 16 % 2 = 1) = tamper := Bool.eq_iff_iff.2 (decide_eq_true_iff.trans ht.symm)
    unfold readReply
    simp only [List.map_cons, List.map_nil]
    rw [Supply.ofCode_eq_some.2 hs, flags, bit]
    simp only [(checkOk_iff _).2 sum, addressed]
    rfl

theorem readReply_cases (address : Nat) (bytes : List TrunkByte) :
    readReply address bytes = .garbled ∨ ∃ echo lamp supply tamper, readReply address bytes = .good echo lamp supply tamper := by
  unfold readReply
  split
  · split
    · exact .inl rfl
    · split
      · exact .inr ⟨_, _, _, _, rfl⟩
      · exact .inl rfl
  · exact .inl rfl

theorem readReply_eq_garbled {address : Nat} {bytes : List TrunkByte} : readReply address bytes = .garbled ↔
    ∀ echo lamp supply tamper, ¬ GoodReply address bytes echo lamp supply tamper := by
  constructor
  · intro garbled echo lamp supply tamper good
    exact nomatch garbled.symm.trans (readReply_eq_good.2 good)
  · intro none
    rcases readReply_cases address bytes with garbled | ⟨echo, lamp, supply, tamper, good⟩
    · exact garbled
    · exact absurd (readReply_eq_good.1 good) (none echo lamp supply tamper)

/-! ## The head after an outcome -/

/-- A good reply (R126, R130, R133 to R136). -/
theorem State.headAfter_good (s : State) (i : SignIdx) (frame : TrunkFrame) (echo : Byte) (lamp : Bool) (supply : Supply) (tamper : Bool)
    {h g : HeadRec} {limit : Nat} (hh : h = s.signLine.heads.get i) (hg : g = s.headAfter i frame (.good echo lamp supply tamper))
    (hl : limit = s.active.params.headThreshold) :
    g.misses = 0
    ∧ g.status = some { lampFault := lamp, supply := supply, tamper := tamper, time := s.port.clock }
    ∧ (∀ a, frame = .setDefault a → g.defaultPending = false)
    ∧ (∀ a b, frame = .aspect a b → g.defaultPending = if h.state = .absent ∨ h.state = .lost then true else h.defaultPending)
    ∧ (h.state = .absent ∨ h.state = .lost → g.state = if g.errors < limit then .online else .degraded)
    ∧ (s.confirms i (.good echo lamp supply tamper) = true → g.errors = h.errors - 1
      ∧ (h.state = .online → g.state = .online)
      ∧ (h.state = .degraded → g.state = if g.errors = 0 then .online else .degraded))
    ∧ (s.confirms i (.good echo lamp supply tamper) = false → g.errors = min 255 (h.errors + 4)
      ∧ (h.state = .online → g.state = if limit ≤ g.errors then .degraded else .online)
      ∧ (h.state = .degraded → g.state = .degraded)) := by
  subst hh hg hl
  unfold State.headAfter
  dsimp only
  generalize s.confirms i (.good echo lamp supply tamper) = confirmed
  refine ⟨rfl, rfl, ?_, ?_, ?_, ?_, ?_⟩
  · rintro a rfl
    rfl
  · rintro a b rfl
    simp [defaultPendingAfter]
  · rintro (state | state) <;> simp only [state, headStateAfter]
  · rintro rfl
    exact ⟨rfl, fun state => by simp [state, headStateAfter], fun state => by simp [state, headStateAfter]⟩
  · rintro rfl
    exact ⟨rfl, fun state => by simp [state, headStateAfter], fun state => by simp [state, headStateAfter]⟩

theorem headStateAfter_garbled (threshold : Nat) (old : HeadState) (errors misses : Nat) :
    (old = .online → headStateAfter threshold old .garbled false errors misses = if threshold ≤ errors then .degraded else .online)
    ∧ (old ≠ .online → headStateAfter threshold old .garbled false errors misses = old) := by
  cases old <;> simp [headStateAfter]

theorem headStateAfter_miss (threshold : Nat) (old : HeadState) (errors misses : Nat) :
    (misses = 4 → headStateAfter threshold old .miss false errors misses = .lost)
    ∧ (misses < 4 → old = .online → headStateAfter threshold old .miss false errors misses = if threshold ≤ errors then .degraded else .online)
    ∧ (misses < 4 → old ≠ .online → headStateAfter threshold old .miss false errors misses = old) := by
  have differ (few : misses < 4) : misses ≠ 4 := Nat.ne_of_lt few
  cases old <;> simp +contextual [headStateAfter, differ]

/-- A garbled reply (R133, R134). -/
theorem State.headAfter_garbled (s : State) (i : SignIdx) (frame : TrunkFrame) {h g : HeadRec} {limit : Nat} (hh : h = s.signLine.heads.get i)
    (hg : g = s.headAfter i frame .garbled) (hl : limit = s.active.params.headThreshold) :
    g.errors = min 255 (h.errors + 4) ∧ g.misses = h.misses ∧ g.status = h.status ∧ g.defaultPending = h.defaultPending
    ∧ (h.state = .online → g.state = if limit ≤ g.errors then .degraded else .online)
    ∧ (h.state ≠ .online → g.state = h.state) := by
  subst hh hg hl
  exact ⟨rfl, rfl, rfl, rfl, headStateAfter_garbled ..⟩

/-- A missed reply (R133, R134). -/
theorem State.headAfter_miss (s : State) (i : SignIdx) (frame : TrunkFrame) {h g : HeadRec} {limit : Nat} (hh : h = s.signLine.heads.get i)
    (hg : g = s.headAfter i frame .miss) (hl : limit = s.active.params.headThreshold) :
    g.errors = min 255 (h.errors + 4) ∧ g.misses = min 4 (h.misses + 1) ∧ g.status = h.status ∧ g.defaultPending = h.defaultPending
    ∧ (g.misses = 4 → g.state = .lost)
    ∧ (g.misses < 4 → h.state = .online → g.state = if limit ≤ g.errors then .degraded else .online)
    ∧ (g.misses < 4 → h.state ≠ .online → g.state = h.state) := by
  subst hh hg hl
  exact ⟨rfl, rfl, rfl, rfl, headStateAfter_miss ..⟩

/-! ## The end of an exchange -/

/-- The exchange of trunk `t` out of flight with its outcome applied, and the notices (R123, R137). -/
def State.afterExchange (s : State) (t : TrunkIdx) (x : Exchange) (o : ReplyOutcome) : State × List Notice :=
  if x.discard then (s.setTrunk t { s.signLine.trunks.get t with exchange := none }, [])
  else applyOutcome x.sign x.frame o (s.setTrunk t { s.signLine.trunks.get t with exchange := none })

theorem endExchange_eq (t : TrunkIdx) (x : Exchange) (o : ReplyOutcome) (s : State) :
    endExchange t x o s = ((s.afterExchange t x o).1.kick t, (s.afterExchange t x o).2) := rfl

theorem State.afterExchange_frame (s : State) (t : TrunkIdx) (x : Exchange) (o : ReplyOutcome) : (s.afterExchange t x o).1 =
    { s with signLine := {
        trunks := s.signLine.trunks.set t { s.signLine.trunks.get t with exchange := none }
        queue := (s.afterExchange t x o).1.signLine.queue
        heads := (s.afterExchange t x o).1.signLine.heads } } := by
  unfold State.afterExchange
  split <;> rfl

theorem State.afterExchange_taken (s : State) (t : TrunkIdx) {x : Exchange} (o : ReplyOutcome) (taken : x.discard = false) :
    (s.afterExchange t x o).1.signLine.heads = s.signLine.heads.set x.sign (s.headAfter x.sign x.frame o)
    ∧ (s.afterExchange t x o).1.signLine.queue = queueAfter s.signLine.queue x.sign o (s.confirms x.sign o)
      (decide ((s.headAfter x.sign x.frame o).state = .lost) && decide ((s.signLine.heads.get x.sign).state ≠ .lost))
    ∧ (s.afterExchange t x o).2 = (if (s.headAfter x.sign x.frame o).state = (s.signLine.heads.get x.sign).state then [] else
        [s.notice .signState (some (byte x.sign.val)) [(s.signLine.heads.get x.sign).state.code, (s.headAfter x.sign x.frame o).state.code]])
      ++ (if lampFails (s.signLine.heads.get x.sign).status o then [s.notice .lampFault (some (byte x.sign.val)) []] else []) := by
  have applied : s.afterExchange t x o =
      applyOutcome x.sign x.frame o (s.setTrunk t { s.signLine.trunks.get t with exchange := none }) := by
    unfold State.afterExchange
    rw [taken]
    rfl
  rw [applied]
  exact ⟨rfl, rfl, rfl⟩

/-- The event that ends the exchange of trunk `t` with an outcome. -/
theorem exec_endsExchange {s : State} {t : TrunkIdx} {x : Exchange} {c : Instr} {o : ReplyOutcome}
    (exchange : (s.signLine.trunks.get t).exchange = some x) (window : x.windowOpen = true)
    (event : (∃ bytes, bytes.length = 5 ∧ c = .replyComplete t bytes ∧ o = readReply x.address bytes)
      ∨ c = .replyWindowExpiry t true ∧ o = .garbled ∨ c = .replyWindowExpiry t false ∧ o = .miss) :
    exec c s = .next ((endExchange t x o).run s) := by
  have opened : s.openExchange t = some x := by
    unfold State.openExchange State.trunk
    rw [exchange]
    exact if_pos window
  rcases event with ⟨bytes, length, rfl, rfl⟩ | ⟨rfl, rfl⟩ | ⟨rfl, rfl⟩
  · refine congrArg Host.Outcome.next ?_
    rw [opened]
    exact if_pos length
  · refine congrArg Host.Outcome.next ?_
    rw [opened]
    rfl
  · refine congrArg Host.Outcome.next ?_
    rw [opened]
    rfl

/-- The notices of an outcome: a changed state, and a lamp that fails (R132, R136). -/
theorem lampFails_notice (o : ReplyOutcome) (old : Option HeadStatus) (n : Notice) :
    (if lampFails old o then [n] else []) = (match o, old with
      | .good _ true _ _, none => [n]
      | .good _ true _ _, some st => if st.lampFault then [] else [n]
      | _, _ => []) := by
  cases o with
  | good echo lamp supply tamper =>
    cases lamp with
    | false => rfl
    | true =>
      cases old with
      | none => rfl
      | some st => cases h : st.lampFault <;> simp [lampFails, h]
  | garbled => rfl
  | miss => rfl

/-- Settles O27: the outcome of the exchange, applied to the head, and then the trunk's next start. -/
theorem exchangesEnd : Obligations.ExchangesEnd := by
  refine ⟨fun address bytes => ⟨fun _ _ _ _ => readReply_eq_good, readReply_eq_garbled⟩, fun s t x c o exchange window event => ?_⟩
  have posted := (endExchange_timely t x o).run s
  have whole : (endExchange t x o).run s = ((s.afterExchange t x o).1.kick t).postAll (s.afterExchange t x o).2 := rfl
  have frame := s.afterExchange_frame t x o
  obtain ⟨_, _, kicked⟩ := (s.afterExchange t x o).1.kick_frame t
  have port : ((s.afterExchange t x o).1.kick t).port = s.port := by rw [kicked, frame]
  refine ⟨(s.afterExchange t x o).1, (endExchange t x o).run s, exec_endsExchange exchange window event, frame, by rw [whole]; rfl,
    State.kick_starts _ t, fun discard => ?_, fun taken => ?_, ?_⟩
  · have nothing : s.afterExchange t x o = (s.setTrunk t { s.signLine.trunks.get t with exchange := none }, []) := if_pos discard
    rw [whole, State.postAll_port, port, nothing]
    exact ⟨rfl, rfl, rfl⟩
  · obtain ⟨heads, queue, notices⟩ := s.afterExchange_taken t o taken
    refine ⟨fun i other => ?_, ?_⟩
    · rw [heads]
      exact Table.get_set_ne _ _ other
    · rintro h g limit rfl hg rfl
      rw [heads, Table.get_set_self] at hg
      refine ⟨by rw [hg]; rfl, by rw [hg]; rfl, fun room => ?_, ?_, ?_, ?_⟩
      · rw [← hg, lampFails_notice] at notices
        have few : s.port.notices.length + (s.afterExchange t x o).2.length ≤ 64 := by
          have short : (s.afterExchange t x o).2.length ≤ 2 := by
            rw [s.afterExchange_taken t o taken |>.2.2, List.length_append]
            split <;> split <;> simp
          omega
        rw [whole, State.postAll_port, port, Port.postAll_room _ _ few]
        exact congrArg (fun ns => ({ s.port with notices := ns } : Port))
          ((congrArg (s.port.notices ++ ·) notices).trans (List.append_assoc ..).symm)
      · rintro echo lamp supply tamper rfl
        obtain ⟨misses, status, owed, kept, returned, confirmed, denied⟩ := s.headAfter_good x.sign x.frame echo lamp supply tamper rfl hg rfl
        refine ⟨misses, status, owed, kept, returned, fun same => ?_, fun differs => ?_⟩
        · have confirms : s.confirms x.sign (.good echo lamp supply tamper) = true := decide_eq_true same
          obtain ⟨errors, online, degraded⟩ := confirmed confirms
          rw [queue, confirms]
          exact ⟨errors, rfl, online, degraded⟩
        · have confirms : s.confirms x.sign (.good echo lamp supply tamper) = false := decide_eq_false differs
          obtain ⟨errors, online, degraded⟩ := denied confirms
          rw [queue, confirms]
          exact ⟨errors, rfl, online, degraded⟩
      · rintro rfl
        obtain ⟨errors, misses, status, owed, online, kept⟩ := s.headAfter_garbled x.sign x.frame rfl hg rfl
        exact ⟨errors, misses, status, owed, online, kept, queue⟩
      · rintro rfl
        obtain ⟨errors, misses, status, owed, lost, online, kept⟩ := s.headAfter_miss x.sign x.frame rfl hg rfl
        rw [← hg] at queue
        refine ⟨errors, misses, status, owed, lost, online, kept, fun last before => ?_, fun stays => ?_⟩
        · rw [queue, lost last, decide_eq_true rfl, decide_eq_true before]
          rfl
        · have still : (decide (g.state = .lost) && decide ((s.signLine.heads.get x.sign).state ≠ .lost)) = false := by
            rw [Bool.and_eq_false_iff, decide_eq_false_iff_not, decide_eq_false_iff_not, not_not]
            refine or_iff_not_imp_right.2 fun before => ?_
            have few := stays.resolve_right before
            by_cases on : (s.signLine.heads.get x.sign).state = .online
            · rw [online few on]
              split <;> nofun
            · rw [kept few on]
              exact before
          rw [queue, still]
          rfl
  · obtain ⟨l, moved⟩ := endExchange_frame t x o s
    have run := Emit.run_of_eq moved
    generalize (endExchange t x o).run s = u at run posted
    have line : u.signLine = l := by rw [run]
    rw [line, ← posted.other]
    exact run

end Machine
end Sys2Proof
end

/-!
A changed hall mode (R171): the Door Grace and DOOR, the HALL_EVACUATE outputs, the signs and their offers.
-/
section
namespace Sys2Proof
namespace Machine

/-! ## The exits at a change of mode -/

/-- The Door Grace once the mode has changed (R64, R66). -/
def State.graceOf (s : State) : HallMode → DoorGrace
  | .standby => .idle
  | .evacuate => if s.active.params.doorGrace = 0 then .elapsed else .running s.port.clock

/-- The reason sets once the mode has changed: DOOR alone (R64 to R66). -/
def State.modeSets (s : State) (m : HallMode) (door : ExitIdx → Bool) (e : ExitIdx) : ReasonSet :=
  if m = .standby ∨ s.active.params.doorGrace = 0 ∧ (s.active.exits.get e).map ExitCfg.kind = some .door then
    { (s.exits.exits.get e).reasons with door := decide (m = .evacuate) && door e }
  else (s.exits.exits.get e).reasons

theorem moveGrace_part (m : HallMode) (s : State) :
    ExitPart (s.setGrace (s.graceOf m)) (moveGrace m s).1 (moveGrace m s).2 (s.modeSets m (s.setGrace (s.graceOf m)).doorHolds) := by
  cases m with
  | standby =>
    have part := endGrace_part s
    have sets : (s.setGrace .idle).given doorlessSet (fun _ => true) = s.modeSets .standby (s.setGrace .idle).doorHolds := by
      funext e
      exact (if_pos (.inl rfl)).symm
    rw [sets] at part
    exact part
  | evacuate =>
    by_cases zero : s.active.params.doorGrace = 0
    · have part := enterElapsed_part s
      have sets : (s.setGrace .elapsed).given doorSet s.active.isDoor = s.modeSets .evacuate (s.setGrace .elapsed).doorHolds := by
        funext e
        unfold State.given State.modeSets
        simp only [Layout.isDoor_iff, zero, true_and, reduceCtorEq, false_or]
        rfl
      have grace : s.graceOf .evacuate = .elapsed := if_pos zero
      have moves : moveGrace .evacuate s = enterElapsed s := if_pos zero
      rw [sets] at part
      rw [grace, moves]
      exact part
    · have grace : s.graceOf .evacuate = .running s.port.clock := if_neg zero
      have moves : moveGrace .evacuate s = (s.setGrace (.running s.port.clock), []) := if_neg zero
      have held (e : ExitIdx) : s.modeSets .evacuate (s.setGrace (s.graceOf .evacuate)).doorHolds e = (s.exits.exits.get e).reasons :=
        if_neg fun moved => moved.elim nofun fun h => zero h.1
      rw [moves, ← grace]
      refine ⟨.refl _, .still rfl rfl rfl fun e _ => held e, ?_⟩
      have none : (List.finRange 24).filter ((s.setGrace (s.graceOf .evacuate)).moves
          (s.modeSets .evacuate (s.setGrace (s.graceOf .evacuate)).doorHolds)) = [] :=
        List.filter_eq_nil_iff.2 fun e _ moved => ((State.moves_iff _ _ e).1 moved).2 (held e)
      unfold State.exitNotices
      rw [none]
      rfl

/-- Exits that follow, with the OUTPUT lines of some sources driven behind them (R68). -/
theorem ExitsFollow.drive {s t v : State} {new : ExitIdx → ReasonSet} (h : ExitsFollow s t new (fun _ => False)) (p : OutputSource → Bool)
    (before : t.active = s.active) (active : v.active = t.active) (boundary : v.boundary = t.boundary) (exits : v.exits = (t.drive p).exits)
    (pending : v.engine.changePending = t.engine.changePending) (sources : ∀ src, v.sourceTrue src = t.sourceTrue src) :
    ExitsFollow s v new (fun src => p src = true) := by
  have driven := t.drive_follows p
  have records : v.exits.exits = t.exits.exits := by rw [exits]; rfl
  have lines : v.exits.lines = (t.drive p).exits.lines := by rw [exits]
  refine ⟨fun e => ?_, ⟨fun l src d mode line names => ?_, fun l src mode still => ?_, fun l x start line => ?_, fun l other => ?_⟩, ?_⟩
  · rw [records, State.baseCost_congr active fun p => by rw [boundary]]
    exact h.exits e
  · rw [lines, sources]
    have mode' : t.active.lines.get l = .output src := by rw [before]; exact mode
    by_cases moved : ∃ e, s.moves new e = true ∧ OutputSource.names e src = true
    · have shown := h.lines.shown l src d mode line (.inr moved)
      by_cases now : p src = true
      · rw [driven.shown l src _ mode' shown now]
        exact congrArg LineRec.output (t.sourceTrue_lines _ src)
      · rw [driven.held l src mode' now, shown]
    · have kept := h.lines.held l src mode fun driven => driven.elim id moved
      rw [driven.shown l src d mode' (kept.trans line) (names.resolve_right moved)]
      exact congrArg LineRec.output (t.sourceTrue_lines _ src)
  · rw [lines, driven.held l src (by rw [before]; exact mode) fun now => still (.inl now)]
    exact h.lines.held l src mode fun named => still (.inr (named.resolve_left id))
  · rw [lines]
    exact driven.inputs l x start (h.lines.inputs l x start line)
  · rw [lines, driven.unnamed l (by rw [before]; exact other)]
    exact h.lines.unnamed l other
  · rw [pending]
    exact h.pending

/-! ## The signs at a change of mode -/

theorem SignRec.recode_eq (r : SignRec) (m : HallMode) : r.recode m = { r with
    candidate := none
    shown := { r.shown with modifier := if r.lit then litModifier m else r.shown.modifier } } := by
  unfold SignRec.recode SignRec.lit
  split <;> rfl

/-- The signs re-coded, and the lit ones offered (R113, R114). -/
theorem State.recodeSigns_queue (s : State) (m : HallMode) : (s.recodeSigns m).signLine.queue = s.signLine.queue
    ++ (signsWhere fun i => (s.aspect.signs.get i).lit).filter s.admits := by
  unfold State.recodeSigns
  dsimp only
  rw [State.offers_queue (signsWhere_nodup _)]
  rfl

/-! ## The frame taken -/

theorem State.taken_eq_some {s : State} {f : IntakeFrame} : s.taken = some f ↔ s.alarm.handler = .taking ∧ ∃ rest, s.alarm.intake = f :: rest := by
  constructor
  · intro h
    unfold State.taken at h
    split at h
    · cases h
    · rename_i handler
      exact ⟨handler, List.head?_eq_some_iff.1 h⟩
  · rintro ⟨handler, rest, intake⟩
    exact State.taken_of_intake handler intake

theorem execHallMode_taken {s : State} {l : AlarmLine} {seq : Byte} {m : HallMode} (taken : s.taken = some { line := l, seq := seq, body := .hallMode m }) :
    exec .hallMode s = .next (
      if s.isDuplicate seq then s.dropFrame
      else if m = s.alarm.mode then (s.accept seq).dropFrame
      else (Emit.run (changeMode m) (s.accept seq)).kickAll.dropFrame) := by
  refine congrArg Host.Outcome.next ?_
  rw [taken]

theorem changeMode_mode (m : HallMode) (s : State) : ((changeMode m).run s).kickAll.dropFrame.alarm.mode = m := by
  obtain ⟨_, _, _, _, _, e⟩ := changeMode_frame m s
  obtain ⟨_, _, k⟩ := State.kickAll_frame ((changeMode m).run s)
  rw [k, Emit.run_of_eq e]
  rfl

/-- Only COLD_RESET and an accepted HALL_MODE frame change the hall mode (R171). -/
theorem exec_mode {c : Instr} {s t : State} (step : exec c s = .next t) (changed : t.alarm.mode ≠ s.alarm.mode) :
    c = .coldReset ∧ t.alarm.mode = .standby
    ∨ c = .hallMode ∧ s.alarm.handler = .taking ∧ ∃ l seq rest,
      s.alarm.intake = { line := l, seq := seq, body := .hallMode t.alarm.mode } :: rest ∧ s.alarm.lastSeq ≠ some seq := by
  cases hk : reach c with
  | mode =>
    cases c with
    | hallMode =>
      right
      have runs : exec .hallMode s = execHallMode s := rfl
      rw [runs] at step
      unfold execHallMode at step
      injection step with step
      split at step
      · rename_i l seq m taken
        obtain ⟨handler, rest, intake⟩ := State.taken_eq_some.1 taken
        split at step
        · exact absurd (by rw [← step]; rfl) changed
        · rename_i fresh
          split at step
          · exact absurd (by rw [← step]; rfl) changed
          · have mode : t.alarm.mode = m := by rw [← step]; exact changeMode_mode m _
            rw [mode]
            exact ⟨rfl, handler, l, seq, rest, intake, fun same => fresh (decide_eq_true same)⟩
      · exact absurd (by rw [step]) changed
    | _ => cases hk
  | whole =>
    have kept (P : After (exec c s) fun u => u.alarm.mode = s.alarm.mode) : False := changed (P.elim step)
    cases c with
    | coldReset =>
      left
      cases step
      exact ⟨rfl, rfl⟩
    | loadEvent =>
      refine (kept (execLoadEvent_keeps rfl fun _ => ?_)).elim
      obtain ⟨_, _, e⟩ := s.takeUp_frame
      rw [State.postAll_alarm, e]
      rfl
    | commitLayout => exact (kept (execCommitLayout_keeps rfl (fun _ _ => rfl) fun _ => by
        rw [State.respond_alarm]
        exact s.commit_mode)).elim
    | reinit => exact (kept (execReinit_keeps rfl (fun _ _ => rfl) fun _ _ => by
        rw [State.respond_alarm, s.restart_alarm.2])).elim
    | _ => cases hk
  | _ => exact absurd (((exec_frame hk (by nofun) s).elim step).mode (by nofun)) changed

/-! ## A changed mode -/

/-- What the event of a changed mode leaves in `t`, with `rest` behind the frame taken (R171). -/
structure ModeEvent (s : State) (m : HallMode) (seq : Byte) (rest : List IntakeFrame) (t : State) : Prop where
  alarm : t.alarm = { s.alarm with
    mode := m, lastSeq := some seq, intake := rest, handler := if rest.isEmpty then .idle else .taking }
  grace : t.exits.grace = s.graceOf m
  follows : ExitsFollow s t (s.modeSets m t.doorHolds) (fun src => src = .hallEvacuate)
  port : t.port = s.port.postAll (s.notice .hallMode none [s.alarm.mode.code, m.code] :: s.exitNotices (s.modeSets m t.doorHolds))
  signs : ∀ i, t.aspect.signs.get i = (s.aspect.signs.get i).recode m
  queue : t.signLine.queue = s.signLine.queue ++ (signsWhere fun i => (s.aspect.signs.get i).lit).filter s.admits
  kicked : t.signLine = ({ t with signLine := { s.signLine with queue := t.signLine.queue } }.kickAll).signLine
  frame : t = { s with
    alarm := t.alarm, signLine := t.signLine
    aspect := { s.aspect with signs := t.aspect.signs }
    exits := { s.exits with grace := t.exits.grace, exits := t.exits.exits, lines := t.exits.lines }
    engine := { s.engine with changePending := t.engine.changePending }
    port := { s.port with notices := t.port.notices, flags := t.port.flags, snapshot := t.port.snapshot } }

theorem changeMode_event {s : State} {l : AlarmLine} {seq : Byte} {m : HallMode} {rest : List IntakeFrame}
    (intake : s.alarm.intake = { line := l, seq := seq, body := .hallMode m } :: rest) :
    ModeEvent s m seq rest ((changeMode m).run (s.accept seq)).kickAll.dropFrame := by
  have whole : (changeMode m).run (s.accept seq) =
      (((moveGrace m ((s.accept seq).setMode m)).1.drive fun src => src = .hallEvacuate).recodeSigns m).postAll
        (s.notice .hallMode none [s.alarm.mode.code, m.code] :: (moveGrace m ((s.accept seq).setMode m)).2) := rfl
  have posted : Posted s.port ((changeMode m).run (s.accept seq)).port := (changeMode_timely m).run (s.accept seq)
  rw [whole] at posted ⊢
  have part := moveGrace_part m ((s.accept seq).setMode m)
  generalize moveGrace m ((s.accept seq).setMode m) = r at part posted
  obtain ⟨⟨x, ls, c, moved⟩, follows, notices⟩ := part
  generalize r.1 = u at moved follows posted
  generalize r.2 = ns at notices posted
  have queue := (u.drive fun src => src = .hallEvacuate).recodeSigns_queue m
  obtain ⟨q, recoded⟩ := (u.drive fun src => src = .hallEvacuate).recodeSigns_frame m
  generalize (u.drive fun src => src = .hallEvacuate).recodeSigns m = w at queue recoded posted
  generalize hn : s.notice .hallMode none [s.alarm.mode.code, m.code] :: ns = posts at posted
  have kicked := (w.postAll posts).kickAll_eq
  have kept := (w.postAll posts).kickAll_queue
  have same (v : State) := State.kickAll_congr (u := v) (s := w.postAll posts)
  generalize (w.postAll posts).kickAll = k at kicked kept same
  have left : k.alarm.intake = { line := l, seq := seq, body := .hallMode m } :: rest := by
    rw [kicked, recoded, moved]
    exact intake
  rw [State.dropFrame_of_intake left]
  have port : w.port = s.port := by rw [recoded, moved]; rfl
  generalize ht : ({ k with alarm := { k.alarm with intake := rest, handler := if rest.isEmpty then .idle else .taking } } : State) = t
  have form : t = { u with
      exits := (u.drive fun src => src = .hallEvacuate).exits
      aspect := { u.aspect with signs := Table.ofFn fun i => (s.aspect.signs.get i).recode m }
      signLine := k.signLine
      alarm := { u.alarm with intake := rest, handler := if rest.isEmpty then .idle else .taking }
      port := s.port.postAll posts } := by
    rw [← ht, kicked, State.postAll_port, port, recoded, moved]
    rfl
  have doors (e : ExitIdx) : t.doorHolds e = (((s.accept seq).setMode m).setGrace (((s.accept seq).setMode m).graceOf m)).doorHolds e := by
    refine State.doorHolds_congr ?_ ?_ (fun l door => ?_) e
    · rw [form, moved]
      rfl
    · rw [form, moved]
      rfl
    · have input (a : Layout) (mode : a.lines.get l = .inputDoor) (src : OutputSource) : a.lines.get l ≠ .output src := by
        rw [mode]
        nofun
      rw [← follows.lines.unnamed l (input _ door), ← (u.drive_follows fun src => src = .hallEvacuate).unnamed l (input _ (by rw [moved]; exact door)), form]
  have sets : ((s.accept seq).setMode m).modeSets m (((s.accept seq).setMode m).setGrace (((s.accept seq).setMode m).graceOf m)).doorHolds
      = s.modeSets m t.doorHolds := by
    rw [← funext doors]
    rfl
  rw [sets] at follows notices
  have line : t.signLine = k.signLine := by rw [form]
  have list : t.signLine.queue = w.signLine.queue := by rw [line, kept]; rfl
  constructor
  case alarm =>
    rw [form, moved]
    rfl
  case grace =>
    rw [form, moved]
    rfl
  case follows =>
    have driven := (follows.drive (v := t) (fun src => src = .hallEvacuate) (by rw [moved]; rfl) (by rw [form]; rfl) (by rw [form])
      (by rw [form]) (by rw [form]) fun src => by rw [form]; cases src <;> rfl).from (s' := s) rfl rfl rfl rfl
    exact driven.congr (fun _ _ => rfl) fun src => decide_eq_true_iff.symm
  case port =>
    have ported : t.port = s.port.postAll posts := by rw [form]
    rw [ported, ← hn, notices]
    rfl
  case signs =>
    intro i
    rw [form]
    exact Table.get_ofFn ..
  case queue =>
    refine list.trans (queue.trans ?_)
    rw [moved]
    rfl
  case kicked =>
    refine line.trans (same _ ?_ ?_ ?_).symm
    · rw [form, State.postAll_active, recoded]
      rfl
    · rw [form, recoded, moved]
      rfl
    · rw [list, recoded, moved]
      rfl
  case frame =>
    have ported : (w.postAll posts).port = t.port := by rw [← ht, kicked]
    rw [ported] at posted
    dsimp only
    rw [← posted.other, form, moved]
    rfl

/-- Settles O35: a frame taken is a duplicate, repeats the present mode, or is the event of a changed one. -/
theorem hallModeIsTaken : Obligations.HallModeIsTaken := by
  refine ⟨fun c s t => exec_mode, fun s l seq m rest handler intake => ?_⟩
  have taken := State.taken_of_intake handler intake
  have runs := execHallMode_taken taken
  refine ⟨fun duplicate => ?_, fun fresh present => ?_, fun fresh changed => ?_⟩
  · rw [runs, if_pos (show s.isDuplicate seq = true from decide_eq_true duplicate), State.dropFrame_of_intake intake]
  · have dup : s.isDuplicate seq = false := decide_eq_false fresh
    rw [runs, dup, if_neg Bool.false_ne_true, if_pos present.symm, State.dropFrame_of_intake (s := s.accept seq) intake]
    rfl
  · have dup : s.isDuplicate seq = false := decide_eq_false fresh
    rw [dup, if_neg Bool.false_ne_true, if_neg (Ne.symm changed)] at runs
    have laws (exits : ExitLaw s) (lines : LineLaw s) : ExitLaw _ := (exits.execHallMode lines).elim runs
    refine ⟨_, runs, ?_⟩
    have event := changeMode_event intake
    generalize ((changeMode m).run (s.accept seq)).kickAll.dropFrame = t at event laws
    have active : t.active = s.active := by rw [event.frame]; rfl
    refine ⟨event.alarm, ?_, ?_, fun i => ?_, fun i => ?_, ⟨_, (signsWhere_pairwise _).filter _, event.queue⟩, event.kicked, ?_, ?_, ?_, ?_,
      event.frame⟩
    · rintro rfl
      exact event.grace
    · rintro rfl
      refine ⟨event.grace, fun e defined => ?_⟩
      rw [event.follows.reasons defined, State.modeSets, if_pos (.inl rfl)]
      rfl
    · rw [event.signs, SignRec.recode_eq]
    · rw [event.queue, List.mem_append, List.mem_filter, mem_signsWhere]
      unfold State.admits
      by_cases queued : i ∈ s.signLine.queue <;> simp [queued]
    · intro o mode d line
      rw [event.follows.lines.shown o _ d mode line (.inl rfl)]
      unfold State.sourceTrue
      dsimp only
      rw [event.alarm]
    · rintro new rfl
      refine ⟨event.follows, fun room => ?_⟩
      rw [event.port]
      exact congrArg Port.notices (Port.postAll_room s.port _ room)
    · intro exits lines e defined
      have door := (laws exits lines).door e (by rw [active]; exact defined)
      have reasons := event.follows.reasons defined
      rw [reasons] at door ⊢
      rw [← door]
      unfold State.modeSets
      split <;> rfl
    · intro room
      rw [event.port]
      exact Port.postAll_first room _ _

end Machine
end Sys2Proof
end

/-!
An advert taken (R151 to R155): each used entry gives its passage its values, forms the base source costs of its exits anew and lifts their
STALE; the entries of an advert name distinct passages, so together they are one event of the exits.
-/
section
namespace Sys2Proof
namespace Machine

/-! ## One passage's record taken -/

theorem State.reformBases_leaves (l : List ExitIdx) (s : State) : (l.foldl State.reformBase s).exits.lines = s.exits.lines
    ∧ (l.foldl State.reformBase s).engine = s.engine := by
  induction l generalizing s with
  | nil => exact ⟨rfl, rfl⟩
  | cons e l ih =>
    have one : (s.reformBase e).exits.lines = s.exits.lines ∧ (s.reformBase e).engine = s.engine := by
      unfold State.reformBase
      split <;> exact ⟨rfl, rfl⟩
    rw [List.foldl_cons]
    exact ⟨(ih _).1.trans one.1, (ih _).2.trans one.2⟩

/-- A record taken leaves the lines, and sets change pending when its remote cost is another one (R154). -/
theorem State.takeRecord_leaves (s : State) (p : PassageIdx) (r : PassageRec) : (s.takeRecord p r).exits.lines = s.exits.lines
    ∧ ((s.takeRecord p r).engine.changePending = true ↔
      s.engine.changePending = true ∨ r.remote ≠ (s.boundary.passages.get p).remote) := by
  unfold State.takeRecord
  dsimp only
  split
  · rename_i same
    exact ⟨rfl, fun h => .inl h, fun h => h.elim id fun differs => absurd same differs⟩
  · rename_i differs
    obtain ⟨lines, engine⟩ := State.reformBases_leaves (exitsWhere ((s.setPassage p r).active.exitUses p)) (s.setPassage p r).setPending
    unfold State.remoteChanged
    rw [lines, engine]
    exact ⟨rfl, fun _ => .inr differs, fun _ => rfl⟩

theorem State.takeRecord_boundary (s : State) (p : PassageIdx) (r : PassageRec) :
    (s.takeRecord p r).boundary = (s.setPassage p r).boundary := (s.takeRecord_frame p r).boundary.1

/-- A record taken leaves the sources of the lines as they are. -/
theorem State.takeRecord_sources (s : State) (p : PassageIdx) (r : PassageRec) : s.SameSources (s.takeRecord p r) := by
  have move := s.takeRecord_frame p r
  have leaves := move.leaves
  refine ⟨by rw [leaves.active]; rfl, fun e => ?_, by rw [leaves.aspect]; rfl, by rw [leaves.aspect]; rfl, by rw [leaves.alarm]; rfl,
    by rw [leaves.alarm]; rfl⟩
  rw [s.takeRecord_get]
  split <;> exact ⟨rfl, rfl⟩

/-! ## The exits before the STALE they lose -/

/-- The state once the base source costs of the exits follow the passages of `b` (R58, R74). -/
def State.rebased (s : State) (b : Boundary) : State := { s with
  exits := { s.exits with exits := Table.ofFn fun f =>
    if ∃ p, s.active.exitUses p f = true ∧ (b.passages.get p).remote ≠ (s.boundary.passages.get p).remote then
      { s.exits.exits.get f with base := ({ s with boundary := b } : State).baseCost f (s.exits.exits.get f).usable }
    else s.exits.exits.get f }
  engine := { s.engine with
    changePending := (s.engine.changePending
      || decide (∃ p, (b.passages.get p).remote ≠ (s.boundary.passages.get p).remote)) }
  boundary := b }

/-- The reason sets once the passages of `b` that changed their state lose STALE (R62, R155). -/
def State.lifted (s : State) (b : Boundary) (f : ExitIdx) : ReasonSet :=
  if ∃ p, s.active.exitUses p f = true ∧ (s.boundary.passages.get p).state ≠ (b.passages.get p).state then
    { (s.exits.exits.get f).reasons with stale := false }
  else (s.exits.exits.get f).reasons

/-- An exit uses at most one passage. -/
theorem Layout.exitUses_one {a : Layout} {p q : PassageIdx} {e : ExitIdx} (hp : a.exitUses p e = true) (hq : a.exitUses q e = true) : q = p := by
  obtain ⟨x, hx, -, np⟩ := (Layout.exitUses_iff ..).1 hp
  obtain ⟨y, hy, -, nq⟩ := (Layout.exitUses_iff ..).1 hq
  cases hx.symm.trans hy
  exact Option.some.inj (nq.symm.trans np)

theorem Layout.exitUses_defined {a : Layout} {p : PassageIdx} {e : ExitIdx} (h : a.exitUses p e = true) : a.exits.has e = true := by
  obtain ⟨x, hx, -⟩ := (Layout.exitUses_iff ..).1 h
  exact Table.has_iff.2 ⟨x, hx⟩

/-- Of an exit that uses passage `p`, what some passage it uses is like is what `p` is like. -/
theorem Layout.exists_used {a : Layout} {p : PassageIdx} {e : ExitIdx} (uses : a.exitUses p e = true) {P : PassageIdx → Prop} :
    (∃ q, a.exitUses q e = true ∧ P q) ↔ P p :=
  ⟨fun ⟨_, used, h⟩ => Layout.exitUses_one uses used ▸ h, fun h => ⟨p, uses, h⟩⟩

theorem State.rebased_get (s : State) (b : Boundary) (f : ExitIdx) : (s.rebased b).exits.exits.get f =
    if ∃ p, s.active.exitUses p f = true ∧ (b.passages.get p).remote ≠ (s.boundary.passages.get p).remote then
      { s.exits.exits.get f with base := ({ s with boundary := b } : State).baseCost f (s.exits.exits.get f).usable }
    else s.exits.exits.get f := Table.get_ofFn ..

theorem State.rebased_active (s : State) (b : Boundary) : (s.rebased b).active = s.active := rfl
theorem State.rebased_lines (s : State) (b : Boundary) : (s.rebased b).exits.lines = s.exits.lines := rfl

theorem State.rebased_reasons (s : State) (b : Boundary) (f : ExitIdx) :
    ((s.rebased b).exits.exits.get f).reasons = (s.exits.exits.get f).reasons := by
  rw [State.rebased_get]
  split <;> rfl

theorem State.rebased_moves (s : State) (b : Boundary) (new : ExitIdx → ReasonSet) (f : ExitIdx) : (s.rebased b).moves new f = s.moves new f := by
  unfold State.moves
  rw [State.rebased_reasons]
  rfl

theorem State.rebased_pending (s : State) (b : Boundary) : (s.rebased b).engine.changePending = true ↔
    s.engine.changePending = true ∨ ∃ p, (b.passages.get p).remote ≠ (s.boundary.passages.get p).remote := by
  unfold State.rebased
  rw [Bool.or_eq_true, decide_eq_true_eq]

/-! ## An advert part taken -/

/-- What a used entry whose passage was STALE posts: PASSAGE_STATE, and the exits that lose STALE (R155). -/
def State.entryNotices (s : State) (a : Advert) (e : AdvertEntry) : List Notice :=
  if s.uses a e = true ∧ (s.boundary.passages.get e.passage).state = .stale then
    s.notice .passageState (some (byte e.passage.val)) [1, 0] :: s.exitNotices fun f =>
      if s.active.exitUses e.passage f then { (s.exits.exits.get f).reasons with stale := false } else (s.exits.exits.get f).reasons
  else []

/-- From `s` to `u` the entries `done` of an advert have been taken, with the notices `ns`. -/
structure AdvertPart (s u : State) (a : Advert) (done : List AdvertEntry) (ns : List Notice) : Prop where
  move : ExitMove { s with boundary := u.boundary } u
  boundary : u.boundary = { s.boundary with passages := u.boundary.passages }
  used : ∀ e ∈ done, s.uses a e = true → u.boundary.passages.get e.passage = s.usedRecord a.generation e
  others : ∀ p, (∀ e ∈ done, e.passage = p → s.uses a e = false) → u.boundary.passages.get p = s.boundary.passages.get p
  follows : ExitsFollow (s.rebased u.boundary) u (s.lifted u.boundary) (fun _ => False)
  notices : ns = done.flatMap (s.entryNotices a)

theorem AdvertPart.none (s : State) (a : Advert) : AdvertPart s s a [] [] where
  move := .refl s
  boundary := rfl
  used := nofun
  others _ _ := rfl
  follows := by
    have same (f : ExitIdx) : (s.rebased s.boundary).exits.exits.get f = s.exits.exits.get f := by
      rw [State.rebased_get, if_neg fun ⟨_, _, differs⟩ => differs rfl]
    have still (f : ExitIdx) : ¬ (s.rebased s.boundary).moves (s.lifted s.boundary) f = true := fun moved => by
      rw [State.rebased_moves, State.moves_iff, State.lifted, if_neg fun ⟨_, _, differs⟩ => differs rfl] at moved
      exact moved.2 rfl
    refine ⟨fun f => by rw [if_neg (still f), same], .still rfl ?_, ?_⟩
    · rintro src (none | ⟨f, moved, -⟩)
      · exact none
      · exact still f moved
    · rw [State.rebased_pending]
      refine ⟨fun h => .inl (.inl h), ?_⟩
      rintro ((h | ⟨_, differs⟩) | ⟨f, moved⟩)
      · exact h
      · exact absurd rfl differs
      · exact absurd moved (still f)
  notices := rfl

theorem State.uses_congr {s u : State} (active : u.active = s.active) (a : Advert) (e : AdvertEntry) : u.uses a e = s.uses a e := by
  unfold State.uses
  rw [active]

/-- The passage of an entry that is still to be taken stands as it did. -/
theorem AdvertPart.fresh {s u : State} {a : Advert} {done : List AdvertEntry} {ns : List Notice} (h : AdvertPart s u a done ns)
    {p : PassageIdx} (other : ∀ e ∈ done, e.passage ≠ p) : u.boundary.passages.get p = s.boundary.passages.get p :=
  h.others p fun e mem same => absurd same (other e mem)

/-- An exit that uses such a passage keeps its reason set. -/
theorem AdvertPart.lifted_fresh {s u : State} {a : Advert} {done : List AdvertEntry} {ns : List Notice} (_ : AdvertPart s u a done ns)
    {p : PassageIdx} (fresh : u.boundary.passages.get p = s.boundary.passages.get p) {f : ExitIdx} (uses : s.active.exitUses p f = true) :
    s.lifted u.boundary f = (s.exits.exits.get f).reasons := by
  unfold State.lifted
  rw [if_neg]
  rw [Layout.exists_used uses (P := fun q => (s.boundary.passages.get q).state ≠ (u.boundary.passages.get q).state), fresh, not_not]

/-- A record taken for a passage not touched yet: the exits follow from the state rebased on it. -/
theorem AdvertPart.takeRecord {s u : State} {a : Advert} {done : List AdvertEntry} {ns : List Notice} (h : AdvertPart s u a done ns)
    {p : PassageIdx} (fresh : u.boundary.passages.get p = s.boundary.passages.get p) (r : PassageRec) :
    ExitsFollow (s.rebased (u.setPassage p r).boundary) (u.takeRecord p r) (s.lifted u.boundary) (fun _ => False) := by
  have active : u.active = s.active := h.move.leaves.active
  have record := u.takeRecord_get p r
  have leaves := u.takeRecord_leaves p r
  have move := u.takeRecord_frame p r
  have sources := u.takeRecord_sources p r
  generalize u.takeRecord p r = v at record leaves move sources
  obtain ⟨exits, lines, pending⟩ := h.follows
  have get (q : PassageIdx) : (u.setPassage p r).boundary.passages.get q = if q = p then r else u.boundary.passages.get q := Table.get_set ..
  have moves (f) : (s.rebased (u.setPassage p r).boundary).moves (s.lifted u.boundary) f = (s.rebased u.boundary).moves (s.lifted u.boundary) f := by
    rw [State.rebased_moves, State.rebased_moves]
  have still {f} (uses : s.active.exitUses p f = true) : ¬ (s.rebased u.boundary).moves (s.lifted u.boundary) f = true := by
    rw [State.rebased_moves, State.moves_iff, h.lifted_fresh fresh uses]
    exact fun moved => moved.2 rfl
  have own {f} (uses : s.active.exitUses p f = true) : u.exits.exits.get f = s.exits.exits.get f := by
    rw [exits f, if_neg (still uses), State.rebased_get, if_neg]
    rw [Layout.exists_used uses (P := fun q => (u.boundary.passages.get q).remote ≠ (s.boundary.passages.get q).remote), fresh, not_not]
  refine ⟨fun f => ?_, ?_, ?_⟩
  · rw [record, active, fresh]
    by_cases uses : s.active.exitUses p f = true
    · rw [moves, if_neg (still uses), State.rebased_get, own uses]
      refine if_congr ?_ ?_ rfl
      · rw [Layout.exists_used uses (P := fun q => ((u.setPassage p r).boundary.passages.get q).remote ≠ (s.boundary.passages.get q).remote),
          get, if_pos rfl]
        exact and_iff_left uses
      · rw [State.baseCost_congr (s := u.setPassage p r) (t := { s with boundary := (u.setPassage p r).boundary }) active.symm fun _ => rfl]
    · have cost (k : Bool) : v.baseCost f k = u.baseCost f k := by
        rw [move.baseCost]
        exact State.baseCost_of_unused (by rw [active]; exact uses) r k
      rw [if_neg fun h => uses h.2, moves, exits f]
      simp only [cost]
      refine if_congr Iff.rfl rfl ?_
      rw [State.rebased_get, State.rebased_get]
      have cost' (k : Bool) : ({ s with boundary := (u.setPassage p r).boundary } : State).baseCost f k =
          ({ s with boundary := u.boundary } : State).baseCost f k :=
        State.baseCost_of_unused (s := { s with boundary := u.boundary }) uses r k
      simp only [cost']
      refine if_congr (exists_congr fun q => and_congr_right fun used => ?_) rfl rfl
      rw [get, if_neg fun same : q = p => uses (same ▸ used)]
  · have later := lines.congr leaves.1 fun src _ => sources.sourceTrue src
    simp only [moves]
    exact later.of_source (by rw [State.rebased_active, State.rebased_active]) (by rw [State.rebased_lines, State.rebased_lines])
  · rw [leaves.2, pending, State.rebased_pending, State.rebased_pending, fresh]
    simp only [moves]
    have changed : (∃ q, ((u.setPassage p r).boundary.passages.get q).remote ≠ (s.boundary.passages.get q).remote) ↔
        (∃ q, (u.boundary.passages.get q).remote ≠ (s.boundary.passages.get q).remote) ∨ r.remote ≠ (s.boundary.passages.get p).remote := by
      constructor
      · rintro ⟨q, differs⟩
        rw [get] at differs
        split at differs
        · rename_i same
          exact .inr (same ▸ differs)
        · exact .inl ⟨q, differs⟩
      · rintro (⟨q, differs⟩ | differs)
        · refine ⟨q, ?_⟩
          rw [get, if_neg]
          · exact differs
          · rintro rfl
            exact differs (by rw [fresh])
        · exact ⟨p, by rw [get, if_pos rfl]; exact differs⟩
    rw [changed]
    exact or_right_comm.trans (or_congr_left or_assoc)

/-- Two states post the same for their exits where each exit moves alike, or in neither. -/
theorem State.exitNotices_congr {s v : State} (port : v.port = s.port) (active : v.active = s.active) {new new' : ExitIdx → ReasonSet}
    (same : ∀ f, s.active.exits.has f = true →
      (new f = (v.exits.exits.get f).reasons ∧ new' f = (s.exits.exits.get f).reasons)
      ∨ (new f = new' f ∧ (v.exits.exits.get f).reasons = (s.exits.exits.get f).reasons)) : v.exitNotices new = s.exitNotices new' := by
  have moves (f) : v.moves new f = s.moves new' f := by
    rw [Bool.eq_iff_iff, State.moves_iff, State.moves_iff, active]
    refine and_congr_right fun defined => ?_
    rcases same f defined with ⟨stays, stays'⟩ | ⟨alike, reasons⟩
    · rw [stays, stays']
      exact iff_of_false (fun h => h rfl) fun h => h rfl
    · rw [alike, reasons]
  unfold State.exitNotices State.notice
  rw [List.filter_congr fun f _ => moves f, port]
  refine List.map_congr_left fun f mem => ?_
  obtain ⟨defined, differs⟩ := (State.moves_iff ..).1 (List.mem_filter.1 mem).2
  rcases same f defined with ⟨-, stays⟩ | ⟨alike, -⟩
  · exact absurd stays differs
  · rw [alike]

theorem ExitMove.setPassage {s u : State} (h : ExitMove { s with boundary := u.boundary } u) (p : PassageIdx) (r : PassageRec) :
    ExitMove { s with boundary := (u.setPassage p r).boundary } (u.setPassage p r) := by
  obtain ⟨x, l, c, form⟩ := h
  generalize u.boundary = b at form
  subst form
  exact ⟨x, l, c, rfl⟩

/-- STALE of the exits of a passage derived behind its record (R155): the exits follow to the sets that have it lifted. -/
theorem AdvertPart.lift {s u v : State} {a : Advert} {done : List AdvertEntry} {ns : List Notice} (h : AdvertPart s u a done ns)
    {p : PassageIdx} (fresh : u.boundary.passages.get p = s.boundary.passages.get p) (stale : (s.boundary.passages.get p).state = .stale)
    {r : PassageRec} (heard : r.state = .heard) (move : ExitMove { s with boundary := (u.setPassage p r).boundary } v)
    (follows : ExitsFollow (s.rebased (u.setPassage p r).boundary) v (s.lifted u.boundary) (fun _ => False)) :
    ExitsFollow (s.rebased (u.setPassage p r).boundary) (deriveStaleOf p v).1 (s.lifted (u.setPassage p r).boundary) (fun _ => False)
    ∧ (deriveStaleOf p v).2 = s.exitNotices fun f =>
      if s.active.exitUses p f then { (s.exits.exits.get f).reasons with stale := false } else (s.exits.exits.get f).reasons := by
  have leaves := move.leaves
  have active : v.active = s.active := leaves.active
  have part := deriveStaleOf_part p v
  rw [active] at part
  have get (q : PassageIdx) : (u.setPassage p r).boundary.passages.get q = if q = p then r else u.boundary.passages.get q := Table.get_set ..
  have unused {f} (h : ¬ s.active.exitUses p f = true) : v.given staleSet (s.active.exitUses p) f = (v.exits.exits.get f).reasons := if_neg h
  have reasons {f} (uses : s.active.exitUses p f = true) : (v.exits.exits.get f).reasons = (s.exits.exits.get f).reasons :=
    (follows.reasons (Layout.exitUses_defined uses)).trans (h.lifted_fresh fresh uses)
  have lifts {f} (uses : s.active.exitUses p f = true) :
      v.given staleSet (s.active.exitUses p) f = { (s.exits.exits.get f).reasons with stale := false } := by
    have holds : v.staleHolds f = false := by
      rw [State.staleHolds_of_uses (by rw [active]; exact uses), leaves.boundary]
      show decide (((u.setPassage p r).boundary.passages.get p).state = .stale) = false
      rw [get, if_pos rfl, heard]
      rfl
    unfold State.given
    rw [if_pos uses, staleSet, holds, reasons uses]
  constructor
  · have disjoint (f) (moved : (s.rebased (u.setPassage p r).boundary).moves (s.lifted u.boundary) f = true) :
        ¬ v.moves (v.given staleSet (s.active.exitUses p)) f = true := by
      rw [State.rebased_moves, State.moves_iff] at moved
      have other : ¬ s.active.exitUses p f = true := fun uses => moved.2 (h.lifted_fresh fresh uses)
      rw [State.moves_iff, unused other]
      exact fun later => later.2 rfl
    obtain ⟨x, l, c, form⟩ := move
    refine (follows.trans part.follows ⟨x, l, c, form⟩ part.move disjoint).congr (fun f defined => ?_) fun _ => (or_self_iff).symm
    unfold State.thenMoves
    by_cases uses : s.active.exitUses p f = true
    · have given : s.lifted (u.setPassage p r).boundary f = { (s.exits.exits.get f).reasons with stale := false } := by
        refine if_pos ⟨p, uses, ?_⟩
        rw [get, if_pos rfl, stale, heard]
        nofun
      rw [given, lifts uses]
      split
      · rfl
      · rename_i still
        rw [State.moves_iff, not_and, not_not, lifts uses, reasons uses] at still
        rw [h.lifted_fresh fresh uses]
        exact still (by rw [active]; exact defined)
    · have still : ¬ v.moves (v.given staleSet (s.active.exitUses p)) f = true := by
        rw [State.moves_iff, unused uses]
        exact fun later => later.2 rfl
      rw [if_neg still]
      refine if_congr (exists_congr fun q => and_congr_right fun used => ?_) rfl rfl
      rw [get, if_neg fun same : q = p => uses (same ▸ used)]
  · rw [part.notices]
    refine State.exitNotices_congr leaves.port active fun f _ => ?_
    by_cases uses : s.active.exitUses p f = true
    · exact .inr ⟨(lifts uses).trans (if_pos uses).symm, reasons uses⟩
    · exact .inl ⟨unused uses, if_neg uses⟩

/-- One more entry taken, for a passage not touched yet (R153 to R155). -/
theorem AdvertPart.entry {s u : State} {a : Advert} {done : List AdvertEntry} {ns : List Notice} (h : AdvertPart s u a done ns)
    {e : AdvertEntry} (other : ∀ d ∈ done, d.passage ≠ e.passage) :
    AdvertPart s (takeEntry a e u).1 a (done ++ [e]) (ns ++ (takeEntry a e u).2) := by
  have leaves := h.move.leaves
  have active : u.active = s.active := leaves.active
  have uses := State.uses_congr active a e
  have fresh := h.fresh other
  have list : (done ++ [e]).flatMap (s.entryNotices a) = ns ++ s.entryNotices a e := by
    rw [List.flatMap_append, ← h.notices, List.flatMap_singleton]
  by_cases taken : s.uses a e = true
  · have record : u.usedRecord a.generation e = s.usedRecord a.generation e := by
      unfold State.usedRecord
      rw [active, leaves.port]
    have boundary : (takeEntry a e u).1.boundary = (u.setPassage e.passage (s.usedRecord a.generation e)).boundary := by
      rw [(takeEntry_boundary a e u).2, uses, if_pos taken, record]
    have get (q : PassageIdx) : (u.setPassage e.passage (s.usedRecord a.generation e)).boundary.passages.get q =
        if q = e.passage then s.usedRecord a.generation e else u.boundary.passages.get q := Table.get_set ..
    have follows := h.takeRecord fresh (s.usedRecord a.generation e)
    have moved := (h.move.setPassage e.passage (s.usedRecord a.generation e)).trans (u.takeRecord_frame e.passage _)
    have whole : takeEntry a e u = useEntry a.generation e u := takeEntry_used (uses.trans taken)
    have all : ExitMove { s with boundary := (takeEntry a e u).1.boundary } (takeEntry a e u).1
        ∧ ExitsFollow (s.rebased (takeEntry a e u).1.boundary) (takeEntry a e u).1 (s.lifted (takeEntry a e u).1.boundary) (fun _ => False)
        ∧ (takeEntry a e u).2 = s.entryNotices a e := by
      rw [boundary, whole]
      unfold useEntry
      dsimp only
      rw [record, fresh]
      cases state : (s.boundary.passages.get e.passage).state with
      | heard =>
        refine ⟨moved, follows.congr (fun f _ => ?_) fun _ => Iff.rfl, ?_⟩
        · refine if_congr (exists_congr fun q => and_congr_right fun _ => ?_) rfl rfl
          rw [get]
          split
          · rename_i same
            rw [same, fresh, state]
            exact Iff.rfl
          · exact Iff.rfl
        · unfold State.entryNotices
          rw [state, if_neg (fun both => nomatch both.2)]
      | stale =>
        obtain ⟨lifted, notices⟩ := h.lift fresh state rfl moved follows
        refine ⟨moved.trans (deriveStaleOf_frame ..), lifted, ?_⟩
        dsimp only
        rw [notices, State.entryNotices, if_pos ⟨taken, state⟩]
        unfold State.passageNotice State.notice
        rw [leaves.port]
        rfl
    obtain ⟨move, exits, notices⟩ := all
    refine ⟨move, ?_, fun d mem used => ?_, fun p free => ?_, exits, by rw [list, notices]⟩
    · rw [boundary]
      show ({ u.boundary with passages := u.boundary.passages.set e.passage (s.usedRecord a.generation e) } : Boundary) = _
      rw [h.boundary]
      rfl
    · rw [boundary, get]
      rcases List.mem_append.1 mem with mem | mem
      · rw [if_neg (other d mem)]
        exact h.used d mem used
      · cases List.mem_singleton.1 mem
        exact if_pos rfl
    · rw [boundary, get, if_neg]
      · exact h.others p fun d mem => free d (List.mem_append_left _ mem)
      · rintro rfl
        have none := free e (List.mem_append_right _ (List.mem_singleton_self e)) rfl
        exact nomatch taken.symm.trans none
  · rw [takeEntry_passed (uses.trans (by simpa using taken)), List.append_nil]
    have none : s.entryNotices a e = [] := if_neg fun both => taken both.1
    refine ⟨h.move, h.boundary, fun d mem used => ?_, fun p free => h.others p fun d mem => free d (List.mem_append_left _ mem), h.follows, ?_⟩
    · rcases List.mem_append.1 mem with mem | mem
      · exact h.used d mem used
      · cases List.mem_singleton.1 mem
        exact absurd used taken
    · rw [list, none, List.append_nil]

end Machine
end Sys2Proof
end

/-!
ADVERT_RECEIVED (R145, R151 to R155): frames of its own, bad frames, the own hall id, and the entries of a neighbour.
-/
section
namespace Sys2Proof
namespace Machine

/-- A notice posted stands in the queue, or the queue overflowed (R188, R189). -/
theorem Port.postAll_mem (p : Port) {ns : List Notice} {n : Notice} (mem : n ∈ ns) :
    (p.postAll ns).flags.noticeOverflow = true ∨ n ∈ (p.postAll ns).notices := by
  have kept (ns : List Notice) (p : Port) (full : p.flags.noticeOverflow = true) : (p.postAll ns).flags.noticeOverflow = true := by
    induction ns generalizing p with
    | nil => exact full
    | cons n ns ih =>
      rw [Port.postAll_cons]
      refine ih _ ?_
      unfold Port.post
      split
      · exact full
      · rfl
  induction ns generalizing p with
  | nil => cases mem
  | cons m ns ih =>
    rw [Port.postAll_cons]
    rcases List.mem_cons.1 mem with rfl | mem
    · by_cases room : p.notices.length < 64
      · have joined : (p.post n).notices = p.notices ++ [n] := by
          rw [Port.post, if_pos (show p.notices.length < Config.noticeCapacity from room)]
        refine .inr (((p.post n).notices_prefix ns).mem ?_)
        rw [joined]
        exact List.mem_append_right _ (List.mem_singleton_self n)
      · refine .inl (kept ns _ ?_)
        rw [Port.post, if_neg (show ¬ p.notices.length < Config.noticeCapacity from room)]
        rfl
    · exact ih _ mem

theorem State.uses_eq_true {s : State} {a : Advert} {e : AdvertEntry} : s.uses a e = true ↔
    s.active.params.hallId ≠ 0 ∧ ∃ c, s.active.passages.get e.passage = some c ∧ c.neighbour = a.sender := by
  unfold State.uses
  cases s.active.passages.get e.passage with
  | none => simp
  | some c => simp

theorem State.uses_passage {s : State} {a : Advert} {d e : AdvertEntry} (same : d.passage = e.passage) : s.uses a d = s.uses a e := by
  unfold State.uses
  rw [same]

/-- All entries of an advert taken: they name distinct passages. -/
theorem AdvertPart.entries {s u : State} {a : Advert} {done : List AdvertEntry} {ns : List Notice} (h : AdvertPart s u a done ns)
    {l : List AdvertEntry} (distinct : ((done ++ l).map AdvertEntry.passage).Pairwise (· < ·)) :
    AdvertPart s (Emit.each l (takeEntry a) u).1 a (done ++ l) (ns ++ (Emit.each l (takeEntry a) u).2) := by
  induction l generalizing u done ns with
  | nil =>
    have nothing : Emit.each [] (takeEntry a) u = (u, []) := rfl
    rw [nothing, List.append_nil, List.append_nil]
    exact h
  | cons e l ih =>
    have other : ∀ d ∈ done, d.passage ≠ e.passage := by
      intro d mem
      rw [List.map_append, List.map_cons, List.pairwise_append] at distinct
      obtain ⟨-, -, apart⟩ := distinct
      exact ne_of_lt (apart _ (List.mem_map_of_mem mem) _ List.mem_cons_self)
    have rest := ih (h.entry other) (by rw [List.append_assoc]; exact distinct)
    rw [List.append_assoc] at rest
    rw [Emit.each_cons, ← List.append_assoc]
    exact rest

theorem takeAdvert_part {s : State} {a : Advert} (sound : a.Sound) (sender : a.sender ≠ s.active.params.hallId) :
    AdvertPart s (takeAdvert a s).1 a a.entries (takeAdvert a s).2 := by
  have whole : takeAdvert a s = Emit.each a.entries (takeEntry a) s := if_neg sender
  rw [whole]
  exact (AdvertPart.none s a).entries sound.passages

theorem execAdvertReceived_taken {s : State} {bits : List Bool} {a : Advert} (free : s.boundary.inFlight = none) (read : readAdvert bits = some a) :
    exec (.advertReceived bits) s = .next ((takeAdvert a).run s) := by
  have idle : s.sending = false := by rw [State.sending, free]; rfl
  refine congrArg Host.Outcome.next ?_
  rw [idle, read]
  rfl

section
variable {s t : State} {a : Advert} {ns : List Notice}

/-- The reason set of an exit once an advert is taken: as it was, or with STALE lifted. -/
theorem AdvertPart.reasons (h : AdvertPart s t a a.entries ns) (f : ExitIdx) :
    (t.exits.exits.get f).reasons = (s.exits.exits.get f).reasons
    ∨ (t.exits.exits.get f).reasons = { (s.exits.exits.get f).reasons with stale := false } := by
  rw [h.follows.exits f]
  split
  · unfold State.lifted
    split
    · exact .inr rfl
    · exact .inl rfl
  · exact .inl (State.rebased_reasons ..)

/-- The notices of an entry, told from what has changed. -/
theorem AdvertPart.entryNotices (h : AdvertPart s t a a.entries ns) {e : AdvertEntry} (mem : e ∈ a.entries) :
    (if (s.boundary.passages.get e.passage).state = (t.boundary.passages.get e.passage).state then []
      else s.notice .passageState (some (byte e.passage.val)) [1, 0] :: s.exitNotices fun f =>
        if s.active.exitUses e.passage f then s.lifted t.boundary f else (s.exits.exits.get f).reasons) = s.entryNotices a e := by
  unfold State.entryNotices
  by_cases taken : s.uses a e = true
  · have now : (s.usedRecord a.generation e).state = .heard := rfl
    rw [h.used e mem taken, now]
    cases state : (s.boundary.passages.get e.passage).state with
    | heard => rw [if_pos rfl, if_neg fun both => nomatch both.2]
    | stale =>
      have sets : (fun f => if s.active.exitUses e.passage f then s.lifted t.boundary f else (s.exits.exits.get f).reasons) =
          fun f => if s.active.exitUses e.passage f then { (s.exits.exits.get f).reasons with stale := false }
            else (s.exits.exits.get f).reasons := by
        funext f
        by_cases uses : s.active.exitUses e.passage f = true
        · rw [if_pos uses, if_pos uses]
          refine if_pos ⟨e.passage, uses, ?_⟩
          rw [h.used e mem taken, now, state]
          nofun
        · rw [if_neg uses, if_neg uses]
      rw [if_neg (by nofun), if_pos ⟨taken, rfl⟩, sets]
  · have still := h.others e.passage fun d _ same => by
      rw [← Bool.not_eq_true, State.uses_passage same]
      exact taken
    rw [still, if_pos rfl, if_neg fun both => taken both.1]

/-- An advert that only repeats leaves the exits and change pending alone. -/
theorem AdvertPart.quiet (h : AdvertPart s t a a.entries ns)
    (same : ∀ p, (t.boundary.passages.get p).remote = (s.boundary.passages.get p).remote
      ∧ (t.boundary.passages.get p).state = (s.boundary.passages.get p).state) :
    t.exits = s.exits ∧ t.engine = s.engine ∧ ns = [] := by
  have still (f) : ¬ (s.rebased t.boundary).moves (s.lifted t.boundary) f = true := fun moved => by
    rw [State.rebased_moves, State.moves_iff, State.lifted, if_neg fun ⟨p, _, differs⟩ => differs (same p).2.symm] at moved
    exact moved.2 rfl
  have driven (src) : ¬ (False ∨ ∃ f, (s.rebased t.boundary).moves (s.lifted t.boundary) f = true ∧ OutputSource.names f src = true) := by
    rintro (none | ⟨f, moved, -⟩)
    · exact none
    · exact still f moved
  have exits : t.exits.exits = s.exits.exits := Table.ext_get fun f => by
    rw [h.follows.exits f, if_neg (still f), State.rebased_get, if_neg fun ⟨p, _, differs⟩ => differs (same p).1]
  have lines : t.exits.lines = s.exits.lines := Table.ext_get fun l => by
    by_cases output : ∃ src, s.active.lines.get l = .output src
    · obtain ⟨src, mode⟩ := output
      exact h.follows.lines.held l src mode (driven src)
    · exact h.follows.lines.unnamed l fun src mode => output ⟨src, mode⟩
  have pending : t.engine.changePending = s.engine.changePending := by
    rw [Bool.eq_iff_iff, h.follows.pending, State.rebased_pending]
    refine ⟨?_, fun p => .inl (.inl p)⟩
    rintro ((p | ⟨p, differs⟩) | ⟨f, moved⟩)
    · exact p
    · exact absurd (same p).1 differs
    · exact absurd moved (still f)
  obtain ⟨x, l, c, form⟩ := h.move
  refine ⟨?_, ?_, ?_⟩
  · rw [form] at exits lines ⊢
    dsimp only at exits lines ⊢
    rw [exits, lines]
  · rw [form] at pending ⊢
    dsimp only at pending ⊢
    rw [pending]
  · rw [h.notices, List.flatMap_eq_nil_iff]
    intro e mem
    refine if_neg fun ⟨taken, stale⟩ => ?_
    have heard := (same e.passage).2
    rw [h.used e mem taken, stale] at heard
    cases heard

end

/-- Settles O29: a frame is the part's own, bad, under the own hall id, or its entries are taken one by one. -/
theorem advertsAreTaken : Obligations.AdvertsAreTaken := by
  refine ⟨fun bits => ⟨readAdvert_eq_some_iff bits, readAdvert_eq_none_iff bits⟩, fun s bits busy => ?_, fun s bits free bad => ?_,
    fun s bits a free read own => ?_, fun s bits a free read other => ?_⟩
  · exact congrArg Host.Outcome.next (if_pos busy)
  · have idle : s.sending = false := by rw [State.sending, free]; rfl
    refine congrArg Host.Outcome.next ?_
    rw [idle, bad]
    rfl
  · rw [execAdvertReceived_taken free read]
    refine congrArg Host.Outcome.next ?_
    have whole : takeAdvert a s = seeDuplicate s := if_pos own
    unfold Emit.run
    rw [whole, own]
    unfold seeDuplicate
    dsimp only
    cases watch : s.boundary.watch with
    | clear => rfl
    | seen last => rfl
  · have sound := ((goodAdvert_iff bits a).1 ((readAdvert_eq_some_iff bits a).1 read)).2
    have part := takeAdvert_part sound other
    have posted := (takeAdvert_timely a).run s
    refine ⟨_, execAdvertReceived_taken free read, ?_⟩
    have whole : (takeAdvert a).run s = (takeAdvert a s).1.postAll (takeAdvert a s).2 := rfl
    rw [whole] at posted ⊢
    generalize (takeAdvert a s).1 = u at part posted
    generalize (takeAdvert a s).2 = ns at part posted
    have port : u.port = s.port := part.move.leaves.port
    have follows := part.follows.into (.postAll u ns)
    have takes (e : AdvertEntry) (c : PassageCfg) (own : s.active.params.hallId ≠ 0) (cfg : s.active.passages.get e.passage = some c)
        (sender : c.neighbour = a.sender) : s.uses a e = true := State.uses_eq_true.2 ⟨own, c, cfg, sender⟩
    refine ⟨fun e mem c own cfg sender => ?_, fun p free => ?_, fun e => ?_, fun e mem c own cfg sender stale => ⟨?_, fun f uses => ?_⟩,
      fun differs => ?_, ?_, fun same => ?_, ?_, ?_⟩
    · refine (part.used e mem (takes e c own cfg sender)).trans ?_
      unfold State.usedRecord
      simp only [List.contains_iff_mem]
    · refine part.others p fun e mem same => ?_
      rw [← Bool.not_eq_true, State.uses_eq_true]
      rintro ⟨own, c, cfg, sender⟩
      rcases free e mem same with none | others
      · exact own none
      · exact others c (same ▸ cfg) sender
    · rw [State.postAll_exits]
      rcases part.reasons e with reasons | reasons <;> rw [reasons] <;> exact ⟨rfl, rfl, rfl, rfl⟩
    · refine Port.postAll_mem u.port ?_
      rw [part.notices]
      refine List.mem_flatMap.2 ⟨e, mem, ?_⟩
      rw [State.entryNotices, if_pos ⟨takes e c own cfg sender, stale⟩]
      exact List.mem_cons_self
    · have taken := takes e c own cfg sender
      have lifted : s.lifted u.boundary f = { (s.exits.exits.get f).reasons with stale := false } := by
        refine if_pos ⟨e.passage, uses, ?_⟩
        rw [part.used e mem taken, stale]
        nofun
      have reasons := part.follows.reasons (Layout.exitUses_defined uses)
      rw [lifted] at reasons
      exact congrArg ReasonSet.stale reasons
    · exact part.follows.pending.2 (.inl ((s.rebased_pending _).2 (.inr differs)))
    · rintro ⟨e, differs⟩
      refine part.follows.pending.2 (.inr ⟨e, ?_⟩)
      by_contra still
      refine differs ?_
      have kept := part.follows.unmoved still
      exact (congrArg ExitRec.reasons kept).trans (s.rebased_reasons ..)
    · obtain ⟨exits, engine, none⟩ := part.quiet same
      refine ⟨exits, engine, ?_⟩
      rw [none]
      exact port
    · rintro m lifted rfl rfl
      refine ⟨follows.from rfl ?_ rfl rfl, fun room => ?_⟩
      · refine congrArg Table.ofFn (funext fun f => if_congr Iff.rfl ?_ rfl)
        rw [State.baseCost_congr (s := { s with boundary := u.boundary }) (t := u.postAll ns) part.move.leaves.active fun _ => rfl]
      · have list : a.entries.flatMap (fun e =>
            if (s.boundary.passages.get e.passage).state = (u.boundary.passages.get e.passage).state then []
            else s.notice .passageState (some (byte e.passage.val)) [1, 0] :: s.exitNotices fun f =>
              if s.active.exitUses e.passage f then s.lifted u.boundary f else (s.exits.exits.get f).reasons) = ns := by
          rw [part.notices]
          exact List.flatMap_congr fun e mem => part.entryNotices mem
        refine Eq.trans ?_ (congrArg (s.port.notices ++ ·) list.symm)
        have fits : s.port.notices.length + ns.length ≤ 64 := by
          rw [← list]
          exact room
        rw [State.postAll_port, port, Port.postAll_room _ _ fits]
    · have boundary := part.boundary
      obtain ⟨x, l, c, form⟩ := part.move
      dsimp only
      rw [← posted.other]
      simp only [State.postAll_boundary, State.postAll_exits, State.postAll_engine]
      rw [← boundary]
      have ported : u.postAll ns = { u with port := (u.postAll ns).port } := rfl
      rw [ported]
      generalize (u.postAll ns).port = q
      generalize u.boundary = b at form
      subst form
      rfl

end Machine
end Sys2Proof
end

/-!
HANDOVER (R97, R98, R102 to R115, R146): the field published, the signs evaluated, the egress set formed and the next run started.
-/
section
namespace Sys2Proof
namespace Machine

/-! ## The evaluation of a sign -/

theorem Layout.liveExitAt_iff (a : Layout) (p : Published) (n : NodeIdx) : a.liveExitAt p n = true ↔ a.atLiveExit p n := by
  unfold Layout.liveExitAt Layout.atLiveExit
  rw [List.any_eq_true]
  constructor
  · rintro ⟨e, mem, live⟩
    rw [Bool.and_eq_true, decide_eq_true_eq] at live
    exact ⟨e.1, e.2, Table.mem_defined.1 mem, live.1, live.2⟩
  · rintro ⟨e, x, hx, node, live⟩
    exact ⟨(e, x), Table.mem_defined.2 hx, by rw [Bool.and_eq_true, decide_eq_true_eq]; exact ⟨node, live⟩⟩

theorem Layout.downhill_iff (a : Layout) (p : Published) (n : NodeIdx) (v : SegIdx) : a.downhill p n v = true ↔ a.leadsDown p n v := by
  unfold Layout.downhill Layout.leadsDown
  cases a.segments.get v with
  | none => simp
  | some g =>
    cases other : g.otherEnd n with
    | none => simp [other]
    | some m =>
      simp only [other, Layout.segOpen, Bool.and_eq_true, decide_eq_true_eq]
      constructor
      · rintro ⟨⟨⟨segOpen, travel⟩, finite⟩, less⟩
        exact ⟨g, m, rfl, other, segOpen, travel, finite, less⟩
      · rintro ⟨_, _, same, ends, segOpen, travel, finite, less⟩
        cases same
        cases other.symm.trans ends
        exact ⟨⟨⟨segOpen, travel⟩, finite⟩, less⟩

/-- Along a segment that leads downhill, the margin test is the one of R110. -/
theorem Layout.qualifies_iff {a : Layout} {p : Published} {n : NodeIdx} {v : SegIdx} (down : a.leadsDown p n v) :
    a.qualifies p n v = true ↔ a.beats p n v := by
  obtain ⟨g, m, segment, other, -⟩ := down
  unfold Layout.qualifies Layout.beats Layout.viaCost Published.cost
  simp only [segment, other, decide_eq_true_eq]
  constructor
  · exact fun h => ⟨g, m, rfl, other, h⟩
  · rintro ⟨_, _, h1, h2, h⟩
    cases h1
    cases other.symm.trans h2
    exact h

theorem Layout.confirmTicks_eq (a : Layout) (mode : HallMode) : a.confirmTicks mode = a.confirmTime mode := by
  cases mode
  · show 4 * a.params.tConf * 100 = 400 * a.params.tConf
    omega
  · exact Nat.mul_comm _ _

theorem SignCfg.arrowFor_eq (c : SignCfg) (mode : HallMode) (v : SegIdx) (k : Option Candidate) : c.arrowFor mode v k = c.shows mode v k := by
  cases mode <;> rfl

/-- The arrow a sign shows while one is shown (R107 to R111). -/
theorem evalArrow_rule (a : Layout) (p : Published) (mode : HallMode) (now : Ticks) (c : SignCfg) {old : SignRec} (b : SegIdx) {d : Dir} {v : SegIdx}
    (shown : old.shown.aspect = .arrow d) (segment : old.segment = some v) :
    ArrowRule a p mode now c v b old.candidate (evalArrow a p mode now c old b) := by
  have whole : evalArrow a p mode now c old b =
      if !a.downhill p c.node v then c.arrowFor mode b none
      else if v = b then c.arrowFor mode v none
      else if c.faceArrow v = c.faceArrow b then c.arrowFor mode b none
      else if !a.qualifies p c.node v then c.arrowFor mode v none
      else confirmWindow a mode now c v b old.candidate := by
    unfold evalArrow
    rw [shown, segment]
  have down (leads : a.leadsDown p c.node v) : ¬ (!a.downhill p c.node v) = true := by
    rw [(a.downhill_iff p c.node v).2 leads]
    exact Bool.false_ne_true
  have window (leads : a.leadsDown p c.node v) (ne : v ≠ b) (face : c.faceArrow v ≠ c.faceArrow b) (beats : a.beats p c.node v) :
      evalArrow a p mode now c old b = confirmWindow a mode now c v b old.candidate := by
    rw [whole, if_neg (down leads), if_neg ne, if_neg face, if_neg]
    rw [(Layout.qualifies_iff leads).2 beats]
    exact Bool.false_ne_true
  constructor
  case forced =>
    intro leads
    rw [← a.downhill_iff, Bool.not_eq_true] at leads
    rw [whole, leads, if_pos (by rfl), SignCfg.arrowFor_eq]
  case same =>
    intro leads same
    rw [whole, if_neg (down leads), if_pos same, SignCfg.arrowFor_eq]
  case invisible =>
    intro leads ne face
    rw [whole, if_neg (down leads), if_neg ne, if_pos face, SignCfg.arrowFor_eq]
  case held =>
    intro leads ne face loses
    rw [← Layout.qualifies_iff leads, Bool.not_eq_true] at loses
    rw [whole, if_neg (down leads), if_neg ne, if_neg face, loses, if_pos (by rfl), SignCfg.arrowFor_eq]
  case waits =>
    intro leads ne face beats other
    rw [window leads ne face beats]
    unfold confirmWindow
    cases candidate : old.candidate with
    | none => exact SignCfg.arrowFor_eq ..
    | some k => exact (if_neg (other k candidate)).trans (SignCfg.arrowFor_eq ..)
  case waiting =>
    intro leads ne face beats k candidate segment early
    rw [window leads ne face beats, candidate]
    refine (if_pos segment).trans ((if_neg ?_).trans (SignCfg.arrowFor_eq ..))
    rw [a.confirmTicks_eq]
    exact Nat.not_le.2 early
  case confirmed =>
    intro leads ne face beats k candidate segment late
    rw [window leads ne face beats, candidate]
    refine (if_pos segment).trans ((if_pos ?_).trans (SignCfg.arrowFor_eq ..))
    rw [a.confirmTicks_eq]
    exact late

/-- The evaluation of a sign (R103 to R112). -/
theorem evalSign_rule (a : Layout) (p : Published) (mode : HallMode) (now : Ticks) (c : SignCfg) (old : SignRec) :
    SignRule a p mode now c old (evalSign a p mode now c old) := by
  have lit (on : c.enabled = true) (far : ¬ a.atLiveExit p c.node) : evalSign a p mode now c old =
      if (p.field.nodes.get c.node).cost = Config.inf then SignRec.plain .cross .steady
      else match (p.field.nodes.get c.node).next with
        | none => SignRec.plain .cross .steady
        | some b => evalArrow a p mode now c old b := by
    rw [← a.liveExitAt_iff, Bool.not_eq_true] at far
    unfold evalSign
    rw [on, far]
    rfl
  constructor
  case disabled =>
    intro off
    unfold evalSign
    rw [off]
    rfl
  case atExit =>
    intro on live
    rw [← a.liveExitAt_iff] at live
    unfold evalSign
    rw [on, live]
    cases mode <;> rfl
  case cutOff =>
    intro on far unreached
    exact (lit on far).trans (if_pos unreached)
  case fresh =>
    intro on far reached b next none
    rw [lit on far, if_neg reached, next]
    dsimp only
    rw [← SignCfg.arrowFor_eq]
    unfold evalArrow
    split
    · rename_i d v aspect _
      exact absurd aspect (none d)
    · rfl
  case arrow =>
    intro on far reached b next d v shown segment
    rw [lit on far, if_neg reached, next]
    exact evalArrow_rule a p mode now c b shown segment

/-! ## The egress accounting -/

theorem Layout.mem_cutOff {a : Layout} {p : Published} {n : NodeIdx} : n ∈ a.cutOff p ↔
    ∃ x, a.nodes.get n = some x ∧ 0 < x.weight.val ∧ (p.field.nodes.get n).cost = Config.inf := by
  unfold Layout.cutOff Published.cost
  rw [List.mem_map]
  constructor
  · rintro ⟨⟨m, x⟩, mem, rfl⟩
    obtain ⟨defined, test⟩ := List.mem_filter.1 mem
    rw [Bool.and_eq_true, decide_eq_true_eq, decide_eq_true_eq] at test
    exact ⟨x, Table.mem_defined.1 defined, test⟩
  · rintro ⟨x, hx, test⟩
    refine ⟨(n, x), List.mem_filter.2 ⟨Table.mem_defined.2 hx, ?_⟩, rfl⟩
    rw [Bool.and_eq_true, decide_eq_true_eq, decide_eq_true_eq]
    exact test

theorem Layout.cutOff_pairwise (a : Layout) (p : Published) : (a.cutOff p).Pairwise (· < ·) :=
  a.nodes.defined_pairwise.sublist (List.filter_sublist.map _)

/-- The egress accounting: the set, the lines of NO_EGRESS_ANY where the count changes, and the notice of a changed set (R68, R115). -/
theorem formEgress_eq (p : Published) (s : State) :
    (formEgress p s).1.aspect = { s.aspect with egressSet := s.active.cutOff p }
    ∧ LinesFollow s (formEgress p s).1 (fun src => src = .noEgressAny ∧ (s.active.cutOff p).length ≠ s.aspect.egressSet.length)
    ∧ (formEgress p s).2 = if s.active.cutOff p = s.aspect.egressSet then [] else [s.egressNotice (s.active.cutOff p)] := by
  unfold formEgress
  dsimp only
  split
  · rename_i same
    exact ⟨by rw [same], .still rfl fun src h => h.2 (by rw [same]), rfl⟩
  · unfold State.takeEgress
    split
    · rename_i count
      exact ⟨rfl, .still rfl fun src h => h.2 count, rfl⟩
    · rename_i count
      have driven := ((s.setEgress (s.active.cutOff p)).drive_follows fun src => src = .noEgressAny).of_source (s' := s) rfl rfl
      refine ⟨rfl, ?_, rfl⟩
      have alike (src : OutputSource) : (src = .noEgressAny ∧ (s.active.cutOff p).length ≠ s.aspect.egressSet.length) ↔
          decide (src = .noEgressAny) = true := by
        rw [decide_eq_true_eq]
        exact and_iff_left count
      simp only [alike]
      exact driven

end Machine
end Sys2Proof
end

/-!
The adoption of a field (R102), and the HANDOVER that brings it (R77, R97, R98, R120).
-/
section
namespace Sys2Proof
namespace Machine

/-- Lines that follow one set of sources, and then another. -/
theorem LinesFollow.trans {s u t : State} {first second : OutputSource → Prop} (h : LinesFollow s u first) (k : LinesFollow u t second)
    (active : u.active = s.active) (kept : ∀ src, first src → ¬ second src → t.sourceTrue src = u.sourceTrue src) :
    LinesFollow s t (fun src => first src ∨ second src) := by
  have later (l : LineIdx) (m : LineMode) (mode : s.active.lines.get l = m) : u.active.lines.get l = m := by rw [active]; exact mode
  refine ⟨fun l src d mode line driven => ?_, fun l src mode still => ?_, fun l v start line => ?_, fun l other => ?_⟩
  · by_cases again : second src
    · by_cases before : first src
      · exact k.shown l src _ (later l _ mode) (h.shown l src d mode line before) again
      · exact k.shown l src d (later l _ mode) ((h.held l src mode before).trans line) again
    · have before := driven.resolve_right again
      rw [k.held l src (later l _ mode) again, h.shown l src d mode line before, kept src before again]
  · obtain ⟨before, after⟩ := not_or.1 still
    exact (k.held l src (later l _ mode) after).trans (h.held l src mode before)
  · exact k.inputs l v start (h.inputs l v start line)
  · exact (k.unnamed l (by rw [active]; exact other)).trans (h.unnamed l other)

/-- What the adoption of a field `p` leaves in `t`, with the notices `ns` (R102, R114, R115, R146). -/
structure Adoption (s t : State) (p : Published) (ns : List Notice) : Prop where
  published : t.aspect.published = some p ∧ t.aspect.lastGeneration = p.field.generation
  signs : ∀ i c, s.active.signs.get i = some c →
    t.aspect.signs.get i = evalSign s.active p s.alarm.mode s.port.clock c (s.aspect.signs.get i)
  unset : ∀ i, s.active.signs.get i = none → t.aspect.signs.get i = s.aspect.signs.get i
  queue : t.signLine.queue = s.signLine.queue ++ (s.active.signs.defined.filter (s.joins (s.evaluated p))).map Prod.fst
  egressSet : t.aspect.egressSet = s.active.cutOff p
  lines : LinesFollow s t fun src => (src = .noEgressAny ∧ (s.active.cutOff p).length ≠ s.aspect.egressSet.length) ∨ src.isInUse = true
  boundary : t.boundary = (s.takeField p).boundary
  notices : ns = if s.active.cutOff p = s.aspect.egressSet then [] else [s.egressNotice (s.active.cutOff p)]
  frame : t = { s with
    aspect := t.aspect
    signLine := { s.signLine with queue := t.signLine.queue }
    exits := { s.exits with lines := t.exits.lines }
    boundary := t.boundary }

theorem State.takeField_boundary {s u : State} (active : u.active = s.active) (boundary : u.boundary = s.boundary) (port : u.port = s.port)
    (p : Published) : (u.takeField p).boundary = (s.takeField p).boundary := by
  have build : u.mayBuild = s.mayBuild := by
    unfold State.mayBuild State.passed
    rw [boundary, port]
  unfold State.takeField State.build
  rw [active, build, boundary, port]
  split
  · exact boundary
  · split
    · rfl
    · rfl

theorem adoptField_adopts (p : Published) (s : State) : Adoption s (adoptField p s).1 p (adoptField p s).2 := by
  generalize hb : ({ s with aspect := { s.aspect with published := some p, lastGeneration := p.field.generation } } : State) = b
  have whole : adoptField p s = (((formEgress p (b.evalSigns p)).1.drive OutputSource.isInUse).takeField p, (formEgress p (b.evalSigns p)).2) := by
    rw [← hb]
    rfl
  have signs := b.evalSigns_eq p
  obtain ⟨records, q, evaluated⟩ := b.evalSigns_frame p
  have egress := formEgress_eq p (b.evalSigns p)
  obtain ⟨set, l, formed⟩ := formEgress_frame p (b.evalSigns p)
  rw [whole]
  generalize formEgress p (b.evalSigns p) = r at egress formed
  generalize b.evalSigns p = c at signs evaluated egress formed
  generalize r.1 = d at egress formed
  generalize r.2 = ns at egress
  obtain ⟨shown, unset, queue⟩ := signs
  obtain ⟨aspect, lines, notices⟩ := egress
  obtain ⟨boundary, taken⟩ := (d.drive OutputSource.isInUse).takeField_frame p
  have field : ((d.drive OutputSource.isInUse).takeField p).boundary = (s.takeField p).boundary := by
    refine State.takeField_boundary ?_ ?_ ?_ p <;> rw [formed, evaluated, ← hb] <;> rfl
  have active : c.active = s.active := by rw [evaluated, ← hb]; rfl
  have before : b.active = s.active := by rw [← hb]; rfl
  rw [active] at aspect lines notices
  rw [before] at shown unset queue
  generalize ht : (d.drive OutputSource.isInUse).takeField p = t at field
  have records' : t.aspect = { c.aspect with egressSet := s.active.cutOff p } := by
    rw [← ht, taken, ← aspect]
    rfl
  constructor
  case published =>
    rw [records', evaluated, ← hb]
    exact ⟨rfl, rfl⟩
  case signs =>
    intro i cfg hc
    rw [records', shown i cfg hc, ← hb]
  case unset =>
    intro i hi
    rw [records', unset i hi, ← hb]
  case queue =>
    have line : t.signLine = c.signLine := by rw [← ht, taken, formed]; rfl
    rw [line, queue, ← hb]
    rfl
  case egressSet => rw [records']
  case lines =>
    have count : c.aspect.egressSet = s.aspect.egressSet := by rw [evaluated, ← hb]; rfl
    rw [count] at lines
    have first := lines.of_source (s' := s) active.symm (by rw [evaluated, ← hb]; rfl)
    have sources (src : OutputSource) : t.sourceTrue src = d.sourceTrue src := by
      rw [← ht, taken]
      cases src <;> rfl
    have driven := (d.drive_follows OutputSource.isInUse).congr (u := t) (by rw [← ht, taken]; rfl) fun src _ =>
      (sources src).trans (d.sourceTrue_lines _ src).symm
    exact first.trans driven (by rw [formed, State.active, evaluated, ← hb]; rfl) fun src _ _ => sources src
  case boundary => exact field
  case notices =>
    rw [notices, evaluated, ← hb]
    rfl
  case frame =>
    rw [← ht, taken, formed, evaluated, ← hb]
    rfl

/-! ## The handover -/

theorem execHandover_runs {s : State} {r : Run} (run : s.engine.run = some r) (phase : r.phase = .handover) : exec .handover s =
    .next ((adoptField (s.handedOver r) (s.setEngine { s.engine with generation := s.engine.generation + 1 })).1.nextRun.kickAll.postAll
      (adoptField (s.handedOver r) (s.setEngine { s.engine with generation := s.engine.generation + 1 })).2) := by
  refine congrArg Host.Outcome.next ?_
  rw [run]
  exact if_pos phase

/-- The engine goes on with the next run, or idles (R77). -/
theorem State.nextRun_eq (s : State) : s.nextRun = s.setEngine (if s.engine.changePending || s.engine.refreshDue then
    { s.engine with run := some (Run.start s.takeSnapshot), changePending := false, refreshDue := false, lastStart := some s.port.clock }
    else { s.engine with run := none }) := by
  unfold State.nextRun
  split <;> rfl

theorem State.takeSnapshot_congr {s u : State} (zones : u.zones = s.zones) (exits : u.exits.exits = s.exits.exits) :
    u.takeSnapshot = s.takeSnapshot := by
  unfold State.takeSnapshot
  rw [zones, exits]

/-- The field handed over (R97, R101). -/
theorem State.handedOver_source (s : State) (r : Run) (e : ExitIdx) : (s.handedOver r).basis.source.get e =
    decide (s.active.sourceCost r.snapshot (fun f => if s.active.params.gain = 0 then 0 else (r.exits.get f).penalty) e ≤ Config.maxCost) := by
  have final : r.finalSource s.active e =
      s.active.sourceCost r.snapshot (fun f => if s.active.params.gain = 0 then 0 else (r.exits.get f).penalty) e := by
    unfold Run.finalSource
    by_cases zero : s.active.params.gain = 0
    · simp only [zero, if_true]
      rfl
    · simp only [zero, if_false, Nat.pos_of_ne_zero zero, if_true]
      rfl
  rw [← final]
  exact Table.get_ofFn ..

theorem State.mem_joined {s : State} {p : Published} {i : SignIdx} :
    i ∈ (s.active.signs.defined.filter (s.joins (s.evaluated p))).map Prod.fst ↔
    (∃ c, s.active.signs.get i = some c
      ∧ (evalSign s.active p s.alarm.mode s.port.clock c (s.aspect.signs.get i)).shown ≠ (s.aspect.signs.get i).shown) ∧ s.admits i = true := by
  rw [List.mem_map]
  constructor
  · rintro ⟨⟨j, c⟩, mem, rfl⟩
    obtain ⟨defined, joins⟩ := List.mem_filter.1 mem
    rw [State.joins, Bool.and_eq_true, decide_eq_true_eq] at joins
    exact ⟨⟨c, Table.mem_defined.1 defined, joins.1⟩, joins.2⟩
  · rintro ⟨⟨c, hc, differs⟩, admits⟩
    refine ⟨(i, c), List.mem_filter.2 ⟨Table.mem_defined.2 hc, ?_⟩, rfl⟩
    rw [State.joins, Bool.and_eq_true, decide_eq_true_eq]
    exact ⟨differs, admits⟩

/-- Settles O23: the handover is the adoption of the field, the engine's next step and the trunks' starts. -/
theorem fieldIsHandedOver : Obligations.FieldIsHandedOver := by
  intro s r run phase
  have adopts := adoptField_adopts (s.handedOver r) (s.setEngine { s.engine with generation := s.engine.generation + 1 })
  have runs := execHandover_runs run phase
  have timely := (adoptField_timely (s.handedOver r) (s.setEngine { s.engine with generation := s.engine.generation + 1 })).2
  generalize adoptField (s.handedOver r) (s.setEngine { s.engine with generation := s.engine.generation + 1 }) = q at adopts runs timely
  generalize q.1 = u at adopts runs
  generalize q.2 = ns at adopts runs timely
  have kicked := u.nextRun.kickAll_eq
  have kept := u.nextRun.kickAll_queue
  have same (v : State) := State.kickAll_congr (u := v) (s := u.nextRun)
  rw [State.nextRun_eq] at runs kicked kept same
  generalize hg : (if u.engine.changePending || u.engine.refreshDue then
    { u.engine with run := some (Run.start u.takeSnapshot), changePending := false, refreshDue := false, lastStart := some u.port.clock }
    else { u.engine with run := none } : Engine) = g at runs kicked kept same
  generalize (u.setEngine g).kickAll = k at runs kicked kept same
  refine ⟨_, s.handedOver r, runs, ?_⟩
  have form : k.postAll ns = { s with
      engine := g, aspect := u.aspect, signLine := k.signLine, exits := { s.exits with lines := u.exits.lines }
      boundary := u.boundary, port := s.port.postAll ns } := by
    have frame := adopts.frame
    generalize u.aspect = x at frame ⊢
    generalize u.signLine.queue = y at frame
    generalize u.exits.lines = z at frame ⊢
    generalize u.boundary = w at frame ⊢
    unfold State.postAll
    rw [kicked, frame]
    rfl
  have snapshot : u.takeSnapshot = s.takeSnapshot := State.takeSnapshot_congr (by rw [adopts.frame]; rfl) (by rw [adopts.frame]; rfl)
  have engine : u.engine = { s.engine with generation := s.engine.generation + 1 } := by rw [adopts.frame]; rfl
  have clock : u.port = s.port := by rw [adopts.frame]; rfl
  have active : u.active = s.active := by rw [adopts.frame]; rfl
  rw [snapshot, engine, clock] at hg
  generalize ht : k.postAll ns = t at form
  have aspect : t.aspect = u.aspect := by rw [form]
  have later : t.active = u.active := by rw [active, form]; rfl
  have records : t.exits.exits = u.exits.exits := by rw [form, adopts.frame]; rfl
  have boundary : t.boundary = (s.takeField (s.handedOver r)).boundary := by
    rw [form, adopts.boundary]
    exact State.takeField_boundary (s := s) (u := s.setEngine { s.engine with generation := s.engine.generation + 1 }) rfl rfl rfl _
  have lines : t.exits.lines = u.exits.lines := by rw [form]
  have queue : t.signLine.queue = u.signLine.queue := by rw [← ht]; exact kept
  have port : t.port = s.port.postAll ns := by rw [form]
  have notices : ns = if t.aspect.egressSet = s.aspect.egressSet then [] else [s.egressNotice t.aspect.egressSet] := by
    rw [aspect, adopts.egressSet, adopts.notices]
    rfl
  have set : t.aspect.egressSet = s.active.cutOff (s.handedOver r) := by rw [aspect, adopts.egressSet]; rfl
  refine ⟨?_, rfl, ?_, ?_, rfl, rfl, rfl, s.handedOver_source r, fun n => Table.get_ofFn .., fun i c hc => ?_, fun i hi => ?_, fun i => ?_,
    ⟨_, (s.active.signs.defined_pairwise.sublist (List.filter_sublist.map _)), queue.trans adopts.queue⟩, ?_, fun n => ?_, ?_, fun still => ?_,
    fun changed room => ?_, fun l e mode d line => ?_, fun l mode d line => ?_, fun l inUse any => ?_, fun zero => ?_, fun own build => ?_,
    fun own wait => ?_, ?_, ?_⟩
  · rw [aspect]
    exact adopts.published.1
  · have generation : t.engine = g := by rw [form]
    rw [generation, ← hg]
    split <;> rfl
  · rw [aspect]
    exact adopts.published.2
  · rw [aspect]
    have sign := adopts.signs i c hc
    exact ⟨sign, sign ▸ evalSign_rule ..⟩
  · rw [aspect]
    exact adopts.unset i hi
  · rw [queue, adopts.queue, List.mem_append, State.mem_joined, aspect]
    by_cases queued : i ∈ s.signLine.queue
    · exact iff_of_true (.inl queued) (.inl queued)
    · refine or_congr_right ?_
      have admits : (s.setEngine { s.engine with generation := s.engine.generation + 1 }).admits i = true ↔ (s.signLine.heads.get i).state ≠ .lost := by
        unfold State.admits
        rw [Bool.and_eq_true, decide_eq_true_iff, decide_eq_true_iff]
        exact and_iff_right queued
      rw [admits]
      refine and_congr_left fun _ => ⟨fun ⟨c, hc, differs⟩ => ?_, fun differs => ?_⟩
      · rw [adopts.signs i c hc]
        exact differs
      · cases hc : s.active.signs.get i with
        | none => exact absurd (congrArg SignRec.shown (adopts.unset i hc)) differs
        | some c =>
          rw [adopts.signs i c hc] at differs
          exact ⟨c, hc, differs⟩
  · refine Eq.trans (by rw [form]) (same _ ?_ ?_ ?_).symm
    · exact later
    · show t.aspect.signs = u.aspect.signs
      rw [aspect]
    · have line : u.signLine = { s.signLine with queue := u.signLine.queue } := congrArg State.signLine adopts.frame
      show { s.signLine with queue := t.signLine.queue } = u.signLine
      rw [queue, ← line]
  · have nodes : (s.handedOver r).field.nodes.get n =
        { cost := (r.nodes.get n).cost, next := (r.nodes.get n).next, route := (r.nodes.get n).route } := Table.get_ofFn ..
    rw [set, Layout.mem_cutOff, nodes]
  · rw [set]
    exact s.active.cutOff_pairwise _
  · rw [port, notices, if_pos still]
    rfl
  · rw [port, notices, if_neg changed, Port.postAll_room s.port [s.egressNotice t.aspect.egressSet] room]
    generalize t.aspect.egressSet = l
    cases l <;> rfl
  · rw [lines, adopts.lines.shown l _ d mode line (.inr rfl)]
    refine congrArg LineRec.output (?_ : u.exitInUse e = t.exitInUse e)
    unfold State.exitInUse
    rw [later, aspect, records]
  · rw [lines]
    by_cases count : t.aspect.egressSet.length = s.aspect.egressSet.length
    · rw [if_pos count, adopts.lines.held l _ mode, ← line]
      · rfl
      · rintro (⟨-, differs⟩ | inUse)
        · exact differs ((congrArg List.length set.symm).trans count)
        · cases inUse
    · rw [if_neg count, adopts.lines.shown l _ d mode line (.inl ⟨rfl, fun same => count (by rw [set]; exact same)⟩), aspect]
      rfl
  · rw [lines]
    by_cases output : ∃ src, s.active.lines.get l = .output src
    · obtain ⟨src, mode⟩ := output
      refine adopts.lines.held l src mode ?_
      rintro (⟨rfl, -⟩ | driven)
      · exact any mode
      · cases src with
        | exitInUse e => exact inUse e mode
        | _ => cases driven
    · exact adopts.lines.unnamed l fun src mode => output ⟨src, mode⟩
  · rw [boundary, State.takeField, if_pos zero]
  · rw [boundary, State.takeField, if_neg own, if_pos build]
    rfl
  · rw [boundary, State.takeField, if_neg own, if_neg (by rw [wait]; exact Bool.false_ne_true)]
    rfl
  · have runs : t.engine = g := by rw [form]
    rw [runs, ← hg]
    split <;> rfl
  · have posted := Posted.other (Posted.refl.postAll ns timely)
    have ported : t.port = { s.port with notices := t.port.notices, flags := t.port.flags, snapshot := t.port.snapshot } := by
      rw [port]
      exact posted
    rw [← ported]
    rw [form]

end Machine
end Sys2Proof
end

/-!
READ_ROUTE, READ_ZONES, READ_SIGNS, READ_EXITS and READ_LINES: records of one width laid end to end (R37, R69, R70, R116, R159, R185,
R205).
-/
section
namespace Sys2Proof
namespace Machine

/-! ## Records of one width, laid end to end -/

section Records
variable {α : Type} {f : α → List Byte} {width : Nat}

theorem records_length {l : List α} (fixed : ∀ x ∈ l, (f x).length = width) : (l.flatMap f).length = width * l.length := by
  induction l with
  | nil => rfl
  | cons x l ih =>
    rw [List.flatMap_cons, List.length_append, fixed x (.head _), ih fun y hy => fixed y (.tail _ hy), List.length_cons]
    ring

/-- Record `k` stands at `k` widths, whatever follows the records. -/
theorem record_at {l : List α} (fixed : ∀ x ∈ l, (f x).length = width) {k : Nat} {x : α} (at_k : l[k]? = some x) (rest : List Byte) :
    ((l.flatMap f ++ rest).drop (width * k)).take width = f x := by
  induction l generalizing k with
  | nil => simp at at_k
  | cons y l ih =>
    have first : (f y).length = width := fixed y (.head _)
    rw [List.flatMap_cons, List.append_assoc]
    cases k with
    | zero =>
      obtain rfl : y = x := by simpa using at_k
      rw [Nat.mul_zero, List.drop_zero, List.take_append_of_le_length first.ge, List.take_of_length_le first.le]
    | succ k =>
      rw [show width * (k + 1) = (f y).length + width * k by rw [first]; ring, ← List.drop_drop, List.drop_left]
      exact ih (fun z hz => fixed z (.tail _ hz)) at_k

end Records

theorem getElem?_finRange {n : Nat} (i : Fin n) : (List.finRange n)[i.val]? = some i := by simp

/-- The indices `rangeBytes` keeps are those from the first on, in order. -/
theorem inRange_vals {n first count : Nat} (fits : first + count ≤ n) :
    ((List.finRange n).filter fun i => decide (first ≤ i.val) && decide (i.val < first + count)).map Fin.val = List.range' first count := by
  have split : List.range n = List.range first ++ (List.range' first count ++ List.range' (first + count) (n - (first + count))) := by
    have later := List.range'_append_1 (s := first) (m := count) (n := n - (first + count))
    have all := List.range'_append_1 (s := 0) (m := first) (n := count + (n - (first + count)))
    rw [Nat.zero_add, show first + (count + (n - (first + count))) = n by omega] at all
    rw [List.range_eq_range', List.range_eq_range', later, all]
  have below : (List.range first).filter (fun i => decide (first ≤ i) && decide (i < first + count)) = [] := by
    simp [List.filter_eq_nil_iff]; omega
  have inside : (List.range' first count).filter (fun i => decide (first ≤ i) && decide (i < first + count)) = List.range' first count := by
    simp [List.filter_eq_self, List.mem_range'_1]
  have above : (List.range' (first + count) (n - (first + count))).filter
      (fun i => decide (first ≤ i) && decide (i < first + count)) = [] := by
    simp [List.filter_eq_nil_iff, List.mem_range'_1]; omega
  calc ((List.finRange n).filter fun i => decide (first ≤ i.val) && decide (i.val < first + count)).map Fin.val
      = ((List.finRange n).map Fin.val).filter (fun i => decide (first ≤ i) && decide (i < first + count)) := by
        rw [List.filter_map]; rfl
    _ = List.range' first count := by
        rw [List.map_coe_finRange_eq_range, split, List.filter_append, List.filter_append, below, inside, above, List.append_nil,
          List.nil_append]

section Ranges
variable {n first count width : Nat} {f : Fin n → List Byte} (fits : first + count ≤ n) (fixed : ∀ i, (f i).length = width)
include fits fixed

theorem rangeBytes_length : (rangeBytes n first count f).length = width * count := by
  have size := congrArg List.length (inRange_vals (n := n) fits)
  rw [List.length_map, List.length_range'] at size
  rw [rangeBytes, records_length fun i _ => fixed i, size]

theorem rangeBytes_at {i : Fin n} (low : first ≤ i.val) (high : i.val < first + count) :
    ((rangeBytes n first count f).drop (width * (i.val - first))).take width = f i := by
  have kept := congrArg (·[i.val - first]?) (inRange_vals (n := n) fits)
  rw [List.getElem?_map, List.getElem?_range' (by omega), Option.map_eq_some_iff] at kept
  obtain ⟨j, at_j, same⟩ := kept
  obtain rfl : j = i := Fin.ext (by omega)
  have placed := record_at (fun i _ => fixed i) at_j []
  rwa [List.append_nil] at placed

end Ranges

/-! ## Ranges of records -/

theorem arg_pair (a b : Byte) : arg [a, b] 0 = a.toNat ∧ arg [a, b] 1 = b.toNat := ⟨rfl, rfl⟩

theorem rangeOk_iff {size most first count : Nat} :
    rangeOk size most first count = true ↔ 1 ≤ count ∧ count ≤ most ∧ first + count ≤ size := by
  simp [rangeOk]; omega

theorem routeEntry_eq (pub : Option Published) (n : NodeIdx) : routeEntry pub n.val =
    match pub with
    | none => [0x0F, 0xFF, 0xFF, 0xFF, 0xFF, 0xFF]
    | some p => word24 (p.field.nodes.get n).cost ++ segmentCode (p.field.nodes.get n).next ++ [optByte (p.field.nodes.get n).route] := by
  cases pub with
  | none => rfl
  | some p => exact dif_pos n.isLt

theorem segmentCode_length (v : Option SegIdx) : (segmentCode v).length = 2 := by cases v <;> rfl

theorem routeEntry_length (pub : Option Published) (n : NodeIdx) : (routeEntry pub n.val).length = 6 := by
  rw [routeEntry_eq]
  cases pub with
  | none => rfl
  | some p => simp [word24, segmentCode_length]

theorem State.signEntry_length (s : State) (i : SignIdx) : (s.signEntry i).length = 13 := by
  simp [State.signEntry, segmentCode_length, ticksBytes]

theorem State.routeBody_eq (s : State) (first count : Nat) : s.routeBody first count =
    (word16 s.aspect.lastGeneration.toNat
      ++ match s.aspect.published with
        | none => [0, 0, 0, 0, 0]
        | some p => ticksBytes p.field.time ++ [1])
    ++ (List.range count).flatMap fun k => routeEntry s.aspect.published (first + k) := by
  rw [State.routeBody, List.append_assoc (word16 _)]
  congr 2
  cases s.aspect.published with
  | none => rfl
  | some p => rfl

/-- READ_ROUTE's body: seven bytes of the published field, and six of each node of the range (R116, R185). -/
theorem State.routeBody_form (s : State) {first count : Nat} (fits : first + count ≤ 256) :
    (s.routeBody first count).length = 7 + 6 * count
    ∧ (s.routeBody first count).take 7 = word16 s.aspect.lastGeneration.toNat
        ++ (match s.aspect.published with
          | none => [0, 0, 0, 0, 0]
          | some p => ticksBytes p.field.time ++ [1])
    ∧ ∀ n : NodeIdx, first ≤ n.val → n.val < first + count →
      ((s.routeBody first count).drop (7 + 6 * (n.val - first))).take 6 = routeEntry s.aspect.published n.val := by
  have width : ∀ k ∈ List.range count, (routeEntry s.aspect.published (first + k)).length = 6 := fun k hk =>
    routeEntry_length _ ⟨first + k, by have := List.mem_range.1 hk; omega⟩
  have head : (word16 s.aspect.lastGeneration.toNat
      ++ match s.aspect.published with
        | none => [0, 0, 0, 0, 0]
        | some p => ticksBytes p.field.time ++ [1]).length = 7 := by
    cases s.aspect.published with
    | none => rfl
    | some p => rfl
  rw [s.routeBody_eq]
  refine ⟨?_, ?_, fun n low high => ?_⟩
  · rw [List.length_append, head, records_length width, List.length_range]
  · rw [List.take_append_of_le_length head.ge, List.take_of_length_le head.le]
  · have placed := record_at width (k := n.val - first) (x := n.val - first) (by rw [List.getElem?_range (by omega)]) []
    rw [List.append_nil, Nat.add_sub_cancel' low] at placed
    rw [← List.drop_drop, ← head, List.drop_left]
    exact placed

/-- Settles O11: a range in its table is answered record by record, in order, each record of one width. -/
theorem rangesAreRead : Obligations.RangesAreRead := by
  refine ⟨fun s first count h => ?_, fun s first count h => ?_, fun s first count h => ?_⟩
  · have run := exec_of_asks (c := .readRoute) rfl h rfl rfl
    rw [(arg_pair first count).1, (arg_pair first count).2] at run
    split
    next inside =>
      rw [if_pos (rangeOk_iff.2 inside), State.respond_eq_answered] at run
      obtain ⟨length, head, placed⟩ := s.routeBody_form inside.2.2
      exact ⟨_, run, length, head, fun n low high => (placed n low high).trans (routeEntry_eq _ n)⟩
    next outside => rwa [if_neg (mt rangeOk_iff.1 outside), State.respond_eq_answered] at run
  · have run := exec_of_asks (c := .readZones) rfl h rfl rfl
    rw [(arg_pair first count).1, (arg_pair first count).2] at run
    split
    next inside =>
      rw [if_pos (rangeOk_iff.2 inside), State.respond_eq_answered] at run
      have width : ∀ z, (s.zones.get z).bytes.length = 9 := fun _ => rfl
      exact ⟨_, run, rangeBytes_length inside.2.2 width, fun z low high => rangeBytes_at inside.2.2 width low high⟩
    next outside => rwa [if_neg (mt rangeOk_iff.1 outside), State.respond_eq_answered] at run
  · have run := exec_of_asks (c := .readSigns) rfl h rfl rfl
    rw [(arg_pair first count).1, (arg_pair first count).2] at run
    split
    next inside =>
      rw [if_pos (rangeOk_iff.2 inside), State.respond_eq_answered] at run
      exact ⟨_, run, rangeBytes_length inside.2.2 s.signEntry_length, fun i low high =>
        rangeBytes_at inside.2.2 s.signEntry_length low high⟩
    next outside => rwa [if_neg (mt rangeOk_iff.1 outside), State.respond_eq_answered] at run

/-! ## The exits and the lines -/

theorem State.exitEntry_length (s : State) (e : ExitIdx) : (s.exitEntry e).length = 10 := rfl

theorem LineMode.bytes_length (m : LineMode) : m.bytes.length = 2 := by
  cases m with
  | inputPlain => rfl
  | inputDoor => rfl
  | output src => cases src <;> rfl

theorem State.lineEntry_eq (s : State) (l : LineIdx) : s.lineEntry l = (s.active.lines.get l).bytes
    ++ [match s.exits.lines.get l with
      | .input v _ => boolByte v
      | .output d => boolByte d] := by
  rw [State.lineEntry]
  cases s.exits.lines.get l with
  | input v start => rfl
  | output d => rfl

theorem State.lineEntry_length (s : State) (l : LineIdx) : (s.lineEntry l).length = 3 := by
  rw [s.lineEntry_eq, List.length_append, LineMode.bytes_length]
  rfl

theorem pathBytes_length (path : Option (List HallId)) : (pathBytes path).length = 3 := by
  simp [pathBytes]

theorem State.passageEntry_length (s : State) (p : PassageIdx) : (s.passageEntry p).length = 14 := by
  simp [State.passageEntry, pathBytes_length, word24, word16, ticksBytes]

theorem Table.toList_two {α : Type} (t : Table α 2) : t.toList = [t.get 0, t.get 1] := by
  obtain ⟨l, size⟩ := t
  obtain ⟨a, b, rfl⟩ := List.length_eq_two.1 size
  rfl

/-- READ_LINES's body: 32 lines of three bytes, the alarm lines, the trunks, 8 passages of 14 bytes, and the bad adverts (R69). -/
theorem State.linesBody_eq (s : State) : s.linesBody = (List.finRange 32).flatMap s.lineEntry
    ++ (s.alarm.lineA.bytes ++ s.alarm.lineB.bytes ++ [(s.signLine.trunks.get 0).state.code, (s.signLine.trunks.get 1).state.code]
      ++ ((List.finRange 8).flatMap s.passageEntry ++ word16 s.boundary.errors)) := by
  simp only [State.linesBody, List.append_assoc, Table.toList_two, List.map_cons, List.map_nil]

theorem State.linesBody_form (s : State) : s.linesBody.length = 222
    ∧ (∀ l : LineIdx, (s.linesBody.drop (3 * l.val)).take 3 = s.lineEntry l)
    ∧ (s.linesBody.drop 96).take 12 = s.alarm.lineA.bytes ++ s.alarm.lineB.bytes
        ++ [(s.signLine.trunks.get 0).state.code, (s.signLine.trunks.get 1).state.code]
    ∧ (∀ p : PassageIdx, (s.linesBody.drop (108 + 14 * p.val)).take 14 = s.passageEntry p)
    ∧ s.linesBody.drop 220 = word16 s.boundary.errors := by
  have lines : ((List.finRange 32).flatMap s.lineEntry).length = 96 :=
    (records_length fun l _ => s.lineEntry_length l).trans (by simp)
  have passages : ((List.finRange 8).flatMap s.passageEntry).length = 112 :=
    (records_length fun p _ => s.passageEntry_length p).trans (by simp)
  have middle : (s.alarm.lineA.bytes ++ s.alarm.lineB.bytes
    ++ [(s.signLine.trunks.get 0).state.code, (s.signLine.trunks.get 1).state.code]).length = 12 := rfl
  rw [s.linesBody_eq]
  generalize s.alarm.lineA.bytes ++ s.alarm.lineB.bytes
    ++ [(s.signLine.trunks.get 0).state.code, (s.signLine.trunks.get 1).state.code] = mid at middle ⊢
  refine ⟨?_, fun l => record_at (fun l _ => s.lineEntry_length l) (getElem?_finRange l) _, ?_, fun p => ?_, ?_⟩
  · rw [List.length_append, List.length_append, List.length_append, lines, middle, passages]
    rfl
  · rw [List.drop_left' lines, List.take_left' middle]
  · rw [show 108 + 14 * p.val = 96 + (12 + 14 * p.val) by omega, ← List.drop_drop, List.drop_left' lines, ← List.drop_drop,
      List.drop_left' middle]
    exact record_at (fun p _ => s.passageEntry_length p) (getElem?_finRange p) _
  · rw [show 220 = 96 + (12 + 112) from rfl, ← List.drop_drop, List.drop_left' lines, ← List.drop_drop, List.drop_left' middle,
      List.drop_left' passages]

/-- Settles O12: both bodies are records of one width, laid end to end, with the line records before the rest. -/
theorem exitsAndLinesAreRead : Obligations.ExitsAndLinesAreRead := by
  refine ⟨fun s h => ?_, fun s e p published defined => ?_, fun s e absent => ?_, fun s h => ?_⟩
  · have run := exec_of_asks (c := .readExits) rfl h rfl rfl
    rw [State.respond_eq_answered] at run
    refine ⟨_, run, (records_length fun e _ => s.exitEntry_length e).trans (by simp), fun e => ?_⟩
    have placed := record_at (fun e _ => s.exitEntry_length e) (getElem?_finRange e) []
    rw [List.append_nil] at placed
    exact placed
  · rw [State.publishedExit, if_pos defined, published]
  · rw [State.publishedExit]
    split
    next defined =>
      rw [absent.resolve_right (by simp [defined])]
      rfl
    next => rfl
  · have run := exec_of_asks (c := .readLines) rfl h rfl rfl
    rw [State.respond_eq_answered] at run
    obtain ⟨length, lines, middle, passages, errors⟩ := s.linesBody_form
    exact ⟨_, run, length, fun l => (lines l).trans (s.lineEntry_eq l), middle, passages, errors⟩

end Machine
end Sys2Proof
end

/-!
The twelve checks of a layout (R15 to R18) report the lowest index that fails, and COMMIT_LAYOUT is refused with the first of them.
-/
section
namespace Sys2Proof
namespace Table

theorem entries_pairwise {α : Type} {n : Nat} (t : Table α n) : (t.entries.map Prod.fst).Pairwise (· < ·) := by
  have indices : t.entries.map Prod.fst = List.finRange n := by
    rw [Table.entries, List.map_fst_zip (by simp [t.size_eq])]
  rw [indices]
  exact List.pairwise_lt_finRange n

section Users
variable {α : Type} {n : Nat} (t : Table (Option α) n) (p : Fin n × α → Bool)

/-- The indices of the defined records of which something is true. -/
def holders : List (Fin n) := (t.defined.filter p).map Prod.fst

theorem holders_length : (t.defined.filter p).length = (t.holders p).length := (List.length_map _).symm

theorem holders_nodup : (t.holders p).Nodup := t.defined_nodup.sublist (List.filter_sublist.map Prod.fst)

theorem mem_holders {k : Fin n} : k ∈ t.holders p ↔ ∃ x, t.get k = some x ∧ p (k, x) = true := by
  simp only [Table.holders, List.mem_map, List.mem_filter]
  constructor
  · rintro ⟨⟨j, x⟩, ⟨mem, met⟩, rfl⟩
    exact ⟨x, Table.mem_defined.1 mem, met⟩
  · rintro ⟨x, defined, met⟩
    exact ⟨(k, x), ⟨Table.mem_defined.2 defined, met⟩, rfl⟩

end Users

end Table

namespace Machine

/-! ## The lowest index that fails -/

/-- What a check reports: the lowest index at which it fails, or nothing when it fails nowhere (R15). -/
inductive Lowest (fails : Nat → Prop) : Option Nat → Prop where
  | nowhere : (∀ i, ¬ fails i) → Lowest fails none
  | here (i : Nat) : fails i → (∀ j, fails j → i ≤ j) → Lowest fails (some i)

theorem Lowest.congr {P Q : Nat → Prop} {o : Option Nat} (h : Lowest P o) (same : ∀ i, Q i ↔ P i) : Lowest Q o := by
  rwa [show Q = P from funext fun i => propext (same i)]

/-- The first record of a list in index order of which something is true has the lowest index of these. -/
theorem firstIndex_lowest {α : Type} {n : Nat} {l : List (Fin n × α)} (sorted : (l.map Prod.fst).Pairwise (· < ·)) (p : Fin n × α → Bool) :
    Lowest (fun i => ∃ e ∈ l, e.1.val = i ∧ p e = true) (firstIndex l p) := by
  rw [firstIndex]
  cases found : l.find? p with
  | none =>
    refine .nowhere ?_
    rintro i ⟨e, mem, -, met⟩
    exact absurd met (by simpa using List.find?_eq_none.1 found e mem)
  | some e =>
    obtain ⟨holds, before, after, rfl, earlier⟩ := List.find?_eq_some_iff_append.1 found
    refine .here _ ⟨e, by simp, rfl, holds⟩ ?_
    rintro j ⟨f, mem, rfl, met⟩
    rcases List.mem_append.1 mem with first | later
    · exact absurd met (by simpa using earlier f first)
    · rcases List.mem_cons.1 later with rfl | later
      · exact le_rfl
      · rw [List.map_append, List.map_cons, List.pairwise_append, List.pairwise_cons] at sorted
        exact le_of_lt (sorted.2.1.1 f.1 (List.mem_map_of_mem later))

/-- A check over the defined records of a table (R15). -/
theorem definedIndex_lowest {α : Type} {n : Nat} (t : Table (Option α) n) (p : Fin n × α → Bool) :
    Lowest (fun i => ∃ k x, k.val = i ∧ t.get k = some x ∧ p (k, x) = true) (firstIndex t.defined p) :=
  (firstIndex_lowest t.defined_pairwise p).congr fun _ =>
    ⟨fun ⟨k, x, at_i, defined, met⟩ => ⟨(k, x), Table.mem_defined.2 defined, at_i, met⟩,
      fun ⟨e, mem, at_i, met⟩ => ⟨e.1, e.2, at_i, Table.mem_defined.1 mem, met⟩⟩

/-- A check over every record of a table (R15). -/
theorem entryIndex_lowest {α : Type} {n : Nat} (t : Table α n) (p : Fin n × α → Bool) :
    Lowest (fun i => ∃ k, k.val = i ∧ p (k, t.get k) = true) (firstIndex t.entries p) :=
  (firstIndex_lowest t.entries_pairwise p).congr fun i =>
    ⟨fun ⟨k, at_i, met⟩ => ⟨(k, t.get k), Table.mem_entries.2 rfl, at_i, met⟩,
      fun ⟨e, mem, at_i, met⟩ => ⟨e.1, at_i, by rwa [Table.mem_entries.1 mem]⟩⟩

/-! ## How many records there are -/

section Counts
variable {α : Type} {l : List α} (distinct : l.Nodup)
include distinct

theorem two_le_length_iff : 2 ≤ l.length ↔ ∃ x y, x ≠ y ∧ x ∈ l ∧ y ∈ l := by
  constructor
  · match l, distinct with
    | [], _ => simp
    | [x], _ => simp
    | x :: y :: l, distinct =>
      intro _
      exact ⟨x, y, fun same => (List.nodup_cons.1 distinct).1 (same ▸ .head _), .head _, .tail _ (.head _)⟩
  · rintro ⟨x, y, differ, hx, hy⟩
    match l with
    | [] => simp at hx
    | [z] => exact absurd ((List.mem_singleton.1 hx).trans (List.mem_singleton.1 hy).symm) differ
    | _ :: _ :: l => simp

theorem length_ne_one_iff : l.length ≠ 1 ↔ (∀ x, x ∉ l) ∨ ∃ x y, x ≠ y ∧ x ∈ l ∧ y ∈ l := by
  rw [← two_le_length_iff distinct, ← List.eq_nil_iff_forall_not_mem, ← List.length_eq_zero_iff]
  omega

/-- There are more than so many records exactly when so many can be listed. -/
theorem lt_length_iff {n : Nat} : n < l.length ↔ ∃ listed : List α, listed.Nodup ∧ n < listed.length ∧ ∀ x ∈ listed, x ∈ l :=
  ⟨fun more => ⟨l, distinct, more, fun _ h => h⟩,
    fun ⟨_, nodup, more, inside⟩ => more.trans_le (nodup.subperm inside).length_le⟩

end Counts

/-! ## The checks -/

namespace Layout
variable (a : Layout)

theorem segEnds_lowest : Lowest (a.Fails 1) a.segEnds := by
  refine (definedIndex_lowest _ _).congr fun i => ⟨?_, ?_⟩
  · intro fails
    cases fails with
    | segEnds k g defined bad =>
    exact ⟨k, g, rfl, defined, by simpa [Table.has, or_assoc] using bad⟩
  · rintro ⟨k, g, rfl, defined, bad⟩
    exact .segEnds k g defined (by simpa [Table.has, or_assoc] using bad)

theorem degree_lowest : Lowest (a.Fails 2) a.degree := by
  have count (k : NodeIdx) : 6 < (a.segments.defined.filter fun e => e.2.incident k).length ↔
      ∃ l : List SegIdx, l.Nodup ∧ 6 < l.length ∧ ∀ j ∈ l, ∃ g, a.segments.get j = some g ∧ g.incident k = true := by
    simp only [Table.holders_length, lt_length_iff (Table.holders_nodup _ _), Table.mem_holders]
  refine (definedIndex_lowest _ _).congr fun i => ⟨?_, ?_⟩
  · intro fails
    cases fails with
    | degree k r l defined nodup many incident =>
    exact ⟨k, r, rfl, defined, decide_eq_true ((count k).2 ⟨l, nodup, many, incident⟩)⟩
  · rintro ⟨k, r, rfl, defined, many⟩
    obtain ⟨l, nodup, many, incident⟩ := (count k).1 (of_decide_eq_true many)
    exact .degree k r l defined nodup many incident

theorem exitNode_lowest : Lowest (a.Fails 3) a.exitNode := by
  refine (definedIndex_lowest _ _).congr fun i => ⟨?_, ?_⟩
  · intro fails
    cases fails with
    | exitNode k x defined bad =>
    refine ⟨k, x, rfl, defined, ?_⟩
    rcases bad with missing | ⟨j, y, before, other, same⟩
    · simp [Table.has, missing]
    · refine Bool.or_eq_true_iff.2 (.inr (List.any_eq_true.2 ⟨(j, y), Table.mem_defined.2 other, ?_⟩))
      simp [before, same]
  · rintro ⟨k, x, rfl, defined, bad⟩
    refine .exitNode k x defined ?_
    rcases Bool.or_eq_true_iff.1 bad with missing | shared
    · exact .inl (by simpa [Table.has] using missing)
    · obtain ⟨⟨j, y⟩, mem, same⟩ := List.any_eq_true.1 shared
      have both := by simpa using same
      exact .inr ⟨j, y, both.1, Table.mem_defined.1 mem, both.2⟩

theorem exitKind_lowest : Lowest (a.Fails 4) a.exitKind := by
  refine (definedIndex_lowest _ _).congr fun i => ⟨?_, ?_⟩
  · intro fails
    cases fails with
    | exitKind k x defined bad =>
    refine ⟨k, x, rfl, defined, ?_⟩
    rcases bad with ⟨door, named⟩ | ⟨passage, bad⟩
    · simp only [door, named]
    · simp only [passage]
      cases named : x.passage with
      | none => simp
      | some p => simpa [Table.has, named] using bad
  · rintro ⟨k, x, rfl, defined, bad⟩
    refine .exitKind k x defined ?_
    cases kind : x.kind with
    | door => exact .inl ⟨rfl, by simpa only [kind] using bad⟩
    | passage =>
      simp only [kind] at bad
      refine .inr ⟨rfl, ?_⟩
      cases named : x.passage with
      | none => exact .inr (fun p h => nomatch h)
      | some p => simpa [Table.has, named] using bad

theorem noExit_lowest : Lowest (a.Fails 5) a.noExit := by
  have empty : a.exits.defined.isEmpty = true ↔ ∀ e, a.exits.get e = none := by
    rw [List.isEmpty_iff, List.eq_nil_iff_forall_not_mem]
    constructor
    · intro lacking e
      exact Option.eq_none_iff_forall_ne_some.2 fun x defined => lacking (e, x) (Table.mem_defined.2 defined)
    · rintro lacking ⟨e, x⟩ mem
      exact nomatch (lacking e).symm.trans (Table.mem_defined.1 mem)
  rw [noExit]
  split
  next h => exact .here 0 (.noExit (empty.1 h)) fun j _ => Nat.zero_le j
  next h =>
    refine .nowhere fun i fails => ?_
    cases fails with
    | noExit lacking => exact h (empty.2 lacking)

theorem signAddr_lowest : Lowest (a.Fails 6) a.signAddr := by
  refine (definedIndex_lowest _ _).congr fun i => ⟨?_, ?_⟩
  · intro fails
    cases fails with
    | signAddr k c defined bad =>
    obtain ⟨j, d, before, other, trunk, address⟩ := bad
    exact ⟨k, c, rfl, defined, List.any_eq_true.2 ⟨(j, d), Table.mem_defined.2 other, by simp [before, trunk, address]⟩⟩
  · rintro ⟨k, c, rfl, defined, bad⟩
    obtain ⟨⟨j, d⟩, mem, same⟩ := List.any_eq_true.1 bad
    have both := by simpa using same
    exact .signAddr k c defined ⟨j, d, both.1.1, Table.mem_defined.1 mem, both.1.2, both.2⟩

theorem signRole_lowest : Lowest (a.Fails 7) a.signRole := by
  have noExit (n : NodeIdx) : (!(a.exits.defined.any fun x => decide (x.2.node = n))) = true ↔ ∀ e x, a.exits.get e = some x → x.node ≠ n := by
    simp only [Bool.not_eq_true', List.any_eq_false, decide_eq_true_eq]
    exact ⟨fun lacking e x defined => lacking (e, x) (Table.mem_defined.2 defined), fun lacking e mem => lacking e.1 e.2 (Table.mem_defined.1 mem)⟩
  refine (definedIndex_lowest _ _).congr fun i => ⟨?_, ?_⟩
  · intro fails
    cases fails with
    | signRole k c defined door lacking =>
    exact ⟨k, c, rfl, defined, Bool.and_eq_true_iff.2 ⟨decide_eq_true door, (noExit _).2 lacking⟩⟩
  · rintro ⟨k, c, rfl, defined, bad⟩
    obtain ⟨door, lacking⟩ := Bool.and_eq_true_iff.1 bad
    exact .signRole k c defined (of_decide_eq_true door) ((noExit _).1 lacking)

theorem faceMapCheck_lowest : Lowest (a.Fails 8) a.faceMapCheck := by
  refine (definedIndex_lowest _ _).congr fun i => ⟨?_, ?_⟩
  · intro fails
    cases fails with
    | faceMap k c defined bad =>
    refine ⟨k, c, rfl, defined, ?_⟩
    rcases bad with ⟨v, d, mem, away⟩ | twice | ⟨v, g, other, incident, missing⟩
    · refine Bool.or_eq_true_iff.2 (.inl (Bool.or_eq_true_iff.2 (.inl (List.any_eq_true.2 ⟨v, List.mem_map_of_mem mem, ?_⟩))))
      cases seg : a.segments.get v with
      | none => rfl
      | some g => simp only [away g seg, Bool.not_false]
    · exact Bool.or_eq_true_iff.2 (.inl (Bool.or_eq_true_iff.2 (.inr (by simp [twice]))))
    · refine Bool.or_eq_true_iff.2 (.inr (List.any_eq_true.2 ⟨(v, g), Table.mem_defined.2 other, ?_⟩))
      simp [incident, missing]
  · rintro ⟨k, c, rfl, defined, bad⟩
    refine .faceMap k c defined ?_
    rcases Bool.or_eq_true_iff.1 bad with bad | unnamed
    · rcases Bool.or_eq_true_iff.1 bad with away | twice
      · obtain ⟨v, mem, away⟩ := List.any_eq_true.1 away
        obtain ⟨⟨_, d⟩, pair, rfl⟩ := List.mem_map.1 mem
        refine .inl ⟨_, d, pair, fun g seg => ?_⟩
        simpa only [seg, Bool.not_eq_true'] using away
      · exact .inr (.inl (by simpa using twice))
    · obtain ⟨⟨v, g⟩, mem, missing⟩ := List.any_eq_true.1 unnamed
      have both := by simpa using missing
      exact .inr (.inr ⟨v, g, Table.mem_defined.1 mem, both.1, both.2⟩)

theorem Fails.hazard {a : Layout} {k : Nat} (h : a.Fails 9 k) :
    ∃ i : Fin 7, a.params.hazard.get i.succ < a.params.hazard.get i.castSucc ∧ i.val + 1 = k := by
  cases h with
  | hazTable i lower => exact ⟨i, lower, rfl⟩

theorem hazTable_lowest : Lowest (a.Fails 9) a.hazTable := by
  rw [hazTable]
  cases found : (List.finRange 7).find? fun i => decide (a.params.hazard.get i.succ < a.params.hazard.get i.castSucc) with
  | none =>
    refine .nowhere fun j fails => ?_
    cases fails with
    | hazTable i lower => simpa [lower] using List.find?_eq_none.1 found i (List.mem_finRange i)
  | some i =>
    obtain ⟨holds, before, after, all, earlier⟩ := List.find?_eq_some_iff_append.1 found
    refine .here _ (.hazTable i (of_decide_eq_true holds)) fun k fails => ?_
    obtain ⟨j, lower, rfl⟩ := fails.hazard
    have mem : j ∈ before ++ i :: after := all ▸ List.mem_finRange j
    have sorted : (before ++ i :: after).Pairwise (· < ·) := all ▸ List.pairwise_lt_finRange 7
    rcases List.mem_append.1 mem with first | later
    · exact absurd lower (by simpa using earlier j first)
    · rcases List.mem_cons.1 later with rfl | later
      · exact le_rfl
      · have := (List.pairwise_cons.1 (List.pairwise_append.1 sorted).2.1).1 j later
        exact Nat.succ_le_succ (le_of_lt this)

theorem beamBands_lowest : Lowest (a.Fails 10) a.beamBands := by
  refine (entryIndex_lowest _ _).congr fun i => ⟨?_, ?_⟩
  · intro fails
    cases fails with
    | beamBands k enabled bad =>
    exact ⟨k, rfl, by
      simpa only [enabled, Bool.true_and, Bool.not_eq_true', Bool.and_eq_false_iff, decide_eq_false_iff_not, not_and_or, or_assoc] using bad⟩
  · rintro ⟨k, rfl, bad⟩
    have both := Bool.and_eq_true_iff.1 bad
    exact .beamBands k both.1 (by simpa only [Bool.not_eq_true', Bool.and_eq_false_iff, decide_eq_false_iff_not, not_and_or, or_assoc] using both.2)

theorem passageCheck_lowest : Lowest (a.Fails 11) a.passageCheck := by
  have users (p : PassageIdx) (e : ExitIdx) :
      e ∈ a.exits.holders (fun e => decide (e.2.kind = .passage) && decide (e.2.passage = some p)) ↔ a.namesPassage p e := by
    rw [Table.mem_holders]
    simp [namesPassage]
  have named (p : PassageIdx) (e : ExitIdx) :
      ((a.exits.defined.filter fun e => decide (e.2.kind = .passage) && decide (e.2.passage = some p)).any fun f => decide (f.1 = e)) = true
      ↔ a.namesPassage p e := by
    rw [← users, Table.holders, List.any_eq_true, List.mem_map]
    simp only [decide_eq_true_eq]
  have count (p : PassageIdx) :
      (a.exits.defined.filter fun e => decide (e.2.kind = .passage) && decide (e.2.passage = some p)).length ≠ 1 ↔
        (∀ e, ¬ a.namesPassage p e) ∨ ∃ e f, e ≠ f ∧ a.namesPassage p e ∧ a.namesPassage p f := by
    simp only [Table.holders_length, length_ne_one_iff (Table.holders_nodup _ _), users]
  have check (k : PassageIdx) (r : PassageCfg) :
      (((∀ e, ¬ a.namesPassage k e) ∨ (∃ e f, e ≠ f ∧ a.namesPassage k e ∧ a.namesPassage k f)
        ∨ ¬ a.namesPassage k r.exit ∨ r.neighbour = a.params.hallId)) ↔
      (decide ((a.exits.defined.filter fun e => decide (e.2.kind = .passage) && decide (e.2.passage = some k)).length ≠ 1)
        || !((a.exits.defined.filter fun e => decide (e.2.kind = .passage) && decide (e.2.passage = some k)).any fun f => decide (f.1 = r.exit))
        || decide (r.neighbour = a.params.hallId)) = true := by
    rw [Bool.or_eq_true_iff, Bool.or_eq_true_iff, decide_eq_true_eq, decide_eq_true_eq, count, Bool.not_eq_true', ← Bool.not_eq_true, named]
    simp only [or_assoc]
  refine (definedIndex_lowest _ _).congr fun i => ⟨?_, ?_⟩
  · intro fails
    cases fails with
    | passage k r defined bad =>
    exact ⟨k, r, rfl, defined, (check k r).1 bad⟩
  · rintro ⟨k, r, rfl, defined, bad⟩
    exact .passage k r defined ((check k r).2 bad)

theorem lineUse_lowest : Lowest (a.Fails 12) a.lineUse := by
  have users (l : LineIdx) (e : ExitIdx) : e ∈ a.exits.holders (fun e => decide (e.2.doorLine = some l)) ↔ a.namesLine l e := by
    rw [Table.mem_holders]
    simp [namesLine]
  have length (l : LineIdx) := a.exits.holders_length fun e => decide (e.2.doorLine = some l)
  have twice (l : LineIdx) : 2 ≤ (a.exits.holders fun e => decide (e.2.doorLine = some l)).length ↔
      ∃ e f, e ≠ f ∧ a.namesLine l e ∧ a.namesLine l f := by
    simp only [two_le_length_iff (Table.holders_nodup _ _), users]
  refine (entryIndex_lowest _ _).congr fun i => ⟨?_, ?_⟩
  · intro fails
    cases fails with
    | lineUse k bad =>
    refine ⟨k, rfl, ?_⟩
    dsimp only
    rw [length]
    rcases bad with ⟨e, src, names, output⟩ | two
    · have one : 0 < (a.exits.holders fun e => decide (e.2.doorLine = some k)).length := List.length_pos_of_mem ((users k e).2 names)
      simp only [output]
      simp
      omega
    · simp [(twice k).2 two]
  · rintro ⟨k, rfl, bad⟩
    dsimp only at bad
    rw [length] at bad
    refine .lineUse k ?_
    rcases Bool.or_eq_true_iff.1 bad with two | one
    · exact .inr ((twice k).1 (of_decide_eq_true two))
    · obtain ⟨one, output⟩ := Bool.and_eq_true_iff.1 one
      obtain ⟨e, mem⟩ := List.exists_mem_of_length_pos (Nat.lt_of_lt_of_eq Nat.zero_lt_one (of_decide_eq_true one).symm)
      cases mode : a.lines.get k with
      | inputPlain => rw [mode] at output; exact nomatch output
      | inputDoor => rw [mode] at output; exact nomatch output
      | output src => exact .inl ⟨e, src, (users k e).1 mem, rfl⟩

/-! ## The first check that fails -/

theorem checks_lowest : ∀ c ∈ a.checks, Lowest (a.Fails c.1) c.2 := by
  unfold checks
  simp only [List.forall_mem_cons, List.not_mem_nil, false_imp_iff, implies_true, and_true]
  exact ⟨a.segEnds_lowest, a.degree_lowest, a.exitNode_lowest, a.exitKind_lowest, a.noExit_lowest, a.signAddr_lowest,
    a.signRole_lowest, a.faceMapCheck_lowest, a.hazTable_lowest, a.beamBands_lowest, a.passageCheck_lowest, a.lineUse_lowest⟩

theorem checks_sorted : (a.checks.map Prod.fst).Pairwise (· < ·) := by
  unfold checks
  simp

theorem checks_orders : a.checks.map Prod.fst = [1, 2, 3, 4, 5, 6, 7, 8, 9, 10, 11, 12] := rfl

theorem Fails.order {a : Layout} {order index : Nat} (h : a.Fails order index) : ∃ c ∈ a.checks, c.1 = order := by
  have listed : order ∈ a.checks.map Prod.fst := by
    rw [checks_orders]
    cases h <;> decide
  simpa using listed

end Layout

/-- What the checks in order report: the first that fails, with its lowest index (R15). -/
def FirstFails (fails : Nat → Nat → Prop) (order index : Nat) : Prop :=
  fails order index ∧ ∀ o i, fails o i → order < o ∨ order = o ∧ index ≤ i

theorem FirstFails.unique {fails : Nat → Nat → Prop} {o i o' i' : Nat} (h : FirstFails fails o i) (h' : FirstFails fails o' i') :
    (o, i) = (o', i') := by
  have le := h.2 o' i' h'.1
  have ge := h'.2 o i h.1
  rw [Prod.mk.injEq]
  omega

/-- What a list of checks reports: the first check of the list that fails, with its lowest index, or nothing. -/
inductive FirstReport (fails : Nat → Nat → Prop) (l : List (Nat × Option Nat)) : Option (Nat × Nat) → Prop where
  | nowhere : (∀ c ∈ l, ∀ i, ¬ fails c.1 i) → FirstReport fails l none
  | here (order index : Nat) : fails order index → (∀ c ∈ l, ∀ i, fails c.1 i → order < c.1 ∨ order = c.1 ∧ index ≤ i) →
      FirstReport fails l (some (order, index))

theorem findSome_firstReport {fails : Nat → Nat → Prop} {l : List (Nat × Option Nat)} (sorted : (l.map Prod.fst).Pairwise (· < ·))
    (lowest : ∀ c ∈ l, Lowest (fails c.1) c.2) : FirstReport fails l (l.findSome? fun c => c.2.map fun i => (c.1, i)) := by
  induction l with
  | nil => exact .nowhere fun c hc => nomatch hc
  | cons c l ih =>
    obtain ⟨before, sorted⟩ := List.pairwise_cons.1 sorted
    have first : Lowest (fails c.1) c.2 := lowest c (.head _)
    have rest := ih sorted fun d hd => lowest d (.tail _ hd)
    obtain ⟨order, report⟩ := c
    cases first with
    | here index bad least =>
      refine .here order index bad fun d hd i bad => ?_
      rcases List.mem_cons.1 hd with rfl | hd
      · exact .inr ⟨rfl, least i bad⟩
      · exact .inl (before d.1 (List.mem_map_of_mem hd))
    | nowhere passed =>
      rw [List.findSome?_cons_of_isNone rfl]
      generalize (l.findSome? fun c => c.2.map fun i => (c.1, i)) = found at rest
      cases rest with
      | nowhere rest =>
        refine .nowhere fun d hd i => ?_
        rcases List.mem_cons.1 hd with rfl | hd
        · exact passed i
        · exact rest d hd i
      | here first index bad rest =>
        refine .here first index bad fun d hd i bad => ?_
        rcases List.mem_cons.1 hd with rfl | hd
        · exact absurd bad (passed i)
        · exact rest d hd i bad

theorem Layout.firstFailure_reports (a : Layout) : FirstReport a.Fails a.checks a.firstFailure :=
  findSome_firstReport a.checks_sorted a.checks_lowest

theorem Layout.firstFailure_none_iff (a : Layout) : a.firstFailure = none ↔ ∀ order index, ¬ a.Fails order index := by
  have report := a.firstFailure_reports
  generalize a.firstFailure = found at report
  cases report with
  | nowhere passed =>
    refine ⟨fun _ order index bad => ?_, fun _ => rfl⟩
    obtain ⟨c, mem, rfl⟩ := bad.order
    exact passed c mem index bad
  | here order index bad _ => exact ⟨fun h => (nomatch h), fun passed => absurd bad (passed order index)⟩

theorem Layout.firstFailure_some {a : Layout} {order index : Nat} (found : a.firstFailure = some (order, index)) :
    FirstFails a.Fails order index := by
  have report := a.firstFailure_reports
  rw [found] at report
  cases report with
  | here _ _ bad least =>
    refine ⟨bad, fun o i bad => ?_⟩
    obtain ⟨c, mem, rfl⟩ := bad.order
    exact least c mem i bad

theorem Layout.firstFailure_some_iff (a : Layout) (order index : Nat) :
    a.firstFailure = some (order, index) ↔ FirstFails a.Fails order index := by
  refine ⟨Layout.firstFailure_some, fun first => ?_⟩
  cases found : a.firstFailure with
  | none => exact absurd first.1 (a.firstFailure_none_iff.1 found _ _)
  | some r => exact congrArg some ((Layout.firstFailure_some found).unique first)

/-- Settles O15: the refusals are the branches of the command in their order, and each check is the lowest index of its rule. -/
theorem commitIsRefused : Obligations.CommitIsRefused := by
  refine ⟨fun s h evacuate => ?_, fun s h standby busy => ?_, fun s order index h standby idle bad => ?_, fun a =>
    ⟨a.firstFailure_none_iff, a.firstFailure_some_iff⟩⟩
  · refine (exec_of_asks (c := .commitLayout) rfl h rfl rfl).trans ?_
    rw [if_pos evacuate, State.respond_eq_answered]
  · refine (exec_of_asks (c := .commitLayout) rfl h rfl rfl).trans ?_
    rw [if_neg (by rw [standby]; decide), if_pos busy, State.respond_eq_answered]
  · refine (exec_of_asks (c := .commitLayout) rfl h rfl rfl).trans ?_
    rw [if_neg (by rw [standby]; decide), if_neg (by rw [idle]; decide), bad, ← State.respond_eq_answered]

end Machine
end Sys2Proof
end

/-!
What stands once a new ACTIVE is in force, record by record (R19 to R21, R39, R64, R67, R72, R140): the records the blocks adopted, the
lines driven from their sources, and the frames that free trunks start.
-/
section
namespace Sys2Proof
namespace Machine

/-! ## What free trunks leave alone -/

theorem mem_of_lowestAddress {l : List (SignIdx × SignCfg)} {e : SignIdx × SignCfg} (h : lowestAddress l = some e) : e ∈ l := by
  induction l generalizing e with
  | nil => cases h
  | cons b l ih =>
    rw [lowestAddress] at h
    split at h
    · cases h
      exact .head _
    next f found =>
      split at h
      · cases h
        exact .tail _ (ih found)
      · cases h
        exact .head _

theorem State.defined_of_onTrunk {s : State} {t : TrunkIdx} {e : SignIdx × SignCfg} (h : e ∈ s.active.onTrunk t) :
    s.active.signs.get e.1 = some e.2 := ((Layout.mem_onTrunk s t e.1 e.2).1 h).1

theorem State.queuedOn_defined {s : State} {t : TrunkIdx} {e : SignIdx × SignCfg} (h : s.queuedOn t = some e) :
    s.active.signs.get e.1 = some e.2 := by
  obtain ⟨j, -, found⟩ := List.exists_of_findSome?_eq_some h
  cases defined : s.active.signs.get j with
  | none => simp [defined] at found
  | some c =>
    simp only [defined, Option.ite_none_right_eq_some, Option.some.injEq] at found
    rw [← found.2]
    exact defined

theorem State.defaultOn_defined {s : State} {t : TrunkIdx} {e : SignIdx × SignCfg} (h : s.defaultOn t = some e) :
    s.active.signs.get e.1 = some e.2 := State.defined_of_onTrunk (List.mem_filter.1 (mem_of_lowestAddress h)).1

theorem State.roundRobinOn_defined {s : State} {t : TrunkIdx} {e : SignIdx × SignCfg} (h : s.roundRobinOn t = some e) :
    s.active.signs.get e.1 = some e.2 := by
  unfold State.roundRobinOn at h
  dsimp only at h
  split at h
  next f found =>
    cases h
    exact State.defined_of_onTrunk (List.mem_filter.1 (mem_of_lowestAddress found)).1
  · exact State.defined_of_onTrunk (mem_of_lowestAddress h)

/-- What the frames that trunks start leave alone: every exchange on its way, a trunk's service, and of a head all but its sequence bit and
last sent aspect, all of it where the sign is not defined. -/
structure State.Kicks (s u : State) : Prop where
  active : u.active = s.active
  trunks : ∀ k, (u.signLine.trunks.get k).state = (s.signLine.trunks.get k).state
    ∧ (u.signLine.trunks.get k).driverOn = (s.signLine.trunks.get k).driverOn
    ∧ (u.signLine.trunks.get k).holdOff = (s.signLine.trunks.get k).holdOff
  flight : ∀ k x, (s.signLine.trunks.get k).exchange = some x → (u.signLine.trunks.get k).exchange = some x
  heads : ∀ i, ∃ seq last, u.signLine.heads.get i = { s.signLine.heads.get i with seq := seq, lastSent := last }
  undefined : ∀ i, s.active.signs.get i = none → u.signLine.heads.get i = s.signLine.heads.get i

theorem State.Kicks.trans {s u v : State} (h : s.Kicks u) (k : u.Kicks v) : s.Kicks v where
  active := k.active.trans h.active
  trunks i := ⟨(k.trunks i).1.trans (h.trunks i).1, (k.trunks i).2.1.trans (h.trunks i).2.1, (k.trunks i).2.2.trans (h.trunks i).2.2⟩
  flight i x e := k.flight i x (h.flight i x e)
  heads i := by
    obtain ⟨_, _, first⟩ := h.heads i
    obtain ⟨_, _, second⟩ := k.heads i
    exact ⟨_, _, by rw [second, first]⟩
  undefined i e := (k.undefined i (by rw [h.active]; exact e)).trans (h.undefined i e)

/-- A frame begun touches its own trunk's record, and of it the exchange and the position alone. -/
theorem State.Kicks.carrying {s u : State} {t : TrunkIdx} {position : Nat} {i : SignIdx} {c : SignCfg} {f : TrunkFrame}
    (free : (s.signLine.trunks.get t).exchange = none) (active : u.active = s.active)
    (trunks : u.signLine.trunks = s.signLine.trunks.set t ({ s.signLine.trunks.get t with roundRobin := position }.carrying i c f))
    (heads : ∀ i, ∃ seq last, u.signLine.heads.get i = { s.signLine.heads.get i with seq := seq, lastSent := last })
    (undefined : ∀ i, s.active.signs.get i = none → u.signLine.heads.get i = s.signLine.heads.get i) : s.Kicks u where
  active := active
  trunks k := by
    rw [trunks, Table.get_set]
    split
    next same => exact same ▸ ⟨rfl, rfl, rfl⟩
    next => exact ⟨rfl, rfl, rfl⟩
  flight k x e := by
    rw [trunks, Table.get_set]
    split
    next same =>
      subst same
      exact nomatch free.symm.trans e
    next => exact e
  heads := heads
  undefined := undefined

theorem State.kick_kicks (s : State) (t : TrunkIdx) : s.Kicks (s.kick t) := by
  have still : s.Kicks s := ⟨rfl, fun _ => ⟨rfl, rfl, rfl⟩, fun _ _ e => e, fun _ => ⟨_, _, rfl⟩, fun _ _ => rfl⟩
  have active : (s.kick t).active = s.active := by
    obtain ⟨_, _, frame⟩ := s.kick_frame t
    rw [frame]
    rfl
  have heads := (s.kick_heads t).2
  rcases s.free_or_busy t with ⟨state, free⟩ | busy
  · have aspect (i : SignIdx) (c : SignCfg) (position : Nat) (starts : s.kick t = s.sendsAspect t i c position)
        (defined : s.active.signs.get i = some c) : s.Kicks (s.kick t) := by
      refine .carrying free active (by rw [starts]; rfl) heads fun j undefined => ?_
      rw [starts]
      refine Table.get_set_ne _ _ fun same => ?_
      rw [same, defined] at undefined
      cases undefined
    have default (i : SignIdx) (c : SignCfg) (starts : s.kick t = s.sendsDefault t i c) : s.Kicks (s.kick t) :=
      .carrying (position := (s.signLine.trunks.get t).roundRobin) free active (by rw [starts]; rfl) heads
        fun _ _ => by rw [starts]; rfl
    have step := State.kick_free state free
    cases queued : s.queuedOn t with
    | some e =>
      rw [queued] at step
      exact aspect _ _ _ step (State.queuedOn_defined queued)
    | none =>
      cases owed : s.defaultOn t with
      | some e =>
        rw [queued, owed] at step
        exact default _ _ step
      | none =>
        cases polled : s.roundRobinOn t with
        | some e =>
          rw [queued, owed, polled] at step
          exact aspect _ _ _ step (State.roundRobinOn_defined polled)
        | none =>
          rw [queued, owed, polled] at step
          rw [step]
          exact still
  · rw [State.kick_busy busy]
    exact still

theorem State.kickAll_kicks (s : State) : s.Kicks s.kickAll := (s.kick_kicks 0).trans ((s.kick 0).kick_kicks 1)

/-! ## The sign line under a new ACTIVE -/

/-- The sign line once the blocks have adopted a new ACTIVE and before a trunk starts a frame (R20). -/
structure LineAdopted (s t : State) (l : SignLine) : Prop where
  heads : ∀ i, l.heads.get i = headUnder (s.active.signs.get i) (t.active.signs.get i)
    s.active.params.headThreshold t.active.params.headThreshold (s.signLine.heads.get i)
  trunks : l.trunks = Table.ofFn fun k =>
    { s.signLine.trunks.get k with exchange := (s.signLine.trunks.get k).exchange.map (t.active.markExchange k) }
  kicked : t.signLine = ({ t with signLine := l }.kickAll).signLine

theorem thresholdState_eq (old new : Nat) (h : HeadRec) : thresholdState old new h =
    if h.state = .online ∧ old ≠ new ∧ new ≤ h.errors then .degraded else h.state := by
  unfold thresholdState
  cases state : h.state <;> simp

theorem headUnder_kept {c d : SignCfg} (trunk : c.trunk = d.trunk) (address : c.address = d.address) (old new : Nat) (h : HeadRec) :
    headUnder (some c) (some d) old new h = { h with
      state := thresholdState old new h
      defaultPending := h.defaultPending || decide (c.defaultAspect ≠ d.defaultAspect) } := by
  unfold headUnder
  exact if_pos (by simp [trunk, address])

theorem headUnder_fresh {o : Option SignCfg} {d : SignCfg} (other : ∀ c, o = some c → ¬ (c.trunk = d.trunk ∧ c.address = d.address))
    (old new : Nat) (h : HeadRec) : headUnder o (some d) old new h = { HeadRec.cold with defaultPending := true } := by
  unfold headUnder
  cases o with
  | none => rfl
  | some c => exact if_neg (by simpa using other c rfl)

theorem Layout.markExchange_eq (a : Layout) (k : TrunkIdx) (x : Exchange) :
    (a.markExchange k x = x ∧ ∃ c, a.signs.get x.sign = some c ∧ c.trunk = k ∧ c.address = x.address)
    ∨ (a.markExchange k x = { x with discard := true } ∧ ¬ ∃ c, a.signs.get x.sign = some c ∧ c.trunk = k ∧ c.address = x.address) := by
  unfold Layout.markExchange
  cases defined : a.signs.get x.sign with
  | none => exact .inr ⟨rfl, fun ⟨_, e, _⟩ => nomatch e⟩
  | some c =>
    dsimp only
    by_cases there : c.trunk = k ∧ c.address = x.address
    · exact .inl ⟨if_pos (by simpa using there), c, rfl, there⟩
    · refine .inr ⟨if_neg (by simpa using there), ?_⟩
      rintro ⟨_, e, there'⟩
      cases e
      exact there there'

namespace LineAdopted
variable {s t : State} {l : SignLine} (h : LineAdopted s t l)
include h

theorem kicks : { t with signLine := l }.Kicks t := by
  have kicks := ({ t with signLine := l } : State).kickAll_kicks
  have line := h.kicked
  generalize ({ t with signLine := l } : State).kickAll = v at kicks line
  exact ⟨rfl, by rw [line]; exact kicks.trunks, by rw [line]; exact kicks.flight, by rw [line]; exact kicks.heads,
    by rw [line]; exact kicks.undefined⟩

theorem queue : t.signLine.queue = l.queue := by
  rw [h.kicked, State.kickAll_queue]

theorem service (k : TrunkIdx) : (t.signLine.trunks.get k).state = (s.signLine.trunks.get k).state
    ∧ (t.signLine.trunks.get k).driverOn = (s.signLine.trunks.get k).driverOn
    ∧ (t.signLine.trunks.get k).holdOff = (s.signLine.trunks.get k).holdOff := by
  have kept := h.kicks.trunks k
  dsimp only at kept
  rw [h.trunks, Table.get_ofFn] at kept
  exact kept

theorem head (i : SignIdx) : ∃ seq last, t.signLine.heads.get i =
    { headUnder (s.active.signs.get i) (t.active.signs.get i) s.active.params.headThreshold t.active.params.headThreshold
        (s.signLine.heads.get i) with seq := seq, lastSent := last } := by
  obtain ⟨seq, last, head⟩ := h.kicks.heads i
  exact ⟨seq, last, by rw [head, ← h.heads i]⟩

theorem undefined {i : SignIdx} (undefined : t.active.signs.get i = none) : t.signLine.heads.get i =
    headUnder (s.active.signs.get i) none s.active.params.headThreshold t.active.params.headThreshold (s.signLine.heads.get i) := by
  rw [h.kicks.undefined i undefined, ← undefined]
  exact h.heads i

theorem form : l = {
    trunks := Table.ofFn fun k =>
      { s.signLine.trunks.get k with exchange := (s.signLine.trunks.get k).exchange.map (t.active.markExchange k) }
    queue := t.signLine.queue
    heads := Table.ofFn fun i => headUnder (s.active.signs.get i) (t.active.signs.get i)
      s.active.params.headThreshold t.active.params.headThreshold (s.signLine.heads.get i) } := by
  have heads : l.heads = Table.ofFn fun i => headUnder (s.active.signs.get i) (t.active.signs.get i)
      s.active.params.headThreshold t.active.params.headThreshold (s.signLine.heads.get i) :=
    Table.ext_get fun i => by rw [h.heads, Table.get_ofFn]
  rw [h.queue, ← heads, ← h.trunks]

/-- The sign line under a new ACTIVE, record by record (R20, R135, R140). -/
theorem headsAdopt : HeadsAdopt s t where
  kept i c d keeps h' g hh hg := by
    obtain ⟨old, new, trunk, address⟩ := keeps
    obtain ⟨seq, last, head⟩ := h.head i
    rw [old, new, headUnder_kept trunk address, ← hh, ← hg] at head
    rw [head]
    exact ⟨rfl, rfl, rfl, rfl, thresholdState_eq ..⟩
  fresh i d new other g hg := by
    obtain ⟨seq, last, head⟩ := h.head i
    rw [new, headUnder_fresh fun c old there => other c ⟨old, new, there⟩, ← hg] at head
    rw [head]
    exact ⟨rfl, rfl, rfl, rfl, rfl⟩
  removed i old new := by
    obtain ⟨c, old⟩ := Table.has_iff.1 old
    rw [h.undefined (by simpa [Table.has] using new), old]
    rfl
  absent i old new := by
    rw [h.undefined (by simpa [Table.has] using new), show s.active.signs.get i = none by simpa [Table.has] using old]
    rfl
  flight k x flight := by
    have kept := h.kicks.flight k (t.active.markExchange k x) (by
      dsimp only
      rw [h.trunks, Table.get_ofFn, flight]
      rfl)
    rw [kept]
    rcases t.active.markExchange_eq k x with ⟨same, there⟩ | ⟨marked, gone⟩
    · exact .inl ⟨by rw [same], there⟩
    · exact .inr ⟨by rw [marked], gone⟩
  started := by
    rw [← h.form]
    exact h.kicked

end LineAdopted

/-! ## All blocks under a new ACTIVE -/

/-- The records that stand in `t` once a new ACTIVE has followed the one of `s` (R19 to R21, R55, R64, R67, R72, R156), each formed under
ACTIVE of `t`. -/
structure InForce (s t : State) : Prop where
  clock : t.port.clock = s.port.clock
  beams : ∀ c, t.beams.get c = beamUnder s.port.clock (s.active.beams.get c).enabled (t.active.beams.get c).enabled (s.beams.get c)
  zones : ∀ z, t.zones.get z = t.zoneUnder z (s.zones.get z)
  passages : ∀ p, t.boundary.passages.get p =
    if s.active.params.hallId = t.active.params.hallId ∧ s.active.passages.get p = t.active.passages.get p then
      s.boundary.passages.get p
    else PassageRec.cold
  exits : ∀ e, t.exits.exits.get e = t.exitUnder s.active e (s.exits.exits.get e)
  inputs : ∀ l, (∀ src, t.active.lines.get l ≠ .output src) →
    t.exits.lines.get l = adoptLine (t.active.lines.get l) (s.exits.pins.get l) (s.exits.lines.get l)
  outputs : ∀ l src, t.active.lines.get l = .output src → t.exits.lines.get l = .output (t.sourceTrue src)
  grace : t.exits.grace = match s.exits.grace with
    | .running start => if 100 * t.active.params.doorGrace ≤ (s.port.clock - start).toNat then .elapsed else .running start
    | .idle => .idle
    | .elapsed => .elapsed

/-- An adoption from `before`, with its lines driven, puts a new ACTIVE in force. -/
theorem Adopts.inForce {s before u t : State} (a : Adopts s.active before u) (k : u.Settles t) (beams : before.beams = s.beams)
    (zones : before.zones = s.zones) (exits : before.exits = s.exits) (boundary : before.boundary = s.boundary)
    (port : before.port = s.port) (clockU : u.port.clock = s.port.clock) (clock : t.port.clock = s.port.clock) : InForce s t := by
  have active : t.active = before.active := k.active.trans a.active
  have input (l) (other : ∀ src, before.active.lines.get l ≠ .output src) : t.exits.lines.get l = u.exits.lines.get l :=
    k.lines.unnamed l (by rwa [a.active])
  constructor
  case clock => exact clock
  case beams =>
    intro c
    rw [k.beams, a.beams, port, beams, active]
  case zones =>
    intro z
    rw [k.zones, a.zones, zones]
    exact (State.zoneUnder_congr k.active k.beams (clock.trans clockU.symm) z _).symm
  case passages =>
    intro p
    rw [k.boundary, a.passages, boundary, active]
  case exits =>
    intro e
    have same : u.SameExitInputs t := ⟨k.active, k.zones, by rw [k.boundary], k.grace, fun l door => input l (by
      rw [← a.active, door]
      exact nofun)⟩
    rw [k.records, a.exits, exits, same.exitUnder]
  case inputs =>
    intro l other
    rw [active] at other ⊢
    rw [input l other, a.inputs l other, exits]
  case outputs =>
    intro l src output
    obtain ⟨d, held⟩ := a.outputs l src (by rw [← active]; exact output)
    exact k.lines.shown l src d (by rw [a.active, ← active]; exact output) held trivial
  case grace =>
    have adopted := before.adoptGrace_grace
    rw [exits, port, ← active] at adopted
    exact (k.grace.trans a.grace).trans adopted

namespace InForce
variable {s t : State} (h : InForce s t)
include h

theorem zonesAdopt : ZonesAdopt s t := by
  have taken (z) : t.zones.get z = (s.zones.get z).takes
      { s.zones.get z with panelLevel := t.active.params.panelUnder (s.zones.get z), beamLevel := t.beamLevel z } s.port.clock := by
    rw [h.zones, State.zoneUnder, h.clock]
  constructor
  case kept =>
    intro z
    rw [taken]
    exact ⟨rfl, rfl⟩
  case panel =>
    intro z
    rw [taken]
    show t.active.params.panelUnder (s.zones.get z) = _
    unfold HallParams.panelUnder
    cases (s.zones.get z).panelState <;> simp
  case beam =>
    intro z
    rw [taken]
    rfl
  case effective =>
    intro z
    rw [taken]
    rfl
  case time =>
    intro z
    rw [taken]
    rfl

theorem exitsAdopt : ExitsAdopt s t where
  defined e defined := by
    rw [h.exits, State.exitUnder, if_pos defined]
    exact ⟨rfl, rfl, rfl⟩
  removed e old new := by rw [h.exits, State.exitUnder, if_neg (by simp [new]), if_pos old]
  absent e old new := by rw [h.exits, State.exitUnder, if_neg (by simp [new]), if_neg (by simp [old])]
  outputs := h.outputs
  inputs l other := (h.inputs l other).trans (adoptLine_of_input other ..)
  elapsed start running := by rw [h.grace, running]
  grace other := by
    rw [h.grace]
    cases held : s.exits.grace with
    | running start => exact absurd held (other start)
    | idle => rfl
    | elapsed => rfl

/-- CONSOLE is kept by the exits defined before and now, and is held by no other but one that neither layout defines (R21). -/
theorem console (e : ExitIdx) : (t.exits.exits.get e).reasons.console =
      (s.active.exits.has e && t.active.exits.has e && (s.exits.exits.get e).reasons.console)
    ∨ s.active.exits.has e = false ∧ t.active.exits.has e = false := by
  cases new : t.active.exits.has e with
  | true =>
    left
    rw [(h.exitsAdopt.defined e new).1, Bool.and_true]
  | false =>
    cases old : s.active.exits.has e with
    | true =>
      left
      rw [h.exitsAdopt.removed e old new]
      rfl
    | false => exact .inr ⟨rfl, rfl⟩

end InForce

/-! ## A new ACTIVE calls for a run -/

/-- No part of an adoption clears change pending (R78). -/
theorem adopt_pending (old : Layout) {s : State} (pending : s.engine.changePending = true) :
    (adopt old s).1.engine.changePending = true := by
  have formed (z : ZoneIdx) (r : ZoneRec) (u : State) (set : u.engine.changePending = true) :
      (formZone z r u).1.engine.changePending = true := by
    unfold formZone
    dsimp only
    split
    · exact set
    · rfl
  have zones (u : State) (set : u.engine.changePending = true) : (adoptZones u).1.engine.changePending = true := by
    unfold adoptZones
    refine Emit.each_keeps (P := fun v => v.engine.changePending = true) (fun z _ v set => ?_) set
    unfold zoneAdopt
    exact formed z _ v set
  have exits (u : State) (set : u.engine.changePending = true) : (adoptExits old u).1.engine.changePending = true := by
    unfold adoptExits
    refine Emit.each_keeps (P := fun v => v.engine.changePending = true) (fun e _ v set => ?_) set
    unfold exitAdopt
    dsimp only
    split
    · split
      · exact set
      · rfl
    · split
      · rfl
      · exact set
  obtain ⟨b, z, p, k, x, h, hb, hz, hp, hk, hx, hh, eq⟩ := adopt_parts old s
  have beams : b.1.engine = s.engine := by
    obtain ⟨_, frame⟩ := adoptBeams_frame old s
    rw [← hb, frame]
  have zonesSet : z.1.engine.changePending = true := by
    rw [← hz]
    exact zones _ (by rw [beams]; exact pending)
  have passages : p.1.engine = z.1.engine := by
    obtain ⟨_, frame⟩ := adoptPassages_frame old z.1
    rw [← hp, frame]
    rfl
  have link : k.1.engine = p.1.engine := by
    obtain ⟨_, _, _, _, frame⟩ := deriveLink_frame p.1
    rw [← hk, frame]
  have grace : k.1.adoptLines.adoptGrace.engine = k.1.engine := by
    obtain ⟨_, frame⟩ := k.1.adoptLines.adoptGrace_frame
    rw [frame]
    rfl
  have exitsSet : x.1.engine.changePending = true := by
    rw [← hx]
    exact exits _ (by rw [grace, link, passages]; exact zonesSet)
  have heads : h.1.engine = x.1.engine := by
    obtain ⟨_, frame⟩ := adoptHeads_frame old x.1
    rw [← hh, frame]
  rw [eq]
  show h.1.engine.changePending = true
  rw [heads]
  exact exitsSet

end Machine
end Sys2Proof
end

/-!
COMMIT_LAYOUT accepted, and REINIT (R19 to R21, R199): what stands once the blocks have adopted the new ACTIVE.
-/
section
namespace Sys2Proof
namespace Machine

/-! ## An accepted commit -/

/-- The blocks an accepted commit changes, and those it leaves (R19). -/
theorem State.commit_form (s : State) : ∃ la e b z a ns f m sg x ln g ps sl n, s.commit = { s with
    layout := la, engine := e, beams := b, zones := z, alarm := a
    port := { s.port with notices := ns, flags := f, snapshot := m }
    aspect := { s.aspect with signs := sg }
    exits := { s.exits with exits := x, lines := ln, grace := g }
    boundary := { s.boundary with passages := ps, waiting := none, owed := false }
    signLine := sl
    freeCount := n } := by
  have finish (r : State × List (List Notice)) : ∃ ln sl p n, s.finishCommit r =
      { r.1 with exits := { r.1.exits with lines := ln }, signLine := sl, port := p, freeCount := n } := by
    obtain ⟨_, _, h⟩ := ({ r.1 with freeCount := r.1.freeCount + r.2.flatten.length }.drive fun _ => true).kickAll_frame
    unfold State.finishCommit
    rw [h]
    exact ⟨_, _, _, _, rfl⟩
  obtain ⟨_, _, _, _, _, _, _, _, _, _, adopted⟩ := adopt_frame s.active s.beforeCommit
  obtain ⟨ln, sl, p, n, form⟩ := finish (adopt s.active s.beforeCommit)
  rw [← State.commit_eq, adopted] at form
  have port : p = { s.port with notices := p.notices, flags := p.flags, snapshot := p.snapshot } := by
    have posted := s.commit_port.other
    rwa [form] at posted
  rw [port] at form
  exact ⟨_, _, _, _, _, _, _, _, _, _, _, _, _, _, _, form⟩

/-- A commit abandons the run and sets change pending (R19, R78). -/
theorem State.commit_engine_eq (s : State) :
    s.commit.engine = { s.engine with run := none, changePending := true, refreshDue := false } := by
  have pending := adopt_pending s.active (s := s.beforeCommit) rfl
  have settles := (s.commit_settles rfl).engine
  obtain ⟨_, _, _, p, _, _, _, _, _, _, adopted⟩ := adopt_frame s.active s.beforeCommit
  rw [adopted] at pending settles
  rw [settles]
  obtain rfl : p = true := pending
  rfl

theorem State.commit_first (s : State) (room : s.port.notices.length < 64) :
    s.commit.port.notices[s.port.notices.length]? = some (s.notice .layoutCommitted none []) := by
  have finish (r : State × List (List Notice)) (notices : r.1.port.notices = s.port.notices) :
      (s.finishCommit r).port.notices[s.port.notices.length]? = some (s.notice .layoutCommitted none []) := by
    rw [← notices] at room ⊢
    unfold State.finishCommit
    rw [State.postAll_port, State.kickAll_port]
    exact Port.postAll_first room _ _
  rw [State.commit_eq]
  refine finish _ ?_
  obtain ⟨_, _, _, _, _, _, _, _, _, _, adopted⟩ := adopt_frame s.active s.beforeCommit
  rw [adopted]
  rfl

/-- The free trunks of an accepted commit start from the records adopted (R19, R127). -/
theorem State.commit_kicked (s : State) {u : State} (hu : (adopt s.active s.beforeCommit).1 = u) :
    s.commit.signLine = ({ s.commit with signLine := u.signLine }.kickAll).signLine := by
  have finish (r : State × List (List Notice)) :
      (s.finishCommit r).signLine = ({ s.finishCommit r with signLine := r.1.signLine }.kickAll).signLine := by
    unfold State.finishCommit
    rw [State.postAll_signLine]
    obtain ⟨_, _, kicked⟩ := ({ r.1 with freeCount := r.1.freeCount + r.2.flatten.length }.drive fun _ => true).kickAll_frame
    refine (State.kickAll_congr ?_ ?_ ?_).symm
    · rw [kicked]
      rfl
    · rw [kicked]
      rfl
    · rfl
  rw [State.commit_eq, ← hu]
  exact finish _

/-! ## The sign line -/

theorem Adopts.lineAdopted {s before u t : State} {l : SignLine} (a : Adopts s.active before u) (signLine : before.signLine = s.signLine)
    (active : t.active = before.active) (heads : l.heads = u.signLine.heads) (trunks : l.trunks = u.signLine.trunks)
    (kicked : t.signLine = ({ t with signLine := l }.kickAll).signLine) : LineAdopted s t l where
  heads i := by rw [heads, a.heads, signLine, active]
  trunks := by rw [trunks, a.trunks, signLine, active]
  kicked := kicked

theorem LineAdopted.respond {s t : State} {l : SignLine} (h : LineAdopted s t l) (st : Status) (b : List Byte) :
    LineAdopted s (t.respond st b) l where
  heads := h.heads
  trunks := h.trunks
  kicked := h.kicked.trans (State.kickAll_congr (s := { t with signLine := l }) (u := { t.respond st b with signLine := l }) rfl rfl rfl).symm

/-- Settles O16: the blocks adopt STAGING, the lines are driven, and the free trunks start. -/
theorem commitTakesEffect : Obligations.CommitTakesEffect := by
  intro s h standby idle passed
  have run : exec .commitLayout s = .next (s.commit.respond .ok []) := by
    refine (exec_of_asks (c := .commitLayout) rfl h rfl rfl).trans ?_
    rw [if_neg (by rw [standby]; decide), if_neg (by rw [idle]; decide), passed]
  generalize hu : (adopt s.active s.beforeCommit).1 = u
  have adopts : Adopts s.active s.beforeCommit u := hu ▸ adopt_adopts s.active s.beforeCommit
  have settles := s.commit_settles hu
  have clockU : u.port.clock = s.port.clock := by
    obtain ⟨_, _, _, _, _, _, _, _, _, _, frame⟩ := adopt_frame s.active s.beforeCommit
    rw [← hu, frame]
    rfl
  have kicked := s.commit_kicked hu
  have port := s.commit_port.clock
  have engine := s.commit_engine_eq
  have aspect := s.commit_aspect
  have alarm := s.commit_alarm
  have banks := s.commit_staging
  have first := s.commit_first
  obtain ⟨la, e, b, z, a, ns, f, m, sg, x, ln, g, ps, sl, n, form⟩ := s.commit_form
  generalize s.commit = t at *
  have active : t.active = s.beforeCommit.active := settles.active.trans adopts.active
  have adopted : LineAdopted s t u.signLine := adopts.lineAdopted rfl active rfl rfl kicked
  have line := adopted.respond .ok []
  have queue : t.signLine.queue = s.signLine.queue.filter t.active.signs.has := by
    rw [adopted.queue, adopts.queue, active]
    rfl
  have inForce := adopts.inForce (settles.respond .ok []) rfl rfl rfl rfl rfl clockU port
  refine ⟨_, run, banks, engine, fun i => ?_, inForce.beams, inForce.zonesAdopt, inForce.exitsAdopt, inForce.console, inForce.passages,
    fun i => ?_, queue, line.headsAdopt, ?_, line.service, first, ?_⟩
  · show t.aspect.signs.get i = if s.active.signs.has i && t.active.signs.has i then _ else _
    rw [aspect, active]
    exact Table.get_ofFn ..
  · obtain ⟨_, _, head⟩ := line.head i
    rw [head]
    exact ⟨rfl, rfl⟩
  · show t.alarm = { s.alarm with link := linkOf t.active.params.healthRule s.alarm.lineA.state s.alarm.lineB.state }
    rw [alarm.2, alarm.1]
  · rw [form]
    rfl

/-! ## REINIT -/

/-- The blocks REINIT changes, and those it leaves (R199). -/
theorem State.restart_form (s : State) : ∃ la e st b z a ns f m as x ln g ps sl, s.restart = { s with
    layout := la, engine := e, store := st, beams := b, zones := z
    alarm := { s.alarm with link := a }
    port := { s.port with notices := ns, flags := f, snapshot := m }
    aspect := as
    exits := { s.exits with exits := x, lines := ln, grace := g }
    boundary := { s.boundary with passages := ps, waiting := none, owed := false }
    signLine := sl } := by
  have finish (r : State × List (List Notice)) : ∃ as ln sl p, s.finishRestart r =
      { r.1 with aspect := as, exits := { r.1.exits with lines := ln }, signLine := sl, port := p } := by
    obtain ⟨_, _, h⟩ := (r.1.darken.drive fun _ => true).kickAll_frame
    obtain ⟨_, dark⟩ := r.1.darken_frame
    unfold State.finishRestart
    rw [h, dark]
    exact ⟨_, _, _, _, rfl⟩
  obtain ⟨_, _, _, _, _, _, _, _, _, _, adopted⟩ := adopt_frame s.active s.loadBanks.restartEngine
  obtain ⟨as, ln, sl, p, form⟩ := finish (adopt s.active s.loadBanks.restartEngine)
  rw [← State.restart_eq, adopted] at form
  have port : p = { s.port with notices := p.notices, flags := p.flags, snapshot := p.snapshot } := by
    have posted := s.restart_port.other
    rwa [form] at posted
  rw [port] at form
  exact ⟨_, _, _, _, _, _, _, _, _, _, _, _, _, _, _, form⟩

theorem State.restart_engine_eq (s : State) :
    s.restart.engine = { s.engine with run := none, changePending := true, refreshDue := false } := by
  have pending := adopt_pending s.active (s := s.loadBanks.restartEngine) rfl
  have settles := (s.restart_settles rfl).engine
  obtain ⟨_, _, _, p, _, _, _, _, _, _, adopted⟩ := adopt_frame s.active s.loadBanks.restartEngine
  rw [adopted] at pending settles
  rw [settles]
  obtain rfl : p = true := pending
  rfl

/-- REINIT stands at the end of a queue with room, and NO_LAYOUT behind it (R199). -/
theorem State.restart_first (s : State) :
    (s.port.notices.length < 64 → s.restart.port.notices[s.port.notices.length]? = some (s.notice .reinit none []))
    ∧ (s.port.notices.length < 63 → s.store.image.load = none →
      s.restart.port.notices[s.port.notices.length + 1]? = some (s.notice .noLayout none [])) := by
  have finish (r : State × List (List Notice)) (notices : r.1.port.notices = s.port.notices) : ∃ (p : Port) (ns : List Notice),
      p.notices = s.port.notices ∧ (s.finishRestart r).port = p.postAll (s.notice .reinit none [] :: s.noLayoutNotice ++ ns) := by
    unfold State.finishRestart
    rw [State.postAll_port, State.kickAll_port, State.drive_port, State.darken_port]
    exact ⟨_, _, notices, rfl⟩
  obtain ⟨_, _, _, _, _, _, _, _, _, _, adopted⟩ := adopt_frame s.active s.loadBanks.restartEngine
  obtain ⟨p, ns, notices, port⟩ := finish (adopt s.active s.loadBanks.restartEngine) (by rw [adopted]; rfl)
  rw [State.restart_eq, port, ← notices]
  refine ⟨fun room => Port.postAll_first room _ _, fun room unloaded => ?_⟩
  have posted : (p.post (s.notice .reinit none [])).notices = p.notices ++ [s.notice .reinit none []] := by
    rw [Port.post, if_pos (show p.notices.length < Config.noticeCapacity from room.trans (by decide))]
  have second := Port.postAll_first (p := p.post (s.notice .reinit none [])) (by rw [posted, List.length_append]; exact Nat.succ_lt_succ room)
    (s.notice .noLayout none []) ns
  rw [posted, List.length_append] at second
  unfold State.noLayoutNotice
  rw [unloaded]
  exact second

/-- The signs a REINIT offers: every defined one that is not queued and not LOST, in index order (R119, R129). -/
theorem State.darken_queue (s : State) :
    s.darken.signLine.queue = s.signLine.queue ++ (signsWhere s.active.signs.has).filter s.admits :=
  State.offers_queue (signsWhere_nodup _) { s with aspect := { s.aspect with published := none, signs := Table.replicate 192 SignRec.dark } }

/-- The free trunks of a REINIT start from the records adopted and the signs offered (R199, R127). -/
theorem State.restart_kicked (s : State) {u : State} (hu : (adopt s.active s.loadBanks.restartEngine).1 = u) :
    s.restart.signLine = ({ s.restart with signLine := u.darken.signLine }.kickAll).signLine := by
  have finish (r : State × List (List Notice)) :
      (s.finishRestart r).signLine = ({ s.finishRestart r with signLine := r.1.darken.signLine }.kickAll).signLine := by
    unfold State.finishRestart
    rw [State.postAll_signLine]
    obtain ⟨_, _, kicked⟩ := (r.1.darken.drive fun _ => true).kickAll_frame
    refine (State.kickAll_congr ?_ ?_ ?_).symm
    · rw [kicked]
      rfl
    · rw [kicked]
      rfl
    · rfl
  rw [State.restart_eq, ← hu]
  exact finish _

/-- A head that was not LOST is not LOST under another layout (R20). -/
theorem headUnder_not_lost {h : HeadRec} (there : h.state ≠ .lost) (o n : Option SignCfg) (old new : Nat) :
    (headUnder o n old new h).state ≠ .lost := by
  have cold : HeadRec.cold.state ≠ .lost := by decide
  unfold headUnder
  split
  · exact there
  · exact cold
  · exact cold
  · split
    · show thresholdState old new h ≠ .lost
      rw [thresholdState_eq]
      split
      · decide
      · exact there
    · exact cold

/-- Settles O21: BUSY is the first branch; else the blocks adopt the image's layout, the signs are darkened, and the free trunks start. -/
theorem reinitTakesEffect : Obligations.ReinitTakesEffect := by
  refine ⟨fun s h busy => ?_, fun s h idle => ?_⟩
  · refine (exec_of_asks (c := .reinit) rfl h rfl rfl).trans ?_
    rw [if_pos busy, State.respond_eq_answered]
  have run : exec .reinit s = .next (s.restart.respond .ok [boolByte s.store.image.load.isSome, s.restart.store.state.code]) := by
    refine (exec_of_asks (c := .reinit) rfl h rfl rfl).trans ?_
    rw [if_neg (by rw [idle]; decide)]
  generalize hu : (adopt s.active s.loadBanks.restartEngine).1 = u
  have adopts : Adopts s.active s.loadBanks.restartEngine u := hu ▸ adopt_adopts s.active s.loadBanks.restartEngine
  have settles := s.restart_settles hu
  have clockU : u.port.clock = s.port.clock := by
    obtain ⟨_, _, _, _, _, _, _, _, _, _, frame⟩ := adopt_frame s.active s.loadBanks.restartEngine
    rw [← hu, frame]
    rfl
  have kicked := s.restart_kicked hu
  have port := s.restart_port.clock
  have engine := s.restart_engine_eq
  have aspect := s.restart_aspect
  have alarm := s.restart_alarm
  have banks := s.restart_banks
  have store := s.restart_store
  have first := s.restart_first
  obtain ⟨la, e, st, b, z, a, ns, f, m, as, x, ln, g, ps, sl, form⟩ := s.restart_form
  generalize s.restart = t at *
  have active : t.active = s.loadBanks.restartEngine.active := settles.active.trans adopts.active
  have dark : u.darken.signLine.heads = u.signLine.heads ∧ u.darken.signLine.trunks = u.signLine.trunks := by
    obtain ⟨_, frame⟩ := u.darken_frame
    rw [frame]
    exact ⟨rfl, rfl⟩
  have adopted : LineAdopted s t u.darken.signLine := adopts.lineAdopted rfl active dark.1 dark.2 kicked
  have line := adopted.respond .ok [boolByte s.store.image.load.isSome, t.store.state.code]
  have queue : t.signLine.queue = s.signLine.queue.filter t.active.signs.has ++ (signsWhere t.active.signs.has).filter u.admits := by
    rw [adopted.queue, u.darken_queue, adopts.queue, adopts.active, active]
    rfl
  have member (i : SignIdx) : i ∈ t.signLine.queue ↔ t.active.signs.has i = true ∧ (i ∈ s.signLine.queue
      ∨ (headUnder (s.active.signs.get i) (t.active.signs.get i)
        s.active.params.headThreshold t.active.params.headThreshold (s.signLine.heads.get i)).state ≠ .lost) := by
    have queued : u.signLine.queue = s.signLine.queue.filter t.active.signs.has := by
      rw [adopts.queue, active]
      rfl
    rw [queue, List.mem_append, List.mem_filter, List.mem_filter, mem_signsWhere, State.admits, queued, ← dark.1, adopted.heads i]
    generalize (headUnder _ _ _ _ _).state = state
    cases has : t.active.signs.has i with
    | true => by_cases old : i ∈ s.signLine.queue <;> simp [old, has]
    | false => simp
  have inForce := adopts.inForce (settles.respond .ok [boolByte s.store.image.load.isSome, t.store.state.code]) rfl rfl rfl rfl rfl clockU port
  refine ⟨_, run, banks, store, engine, ?_, fun i => ?_, inForce.beams, inForce.zonesAdopt, inForce.exitsAdopt, inForce.passages, ?_,
    fun i defined there => (member i).2 ⟨defined, .inr (headUnder_not_lost there _ _ _ _)⟩, member,
    ⟨_, (signsWhere_pairwise _).filter _, queue⟩, line.headsAdopt, first.1, first.2, ?_⟩
  · show t.aspect = { s.aspect with published := none, signs := t.aspect.signs }
    rw [aspect]
  · show t.aspect.signs.get i = SignRec.dark
    rw [aspect]
    exact Table.get_replicate ..
  · show t.alarm = { s.alarm with link := linkOf t.active.params.healthRule s.alarm.lineA.state s.alarm.lineB.state }
    rw [alarm.2, alarm.1]
  · rw [form]
    rfl

end Machine
end Sys2Proof
end

/-!
LOAD_EVENT (R198): what stands once every block has taken up the image's layout.
-/
section
namespace Sys2Proof
namespace Machine

/-- An exit at the load event is formed as one that no layout defined before (R71, R72). -/
theorem State.loadExit_eq (s : State) (e : ExitIdx) : s.loadExit e = s.exitUnder Layout.empty e ExitRec.undefined := by
  have before : Layout.empty.exits.has e = false := Bool.eq_false_iff.2 (Layout.exits_empty e)
  unfold State.loadExit State.exitUnder
  rw [before, Bool.false_and]
  simp

/-- The port at the load event, with NO_LAYOUT posted where the image holds none (R191, R198). -/
theorem State.takeUp_posted (s : State) : (s.takeUp.postAll s.noLayoutNotice).port =
    match s.store.image.load with
    | some _ => { s.port with ready := !s.port.lost }
    | none => { s.port with ready := !s.port.lost }.post { kind := .noLayout, time := s.port.clock, subject := none, value := [] } := by
  rw [State.postAll_port, s.takeUp_port, State.noLayoutNotice]
  cases s.store.image.load with
  | some _ => exact Port.postAll_nil _
  | none => exact Port.postAll_cons _ _ []

/-- The blocks the load event changes, and those it leaves (R198). -/
theorem State.takeUp_form (s : State) : ∃ la st b x ln ts hs a c p, s.takeUp = { s with
    layout := la, store := st, loaded := true, beams := b, port := p
    exits := { s.exits with exits := x, lines := ln }
    engine := { s.engine with changePending := true }
    signLine := { s.signLine with trunks := ts, heads := hs }
    alarm := { s.alarm with lineA := a, lineB := c } } := by
  obtain ⟨ts, hs, frame⟩ := s.takeUp_frame
  rw [frame]
  exact ⟨_, _, _, _, _, _, _, _, _, _, rfl⟩

theorem State.takeUp_kicked (s : State) : s.takeUp.signLine = ({ s.takeUp with signLine := s.takenUp.signLine }.kickAll).signLine := by
  obtain ⟨_, _, kicked⟩ := (s.takenUp.drive fun _ => true).kickAll_frame
  have line : s.takeUp = (s.takenUp.drive fun _ => true).kickAll := rfl
  rw [line]
  refine (State.kickAll_congr ?_ ?_ ?_).symm
  · rw [kicked]
    rfl
  · rw [kicked]
  · rfl

/-- The records of the lines and exits at the load event (R71). -/
theorem State.takenUp_exits (s : State) : (∀ l, s.takenUp.exits.lines.get l = s.loadBanks.loadBeams.loadLine l)
    ∧ ∀ e, s.takenUp.exits.exits.get e = s.loadBanks.loadBeams.loadLines.exitUnder Layout.empty e ExitRec.undefined :=
  ⟨fun _ => Table.get_ofFn .., fun e => (Table.get_ofFn ..).trans (State.loadExit_eq _ e)⟩

/-- Settles O4: every block takes up the image's layout, the lines are driven, and the free trunks start. -/
theorem loadEventTakesUpTheImage : Obligations.LoadEventTakesUpTheImage := by
  intro s unloaded
  have run : exec .loadEvent s = .next (s.takeUp.postAll s.noLayoutNotice) := by
    show Host.Outcome.next (if s.loaded then s else s.takeUp.postAll s.noLayoutNotice) = _
    rw [if_neg (by rw [unloaded]; decide)]
  have settles := s.takeUp_settles
  have store := s.takeUp_store
  have loaded := s.takeUp_loaded
  have port := s.takeUp_posted
  have kicked := s.takeUp_kicked
  obtain ⟨la, st, b, x, ln, ts, hs, a, c, p, form⟩ := s.takeUp_form
  obtain ⟨lines, exits⟩ := s.takenUp_exits
  generalize s.takeUp = t at *
  have banks : t.layout = { active := s.imageLayout, staging := s.imageLayout } := settles.layout.trans rfl
  have active : t.active = s.loadBanks.active := settles.active.trans rfl
  have line (l : LineIdx) : t.exits.lines.get l = match t.active.lines.get l with
      | .output src => .output (t.sourceTrue src)
      | .inputPlain => .input (s.exits.pins.get l) none
      | .inputDoor => .input (s.exits.pins.get l) none := by
    have loaded := lines l
    have modes : s.takenUp.active = t.active := settles.active.symm
    have input (other : ∀ src, t.active.lines.get l ≠ .output src) : t.exits.lines.get l = s.takenUp.exits.lines.get l :=
      settles.lines.unnamed l (by rwa [modes])
    rw [State.loadLine, show s.loadBanks.loadBeams.active = t.active from modes] at loaded
    cases mode : t.active.lines.get l with
    | output src =>
      rw [mode] at loaded
      exact settles.lines.shown l src false (by rw [modes, mode]) loaded trivial
    | inputPlain =>
      rw [mode] at loaded input
      exact (input nofun).trans loaded
    | inputDoor =>
      rw [mode] at loaded input
      exact (input nofun).trans loaded
  have inputs : s.loadBanks.loadBeams.loadLines.SameExitInputs t := by
    refine ⟨active, settles.zones.trans rfl, by rw [settles.boundary]; rfl, settles.grace.trans rfl, fun l door => ?_⟩
    refine (settles.lines.unnamed l ?_).trans rfl
    intro src output
    exact nomatch (show LineMode.output src = .inputDoor from output.symm.trans door)
  have head : ∀ i, s.takenUp.signLine.heads.get i = { s.signLine.heads.get i with defaultPending := t.active.signs.has i } := by
    intro i
    rw [active]
    exact Table.get_ofFn ..
  have signLine : s.takenUp.signLine = { s.signLine with
      heads := Table.ofFn fun i => { s.signLine.heads.get i with defaultPending := t.active.signs.has i } } := by
    rw [active]
    rfl
  have alarm : ∀ l, t.alarm.line l = { s.alarm.line l with
      expiry := some (s.port.clock + BitVec.ofNat 32 (50 * (t.active.params.supervision.val + 1))) } := by
    intro l
    rw [settles.alarm, active]
    cases l <;> rfl
  refine ⟨_, run, banks, store, loaded, port, fun c => ?_, line, fun e => ?_, fun i => ?_, ?_, alarm, ?_⟩
  · show t.beams.get c = if (t.active.beams.get c).enabled then _ else _
    rw [settles.beams, active]
    exact Table.get_ofFn ..
  · show t.exits.exits.get e = if t.active.exits.has e then _ else _
    rw [settles.records, exits, ← inputs.exitUnder, State.exitUnder, Bool.eq_false_iff.2 (Layout.exits_empty e)]
    rfl
  · show (t.signLine.heads.get i).defaultPending = t.active.signs.has i
    have kicks := ({ t with signLine := s.takenUp.signLine } : State).kickAll_kicks
    obtain ⟨_, _, kept⟩ := kicks.heads i
    rw [kicked, kept]
    dsimp only
    rw [head]
  · have congr := State.kickAll_congr (s := { t with signLine := s.takenUp.signLine })
      (u := { t.postAll s.noLayoutNotice with signLine := s.takenUp.signLine }) rfl rfl rfl
    rw [← kicked, signLine] at congr
    exact congr.symm
  · rw [form]
    rfl

end Machine
end Sys2Proof
end
